-- ==== Sys2Proof/Word.lean ====
section
/-! DEFINITION. The word types of the machine (R6, R9, R10, R12) and their plainest names. -/

namespace Sys2Proof

/-- A 64-bit register or address (R12). -/
abbrev Word := BitVec 64

/-- One byte of memory. -/
abbrev Byte := BitVec 8

/-- The 128 bits of a v register, without its tag (R12). -/
abbrev Vec := BitVec 128

/-- A core identifier die.cx.cy.core (R9). -/
abbrev CoreId := BitVec 16

/-- A context number within a core (R10). -/
abbrev CtxNum := BitVec 4

/-- A cluster of the module: a core identifier without its core field (R9). -/
abbrev ClusterId := BitVec 13

/-- A die or its sector (R11, R14). -/
abbrev Die := BitVec 3

/-- A tenant tag (R32). -/
abbrev Tenant := BitVec 7

/-- A tensor identifier (R25). -/
abbrev Tid := BitVec 16

/-- The 8-bit operand code of a register (R58). -/
abbrev RegCode := BitVec 8

/-- The die field of a core identifier (R9). -/
def coreDie (c : CoreId) : Die := c.extractLsb' 13 3

/-- The cluster column of a core identifier (R9). -/
def coreX (c : CoreId) : Nat := (c.extractLsb' 8 5).toNat

/-- The cluster row of a core identifier (R9). -/
def coreY (c : CoreId) : Nat := (c.extractLsb' 3 5).toNat

/-- The core number within its cluster (R9). -/
def coreInCluster (c : CoreId) : BitVec 3 := c.extractLsb' 0 3

/-- The cluster of a core (R9). -/
def coreCluster (c : CoreId) : ClusterId := c.extractLsb' 3 13

/-- A cx or cy value from 20 to 31 names no core (R9). -/
def coreExists (c : CoreId) : Bool := decide (coreX c < 20) && decide (coreY c < 20)

/-- The core identifier of core `n` of a cluster (R9). -/
def clusterCore (cl : ClusterId) (n : BitVec 3) : CoreId := cl ++ n

end Sys2Proof
end

