-- ==== Sys2Proof/Syntax.lean ====
section
/-! DEFINITION. The instructions and events of the machine as data: operand forms, the coded fields of the
opcode map (R55 to R81) and one constructor for each row of spec/opcode_table.json. -/

namespace Sys2Proof

/-- The common header without OP and FN (R55). HINT bits 3:2 and bits 31:29 are zero in every legal word. -/
structure Header where
  g0   : BitVec 3 := 0
  g0n  : Bool := false
  g1   : BitVec 3 := 0
  g1n  : Bool := false
  hint : BitVec 2 := 0
  dly  : BitVec 4 := 0
  yld  : Bool := false
  deriving DecidableEq, Repr

/-- An s register slot with its binding mark (R58). -/
structure SReg where
  r     : BitVec 6
  early : Bool := false
  deriving DecidableEq, Repr

/-- A v register slot without a modifier (R58). -/
structure VReg where
  r     : BitVec 5
  early : Bool := false
  deriving DecidableEq, Repr

/-- A v register source of format R with its modifier field (R58, R68). -/
structure VSrc where
  r     : BitVec 5
  early : Bool := false
  mod   : BitVec 12 := 0
  deriving DecidableEq, Repr

/-- A predicate slot (R58). -/
structure KReg where
  r     : BitVec 3
  early : Bool := false
  deriving DecidableEq, Repr

/-- An accumulator slot (R58). -/
structure MReg where
  r     : BitVec 2
  early : Bool := false
  deriving DecidableEq, Repr

/-- A source that takes an s register or a signed 7-bit constant (R58, R59). -/
inductive SCon where
  | reg (r : BitVec 6) (early : Bool)
  | con (c : BitVec 7)
  deriving DecidableEq, Repr

/-- The operands of `mov`: destination and source of one kind, or a constant into an s register (R120). -/
inductive MovOps where
  | s (d : SReg) (a : SCon)
  | v (d : VReg) (a : VSrc)
  | k (d a : KReg)
  deriving DecidableEq, Repr

/-- BASE, IDX, SCL and DISP of format M (R65, R71). -/
structure Addr where
  base : SReg
  idx  : SReg
  scl  : BitVec 3
  disp : BitVec 32
  deriving DecidableEq, Repr

/-- The size of a scalar access (R67). -/
inductive Size where
  | b | h | w | d
  deriving DecidableEq, Repr

/-- A format tag; codes 11 to 15 are reserved and have no constructor (R89). -/
inductive Tag where
  | b128 | i8 | q4 | t6 | t8 | bf16 | fp16 | fp32 | i16 | i32 | i64
  deriving DecidableEq, Repr

/-- A scope (R67). -/
inductive Scope where
  | core | clu | die | mod | sys
  deriving DecidableEq, Repr

/-- An ordering (R67). -/
inductive Ord where
  | rlx | acq | rel | sc
  deriving DecidableEq, Repr

/-- An atomic operation (R67). -/
inductive AOp where
  | add | and | or | xor | min | max | minu | maxu | swap | fadd | fmax | fmin
  deriving DecidableEq, Repr

/-- A kind of `fcvt` (R77). -/
inductive FKind where
  | i32 | i64 | ui32 | ui64 | fp32 | fp64 | bf16 | fp16
  deriving DecidableEq, Repr

/-- A rounding of `fcvt` to an integer kind (R77). -/
inductive Rnd where
  | rne | rz | rdn | rup
  deriving DecidableEq, Repr

/-- The control registers (R387). -/
inductive CtlReg where
  | status | cause | epc | einfo | evec | ctxid | tenant | dom | flags | amax | mxcnt | scale
  | wdog | lmcfg | foldbud | foldst | foldpc | jrnl | linkstk | time | cycle | evmask | svc | mmchk
  deriving DecidableEq, Repr

/-- What a service kernel answers to a collector's request (R400, R427). The kernel's choice is an argument (log 8). -/
inductive KernelAnswer where
  | resolved | notResolved
  deriving DecidableEq, Repr

/-- What a Translation Completion carries (R429): a host frame with its access rights, not present, or a refusal. -/
inductive AtsResult where
  | mapped (hpa size : Nat) (rd wr ex : Bool)
  | notPresent
  | refused
  deriving DecidableEq, Repr

/-- A storage that holds rows of data and check symbols (R413). -/
inductive Storage where
  | localMem (core : CoreId)
  | slice (cluster : ClusterId)
  | stack (sector : Die)
  deriving DecidableEq, Repr

/-- One row of a storage (R413). -/
structure StorageRow where
  store : Storage
  row   : Nat
  deriving DecidableEq, Repr

/-- What happens to a die's supply or temperature (R439). -/
inductive PowerEvent where
  | sag (percent : Nat)
  | supplyGood
  | hot
  | cool
  deriving DecidableEq, Repr

/-- One image of a load request: its bytes, and for each section kind 1 to 4 the load address, the sector that homes it
and whether it is deferred, as the request and the kernel have them (R82, R83, R360, R427). -/
structure LoadImage where
  bytes    : List Byte
  base     : List Word
  sector   : List Die
  deferred : List Nat
  deriving DecidableEq, Repr

/-- A load request: the tenant and its images in order (R87). -/
structure LoadRequest where
  tenant : Tenant
  images : List LoadImage
  deriving DecidableEq, Repr

/-- A packet that arrives over a scale link from another module (R31, R357). -/
inductive ScalePacket where
  | send (src : BitVec 16) (tenant : Tenant) (core : CoreId) (ring : BitVec 4) (data : List Byte)
  | write (src : BitVec 16) (tenant : Tenant) (addr : Word) (data : List Byte)
  | atomic (src : BitVec 16) (tenant : Tenant) (addr : Word) (op : AOp) (wide : Bool) (data : Word)
  | tillAdd (src : BitVec 16) (tenant : Tenant) (till : BitVec 13) (bytes : Nat)
  deriving DecidableEq, Repr

/-- The instruction and event rows of spec/opcode_table.json, one constructor each (R73 to R81 for the words). -/
inductive Instr where
  /-- NOP (R133): Does nothing except apply its guards, DLY and YLD. -/
  | nop (h : Header)
  /-- BR (R134): Transfers control unconditionally to pc plus OFF times 16. -/
  | br (h : Header) (off : BitVec 40)
  /-- BRL (R137): Pushes the return address on the link stack, writes it to s63 and branches to the target. -/
  | brl (h : Header) (off : BitVec 40)
  /-- RET (R138): Returns to s63 after checking it against the top of the link stack, and drops the pin when leaving residual code. -/
  | ret (h : Header)
  /-- JT (R139): Dispatches through a bounded table of 8-byte addresses to a land instruction with a matching pad tag. -/
  | jt (h : Header) (i : SReg) (b : SReg) (pad : BitVec 16) (bound : BitVec 22)
  /-- LAND (R140): Landing pad that changes nothing when it issues; it carries the pad tag and the foldable mark. -/
  | land (h : Header) (pad : BitVec 16) (foldable : Bool)
  /-- LOOP (R141): Decrements a count register and branches while the count stays nonzero. -/
  | loop (h : Header) (c : SReg) (off : BitVec 40)
  /-- TRAP (R142): Raises SOFTWARE with IMM64 placed in ctl.einfo. -/
  | trap (h : Header) (imm : Word)
  /-- ERET (R384): Handler only: ends the current handling and then resumes, tears down or leaves saved the trapped context. -/
  | eret (h : Header)
  /-- ADD (R110): Format R 64-bit addition modulo 2^64. -/
  | add (h : Header) (d : SReg) (a : SCon) (b : SCon)
  /-- SUB (R110): Format R 64-bit subtraction modulo 2^64. -/
  | sub (h : Header) (d : SReg) (a : SCon) (b : SCon)
  /-- AND (R110): Format R bitwise and. -/
  | and (h : Header) (d : SReg) (a : SCon) (b : SCon)
  /-- OR (R110): Format R bitwise or. -/
  | or (h : Header) (d : SReg) (a : SCon) (b : SCon)
  /-- XOR (R110): Format R bitwise xor. -/
  | xor (h : Header) (d : SReg) (a : SCon) (b : SCon)
  /-- ANDN (R110): Format R and with the complement of the second operand. -/
  | andn (h : Header) (d : SReg) (a : SCon) (b : SCon)
  /-- SHL (R110): Format R left shift by b[5:0], filling with zeros. -/
  | shl (h : Header) (d : SReg) (a : SCon) (b : SCon)
  /-- SHR (R110): Format R logical right shift by b[5:0]. -/
  | shr (h : Header) (d : SReg) (a : SCon) (b : SCon)
  /-- SRA (R110): Format R arithmetic right shift by b[5:0]. -/
  | sra (h : Header) (d : SReg) (a : SCon) (b : SCon)
  /-- ROL (R110): Format R rotate left by b[5:0]. -/
  | rol (h : Header) (d : SReg) (a : SCon) (b : SCon)
  /-- MIN (R110): Format R signed minimum. -/
  | min (h : Header) (d : SReg) (a : SCon) (b : SCon)
  /-- MAX (R110): Format R signed maximum. -/
  | max (h : Header) (d : SReg) (a : SCon) (b : SCon)
  /-- MINU (R110): Format R unsigned minimum. -/
  | minu (h : Header) (d : SReg) (a : SCon) (b : SCon)
  /-- MAXU (R110): Format R unsigned maximum. -/
  | maxu (h : Header) (d : SReg) (a : SCon) (b : SCon)
  /-- ADD_IMM (R110): Format I addition with a 64-bit immediate. -/
  | addImm (h : Header) (d : SReg) (a : SCon) (imm : Word)
  /-- SUB_IMM (R110): Format I subtraction with a 64-bit immediate. -/
  | subImm (h : Header) (d : SReg) (a : SCon) (imm : Word)
  /-- AND_IMM (R110): Format I bitwise and with a 64-bit immediate. -/
  | andImm (h : Header) (d : SReg) (a : SCon) (imm : Word)
  /-- OR_IMM (R110): Format I bitwise or with a 64-bit immediate. -/
  | orImm (h : Header) (d : SReg) (a : SCon) (imm : Word)
  /-- XOR_IMM (R110): Format I bitwise xor with a 64-bit immediate. -/
  | xorImm (h : Header) (d : SReg) (a : SCon) (imm : Word)
  /-- ANDN_IMM (R110): Format I and-not with a 64-bit immediate. -/
  | andnImm (h : Header) (d : SReg) (a : SCon) (imm : Word)
  /-- SHL_IMM (R110): Format I left shift by an immediate amount. -/
  | shlImm (h : Header) (d : SReg) (a : SCon) (imm : Word)
  /-- SHR_IMM (R110): Format I logical right shift by an immediate amount. -/
  | shrImm (h : Header) (d : SReg) (a : SCon) (imm : Word)
  /-- SRA_IMM (R110): Format I arithmetic right shift by an immediate amount. -/
  | sraImm (h : Header) (d : SReg) (a : SCon) (imm : Word)
  /-- ROL_IMM (R110): Format I rotate left by an immediate amount. -/
  | rolImm (h : Header) (d : SReg) (a : SCon) (imm : Word)
  /-- MIN_IMM (R110): Format I signed minimum with an immediate. -/
  | minImm (h : Header) (d : SReg) (a : SCon) (imm : Word)
  /-- MAX_IMM (R110): Format I signed maximum with an immediate. -/
  | maxImm (h : Header) (d : SReg) (a : SCon) (imm : Word)
  /-- MINU_IMM (R110): Format I unsigned minimum with an immediate. -/
  | minuImm (h : Header) (d : SReg) (a : SCon) (imm : Word)
  /-- MAXU_IMM (R110): Format I unsigned maximum with an immediate. -/
  | maxuImm (h : Header) (d : SReg) (a : SCon) (imm : Word)
  /-- MUL (R111): Writes the low 64 bits of the 128-bit product. -/
  | mul (h : Header) (d : SReg) (a : SCon) (b : SCon)
  /-- MULH (R111): Writes the high 64 bits of the signed product. -/
  | mulh (h : Header) (d : SReg) (a : SCon) (b : SCon)
  /-- MULHU (R111): Writes the high 64 bits of the unsigned product. -/
  | mulhu (h : Header) (d : SReg) (a : SCon) (b : SCon)
  /-- DIV (R112): Signed division truncating toward zero, with DIVZERO or the DZ flag on a zero divisor. -/
  | div (h : Header) (d : SReg) (a : SCon) (b : SCon)
  /-- DIVU (R112): Unsigned division. -/
  | divu (h : Header) (d : SReg) (a : SCon) (b : SCon)
  /-- REM (R112): Signed remainder. -/
  | rem (h : Header) (d : SReg) (a : SCon) (b : SCon)
  /-- REMU (R112): Unsigned remainder. -/
  | remu (h : Header) (d : SReg) (a : SCon) (b : SCon)
  /-- CLZ (R113): Counts the leading zero bits. -/
  | clz (h : Header) (d : SReg) (a : SCon)
  /-- CTZ (R113): Counts the trailing zero bits. -/
  | ctz (h : Header) (d : SReg) (a : SCon)
  /-- POPC (R113): Counts the one bits. -/
  | popc (h : Header) (d : SReg) (a : SCon)
  /-- SEXT (R114): Sign-extends from a given width. -/
  | sext (h : Header) (d : SReg) (a : SCon) (w : SCon)
  /-- ZEXT (R114): Zero-extends from a given width. -/
  | zext (h : Header) (d : SReg) (a : SCon) (w : SCon)
  /-- BEXT (R115): Extracts a bit field of a given position and length. -/
  | bext (h : Header) (d : SReg) (a : SCon) (p : SCon) (len : BitVec 7)
  /-- BINS (R115): Inserts a bit field at a given position and length. -/
  | bins (h : Header) (d : SReg) (a : SCon) (f : SCon) (p : SCon) (len : BitVec 7)
  /-- CMP_EQ (R116): Format R compare-equal; writes the outcome and its complement to two predicates. -/
  | cmpEq (h : Header) (kt : KReg) (kf : KReg) (a : SCon) (b : SCon)
  /-- CMP_NE (R116): Format R compare not-equal. -/
  | cmpNe (h : Header) (kt : KReg) (kf : KReg) (a : SCon) (b : SCon)
  /-- CMP_LT (R116): Format R signed less-than compare. -/
  | cmpLt (h : Header) (kt : KReg) (kf : KReg) (a : SCon) (b : SCon)
  /-- CMP_GE (R116): Format R signed greater-or-equal compare. -/
  | cmpGe (h : Header) (kt : KReg) (kf : KReg) (a : SCon) (b : SCon)
  /-- CMP_LTU (R116): Format R unsigned less-than compare. -/
  | cmpLtu (h : Header) (kt : KReg) (kf : KReg) (a : SCon) (b : SCon)
  /-- CMP_GEU (R116): Format R unsigned greater-or-equal compare. -/
  | cmpGeu (h : Header) (kt : KReg) (kf : KReg) (a : SCon) (b : SCon)
  /-- CMP_EQ_IMM (R116): Format I compare-equal against IMM64. -/
  | cmpEqImm (h : Header) (kt : KReg) (kf : KReg) (a : SCon) (imm : Word)
  /-- CMP_NE_IMM (R116): Format I compare not-equal against IMM64. -/
  | cmpNeImm (h : Header) (kt : KReg) (kf : KReg) (a : SCon) (imm : Word)
  /-- CMP_LT_IMM (R116): Format I signed less-than compare against IMM64. -/
  | cmpLtImm (h : Header) (kt : KReg) (kf : KReg) (a : SCon) (imm : Word)
  /-- CMP_GE_IMM (R116): Format I signed greater-or-equal compare against IMM64. -/
  | cmpGeImm (h : Header) (kt : KReg) (kf : KReg) (a : SCon) (imm : Word)
  /-- CMP_LTU_IMM (R116): Format I unsigned less-than compare against IMM64. -/
  | cmpLtuImm (h : Header) (kt : KReg) (kf : KReg) (a : SCon) (imm : Word)
  /-- CMP_GEU_IMM (R116): Format I unsigned greater-or-equal compare against IMM64. -/
  | cmpGeuImm (h : Header) (kt : KReg) (kf : KReg) (a : SCon) (imm : Word)
  /-- SEL (R117): Selects between two values according to a predicate. -/
  | sel (h : Header) (d : SReg) (k : KReg) (a : SCon) (b : SCon)
  /-- PLOG_AND (R118): Writes the and of two predicates. -/
  | plogAnd (h : Header) (d : KReg) (a : KReg) (b : KReg)
  /-- PLOG_OR (R118): Writes the or of two predicates. -/
  | plogOr (h : Header) (d : KReg) (a : KReg) (b : KReg)
  /-- PLOG_XOR (R118): Writes the xor of two predicates. -/
  | plogXor (h : Header) (d : KReg) (a : KReg) (b : KReg)
  /-- PLOG_ANDN (R118): Writes the first predicate and not the second. -/
  | plogAndn (h : Header) (d : KReg) (a : KReg) (b : KReg)
  /-- MOVI (R119): Loads a 64-bit immediate into an s register. -/
  | movi (h : Header) (d : SReg) (imm : Word)
  /-- MOV (R120): Copies an s, v (with its tag) or k register. -/
  | mov (h : Header) (ops : MovOps)
  /-- LEA (R121): Computes a format M address without accessing memory. -/
  | lea (h : Header) (d : SReg) (ea : Addr)
  /-- GADDR (R125): Maps an offset through a distribution-table entry to a slab address. -/
  | gaddr (h : Header) (d : SReg) (e : SCon) (o : SCon)
  /-- DTSET (R124): Writes a checked distribution-table entry. -/
  | dtset (h : Header) (e : SCon) (x : SReg)
  /-- FADD (R127): Floating-point addition in FP32 or FP64, rounded once. -/
  | fadd (h : Header) (r : SReg) (a : SReg) (b : SReg) (d : Bool)
  /-- FSUB (R127): Floating-point subtraction. -/
  | fsub (h : Header) (r : SReg) (a : SReg) (b : SReg) (d : Bool)
  /-- FMUL (R127): Floating-point multiplication. -/
  | fmul (h : Header) (r : SReg) (a : SReg) (b : SReg) (d : Bool)
  /-- FDIV (R127): Floating-point division. -/
  | fdiv (h : Header) (r : SReg) (a : SReg) (b : SReg) (d : Bool)
  /-- FMIN (R129): Floating-point minimum in which a number beats a NaN. -/
  | fmin (h : Header) (r : SReg) (a : SReg) (b : SReg) (d : Bool)
  /-- FMAX (R129): Floating-point maximum in which a number beats a NaN. -/
  | fmax (h : Header) (r : SReg) (a : SReg) (b : SReg) (d : Bool)
  /-- FSQRT (R127): Floating-point square root. -/
  | fsqrt (h : Header) (r : SReg) (a : SReg) (d : Bool)
  /-- FMA (R128): Fused multiply-add a*b+c, rounded once. -/
  | fma (h : Header) (r : SReg) (a : SReg) (b : SReg) (c : SReg) (d : Bool)
  /-- FMS (R128): Fused multiply-subtract a*b-c. -/
  | fms (h : Header) (r : SReg) (a : SReg) (b : SReg) (c : SReg) (d : Bool)
  /-- FNMA (R128): Fused negated multiply-add -(a*b)+c. -/
  | fnma (h : Header) (r : SReg) (a : SReg) (b : SReg) (c : SReg) (d : Bool)
  /-- FCMP_EQ (R130): Floating-point compare-equal into two predicates. -/
  | fcmpEq (h : Header) (kt : KReg) (kf : KReg) (a : SReg) (b : SReg) (d : Bool)
  /-- FCMP_NE (R130): Floating-point compare not-equal. -/
  | fcmpNe (h : Header) (kt : KReg) (kf : KReg) (a : SReg) (b : SReg) (d : Bool)
  /-- FCMP_LT (R130): Floating-point less-than compare. -/
  | fcmpLt (h : Header) (kt : KReg) (kf : KReg) (a : SReg) (b : SReg) (d : Bool)
  /-- FCMP_GE (R130): Floating-point greater-or-equal compare. -/
  | fcmpGe (h : Header) (kt : KReg) (kf : KReg) (a : SReg) (b : SReg) (d : Bool)
  /-- FCMP_UN (R130): Floating-point unordered test. -/
  | fcmpUn (h : Header) (kt : KReg) (kf : KReg) (a : SReg) (b : SReg) (d : Bool)
  /-- FCVT (R131): Converts between integer and floating kinds with a given rounding. -/
  | fcvt (h : Header) (r : SReg) (a : SReg) (src : FKind) (dst : FKind) (rnd : Rnd)
  /-- FCLASS (R132): Writes a one-hot class of a floating-point value. -/
  | fclass (h : Header) (r : SReg) (a : SReg) (d : Bool)
  /-- VADD (R151): Lane-wise addition by tag. -/
  | vadd (h : Header) (d : VReg) (a : VSrc) (b : VSrc)
  /-- VSUB (R151): Lane-wise subtraction. -/
  | vsub (h : Header) (d : VReg) (a : VSrc) (b : VSrc)
  /-- VMUL (R151): Lane-wise multiplication. -/
  | vmul (h : Header) (d : VReg) (a : VSrc) (b : VSrc)
  /-- VMIN (R151): Lane-wise minimum. -/
  | vmin (h : Header) (d : VReg) (a : VSrc) (b : VSrc)
  /-- VMAX (R151): Lane-wise maximum. -/
  | vmax (h : Header) (d : VReg) (a : VSrc) (b : VSrc)
  /-- VAND (R151): Bitwise and of vectors. -/
  | vand (h : Header) (d : VReg) (a : VSrc) (b : VSrc)
  /-- VOR (R151): Bitwise or of vectors. -/
  | vor (h : Header) (d : VReg) (a : VSrc) (b : VSrc)
  /-- VXOR (R151): Bitwise xor of vectors. -/
  | vxor (h : Header) (d : VReg) (a : VSrc) (b : VSrc)
  /-- VANDN (R151): Bitwise and-not of vectors. -/
  | vandn (h : Header) (d : VReg) (a : VSrc) (b : VSrc)
  /-- VSHL (R151): Lane-wise left shift. -/
  | vshl (h : Header) (d : VReg) (a : VSrc) (b : VSrc)
  /-- VSHR (R151): Lane-wise logical right shift. -/
  | vshr (h : Header) (d : VReg) (a : VSrc) (b : VSrc)
  /-- VSRA (R151): Lane-wise arithmetic right shift. -/
  | vsra (h : Header) (d : VReg) (a : VSrc) (b : VSrc)
  /-- VFMA (R152): Lane-wise fused multiply-add. -/
  | vfma (h : Header) (d : VReg) (a : VSrc) (b : VSrc) (c : VReg)
  /-- VFMS (R152): Lane-wise fused multiply-subtract. -/
  | vfms (h : Header) (d : VReg) (a : VSrc) (b : VSrc) (c : VReg)
  /-- VFNMA (R152): Lane-wise fused negated multiply-add. -/
  | vfnma (h : Header) (d : VReg) (a : VSrc) (b : VSrc) (c : VReg)
  /-- VCMP_EQ (R154): Lane-wise equal compare giving a lane mask. -/
  | vcmpEq (h : Header) (d : VReg) (a : VSrc) (b : VSrc)
  /-- VCMP_NE (R154): Lane-wise not-equal compare. -/
  | vcmpNe (h : Header) (d : VReg) (a : VSrc) (b : VSrc)
  /-- VCMP_LT (R154): Lane-wise less-than compare. -/
  | vcmpLt (h : Header) (d : VReg) (a : VSrc) (b : VSrc)
  /-- VCMP_GE (R154): Lane-wise greater-or-equal compare. -/
  | vcmpGe (h : Header) (d : VReg) (a : VSrc) (b : VSrc)
  /-- VCMP_LTU (R154): Lane-wise unsigned less-than compare. -/
  | vcmpLtu (h : Header) (d : VReg) (a : VSrc) (b : VSrc)
  /-- VCMP_GEU (R154): Lane-wise unsigned greater-or-equal compare. -/
  | vcmpGeu (h : Header) (d : VReg) (a : VSrc) (b : VSrc)
  /-- VCMP_UN (R154): Lane-wise unordered (NaN or NaR) test. -/
  | vcmpUn (h : Header) (d : VReg) (a : VSrc) (b : VSrc)
  /-- VSEL (R155): Bitwise selection under a mask. -/
  | vsel (h : Header) (d : VReg) (k : VSrc) (a : VSrc) (b : VReg)
  /-- VABS (R153): Lane-wise absolute value. -/
  | vabs (h : Header) (d : VReg) (a : VSrc)
  /-- VNEG (R153): Lane-wise negation. -/
  | vneg (h : Header) (d : VReg) (a : VSrc)
  /-- VDOT (R156): Segment dot products summed in tree order. -/
  | vdot (h : Header) (d : VReg) (a : VSrc) (b : VSrc) (seg : BitVec 3)
  /-- VSUM (R156): Segment sums in tree order. -/
  | vsum (h : Header) (d : VReg) (a : VSrc) (seg : BitVec 3)
  /-- VCVT (R157): Converts lanes to a target tag at a scale base and updates ctl.amax. -/
  | vcvt (h : Header) (d : VReg) (a : VSrc) (t : Tag) (sb : BitVec 8) (ctl : Bool)
  /-- VTAG (R160): Replaces the tag without changing any bit. -/
  | vtag (h : Header) (d : VReg) (a : VSrc) (t : Tag)
  /-- VGTAG (R161): Reads a register's tag into an s register. -/
  | vgtag (h : Header) (d : SReg) (a : VSrc)
  /-- VSPLAT (R162): Fills every lane with the bits of a scalar value. -/
  | vsplat (h : Header) (d : VReg) (a : SCon) (t : Tag)
  /-- VEXT (R163): Extracts one lane into an s register. -/
  | vext (h : Header) (d : SReg) (a : VSrc) (l : SCon)
  /-- VINS (R164): Inserts a scalar value into one lane. -/
  | vins (h : Header) (d : VReg) (a : VSrc) (x : SCon) (l : SCon)
  /-- VPERM (R165): Permutes lanes by byte indices. -/
  | vperm (h : Header) (d : VReg) (a : VSrc) (b : VSrc)
  /-- VPACK (R158): Packs two sources into a tag with twice the lanes. -/
  | vpack (h : Header) (d : VReg) (a : VSrc) (b : VSrc) (t : Tag)
  /-- VUNPK_LO (R159): Unpacks the low half of the lanes to a tag with half the lanes. -/
  | vunpkLo (h : Header) (d : VReg) (a : VSrc) (t : Tag)
  /-- VUNPK_HI (R159): Unpacks the high half of the lanes. -/
  | vunpkHi (h : Header) (d : VReg) (a : VSrc) (t : Tag)
  /-- VSFN_EXP2 (R166): Correctly rounded 2^x per lane. -/
  | vsfnExp2 (h : Header) (d : VReg) (a : VSrc)
  /-- VSFN_LOG2 (R166): Correctly rounded log2 per lane. -/
  | vsfnLog2 (h : Header) (d : VReg) (a : VSrc)
  /-- VSFN_RCP (R166): Correctly rounded reciprocal per lane. -/
  | vsfnRcp (h : Header) (d : VReg) (a : VSrc)
  /-- VSFN_RSQRT (R166): Correctly rounded reciprocal square root per lane. -/
  | vsfnRsqrt (h : Header) (d : VReg) (a : VSrc)
  /-- VSFN_TANH (R166): Correctly rounded tanh per lane. -/
  | vsfnTanh (h : Header) (d : VReg) (a : VSrc)
  /-- VSFN_SIGM (R166): Correctly rounded sigmoid per lane. -/
  | vsfnSigm (h : Header) (d : VReg) (a : VSrc)
  /-- VSFN_SILU (R166): Correctly rounded SiLU per lane. -/
  | vsfnSilu (h : Header) (d : VReg) (a : VSrc)
  /-- VSFN_ERF (R166): Correctly rounded erf per lane. -/
  | vsfnErf (h : Header) (d : VReg) (a : VSrc)
  /-- MZERO (R182): Engine instruction that sets every accumulator element to +0. -/
  | mzero (h : Header) (m : MReg)
  /-- MMA (R178): Accepts a product of tile pairs taken from two rings into an accumulator. -/
  | mma (h : Header) (m : MReg) (a : SReg) (b : SReg) (ring : BitVec 4) (gate : BitVec 4) (shape : BitVec 12)
  /-- MLOAD (R183): Loads an accumulator from local memory. -/
  | mload (h : Header) (m : MReg) (a : SReg)
  /-- MSTORE (R183): Stores an accumulator to local memory. -/
  | mstore (h : Header) (a : SReg) (m : MReg)
  /-- MCVT (R185): Accepts the conversion of an accumulator into tiles of a ring. -/
  | mcvt (h : Header) (m : MReg) (t : SReg) (ring : BitVec 4)
  /-- MMV_GET (R184): Moves one accumulator piece into a vector register. -/
  | mmvGet (h : Header) (d : VReg) (m : MReg) (p : SCon)
  /-- MMV_PUT (R184): Moves a vector register into one accumulator piece. -/
  | mmvPut (h : Header) (m : MReg) (a : VSrc) (p : SCon)
  /-- MWAIT (R174): Holds the context until the engine instructions naming an accumulator have completed. -/
  | mwait (h : Header) (m : MReg)
  /-- GEMV (R191): Accepts a memory-side matrix-vector product in ring or memory form. -/
  | gemv (h : Header) (a : SReg) (n : SCon) (res : SReg) (tid : Tid) (ring : BitVec 4) (bf16 : Bool) (mem : Bool)
  /-- MSPILL (R188): Brings the engine to rest, writes its state to a spill area and leaves it empty. -/
  | mspill (h : Header) (a : SReg)
  /-- MREST (R190): Checks a spill area and restores the engine from it. -/
  | mrest (h : Header) (a : SReg)
  /-- LD (R296): Zero-extending load of 1 to 8 bytes. -/
  | ld (h : Header) (d : SReg) (ea : Addr) (sz : Size)
  /-- LD_SX (R296): Sign-extending load. -/
  | ldSx (h : Header) (d : SReg) (ea : Addr) (sz : Size)
  /-- ST (R297): Scalar store, performed locally or posted when global. -/
  | st (h : Header) (x : SReg) (ea : Addr) (sz : Size)
  /-- LDV (R298): Loads a vector register with a tag. -/
  | ldv (h : Header) (d : VReg) (ea : Addr) (sz : Tag)
  /-- STV (R298): Stores a vector register after checking its tag. -/
  | stv (h : Header) (x : VReg) (ea : Addr) (sz : Tag)
  /-- LDC (R296): Load through the constant path on frozen pages. -/
  | ldc (h : Header) (d : SReg) (ea : Addr) (sz : Size)
  /-- LDC_SX (R296): Sign-extending constant-path load. -/
  | ldcSx (h : Header) (d : SReg) (ea : Addr) (sz : Size)
  /-- LDT (R299): Reads 16 bytes of a tile image through a TID. -/
  | ldt (h : Header) (d : VReg) (n : SCon) (o : SCon) (tid : Tid) (t : Tag)
  /-- STT (R299): Posts a write of 16 bytes of a tile image. -/
  | stt (h : Header) (n : SCon) (o : SCon) (x : VReg) (tid : Tid)
  /-- PREF (R300): Prefetches a flat entry into its home slice, and into L1 with .l1. -/
  | pref (h : Header) (ea : Addr)
  /-- PREFI (R300): Prefetches instruction lines into the cluster instruction cache. -/
  | prefi (h : Header) (ea : Addr) (sz : BitVec 5)
  /-- RDEF (R301): Defines or redefines a ring and advances its definition number. -/
  | rdef (h : Header) (base : SReg) (lg : SCon) (n : SCon) (ring : BitVec 4)
  /-- RACQ (R302): Takes the oldest filled slot of a ring as a consumer. -/
  | racq (h : Header) (d : SReg) (ring : BitVec 4)
  /-- RACQ_FREE (R302): Reserves the next free ring position as a producer. -/
  | racqFree (h : Header) (d : SReg) (ring : BitVec 4)
  /-- RREL (R303): Frees a slot taken by this context. -/
  | rrel (h : Header) (a : SReg) (ring : BitVec 4)
  /-- RRES (R305): Undefines a ring, settling its waiters. -/
  | rres (h : Header) (ring : BitVec 4)
  /-- RPUB (R303): Publishes a reserved slot as filled. -/
  | rpub (h : Header) (a : SReg) (ring : BitVec 4)
  /-- SEND (R310): Accepts a delivery of local bytes into a ring slot of a target core. -/
  | send (h : Header) (a : SReg) (c : SReg) (n : SCon) (ring : BitVec 4)
  /-- CPY (R312): Accepts a strided copy described by a copy record. -/
  | cpy (h : Header) (a : SReg)
  /-- SEAL (R307): Seals the open batch and opens the next one. -/
  | seal (h : Header) (d : SReg)
  /-- BWAIT (R308): Holds until at most n sealed batches are unfinished. -/
  | bwait (h : Header) (n : SCon)
  /-- TSUB (R313): Subscribes tiles for the loader to push into a ring. -/
  | tsub (h : Header) (f : SCon) (n : SCon) (tid : Tid) (ring : BitVec 4)
  /-- TDRAIN (R314): Has the storer drain ring slots back into tensor tiles. -/
  | tdrain (h : Header) (f : SCon) (n : SCon) (tid : Tid) (ring : BitVec 4)
  /-- GATH (R315): Gathers indexed elements of a tensor into a register. -/
  | gath (h : Header) (d : VReg) (i : VReg) (tid : Tid) (cnt : BitVec 2)
  /-- TFIND (R316): Tests whether a tile's entry is in its home slice. -/
  | tfind (h : Header) (k : KReg) (n : SCon) (tid : Tid)
  /-- TNEAR (R317): Fills the neighbouring tiles into their home slices. -/
  | tnear (h : Header) (n : SCon) (dims : SCon) (tid : Tid)
  /-- THALO (R318): Installs a read-only tile copy on another die. -/
  | thalo (h : Header) (n : SCon) (die : SCon) (tid : Tid)
  /-- TDROP (R319): Discards every entry of a TID. -/
  | tdrop (h : Header) (tid : Tid)
  /-- TFLUSH (R319): Writes back every dirty byte of a TID. -/
  | tflush (h : Header) (tid : Tid)
  /-- TDEF (R320): Checks and installs a descriptor record. -/
  | tdef (h : Header) (t : SCon) (a : SReg)
  /-- TGET (R321): Writes an installed descriptor record to memory. -/
  | tget (h : Header) (t : SCon) (a : SReg)
  /-- TKILL (R322): Waits for the TID's users, then flushes, drops and removes the record. -/
  | tkill (h : Header) (t : SCon)
  /-- AMO (R323): Atomic read-modify-write that returns the old value. -/
  | amo (h : Header) (d : SReg) (ea : Addr) (sz : Size) (x : SCon) (op : AOp) (ord : Ord) (scope : Scope)
  /-- RED (R323): Atomic reduction without return, posted unless sc. -/
  | red (h : Header) (ea : Addr) (sz : Size) (x : SCon) (op : AOp) (ord : Ord) (scope : Scope)
  /-- CAS (R324): Atomic compare-and-swap. -/
  | cas (h : Header) (d : SReg) (ea : Addr) (sz : Size) (x : SCon) (ord : Ord) (scope : Scope)
  /-- LDA (R325): Acquiring load. -/
  | lda (h : Header) (d : SReg) (ea : Addr) (sz : Size) (scope : Scope)
  /-- STL (R325): Releasing store. -/
  | stl (h : Header) (x : SReg) (ea : Addr) (sz : Size) (scope : Scope)
  /-- FENCE (R328): Orders the LS accesses of the context at a scope. -/
  | fence (h : Header) (scope : Scope)
  /-- XFENCE (R329): Orders the accesses of the named paths at a scope. -/
  | xfence (h : Header) (scope : Scope) (paths : BitVec 7)
  /-- TILSET (R332): Sets, arms or frees a till from a till record. -/
  | tilset (h : Header) (t : SReg) (a : SReg)
  /-- TILGET (R335): Reads a till's state at its home. -/
  | tilget (h : Header) (d : SReg) (t : SReg)
  /-- TILARM (R336): Rearms a till with a zero count. -/
  | tilarm (h : Header) (t : SReg)
  /-- START (R199): Starts the lowest idle helper, holding until one is idle. -/
  | start (h : Header) (d : SReg) (p : SReg) (a : SCon) (b : SCon)
  /-- START_TRY (R199): Starts an idle helper or reports failure in a predicate. -/
  | startTry (h : Header) (d : SReg) (k : KReg) (p : SReg) (a : SCon) (b : SCon)
  /-- AMSG (R206): Sends an active message, holding while the target queue is full. -/
  | amsg (h : Header) (c : SReg) (p : SReg) (sn : SReg)
  /-- AMSG_TRY (R206): Sends an active message or clears a predicate if the queue is full. -/
  | amsgTry (h : Header) (k : KReg) (c : SReg) (p : SReg) (sn : SReg)
  /-- EXIT (R200): Ends the context once its posted stores are acknowledged and starts any waiting message for it. -/
  | exit (h : Header)
  /-- YIELD (R203): Resets the watchdog count and passes over one turn of the round robin. -/
  | yield (h : Header)
  /-- WAIT (R210): Takes latched event bits under a mask, holding until one is set. -/
  | wait (h : Header) (d : SReg) (m : SCon)
  /-- SIG (R209): Sends event bits to a context handle as a release. -/
  | sig (h : Header) (c : SReg) (b : SCon)
  /-- BAR (R215): Arrives at the domain barrier and holds until the episode completes. -/
  | bar (h : Header)
  /-- BAR_X (R215): Barrier that enters an exchange phase on release. -/
  | barX (h : Header)
  /-- ARRIVE (R215): Arrives at the barrier without waiting. -/
  | arrive (h : Header)
  /-- XSEND (R219): Drives a word onto a piste channel for one cycle. -/
  | xsend (h : Header) (a : VSrc) (ch : SCon)
  /-- XSEL (R220): Reads what stands on a piste channel this cycle. -/
  | xsel (h : Header) (d : VReg) (ch : SCon)
  /-- DOM (R213): Writes ctl.dom after checking the domain value. -/
  | dom (h : Header) (x : SReg)
  /-- PARK (R226): Suspends the context into a continuation bound to an event. -/
  | park (h : Header) (ev : SReg) (live : SReg)
  /-- PARK_TRY (R226): Park that clears a predicate instead of trapping or holding. -/
  | parkTry (h : Header) (k : KReg) (ev : SReg) (live : SReg)
  /-- ENQ (R229): Places a continuation record in a stage queue. -/
  | enq (h : Header) (stg : SCon) (a : SReg)
  /-- ENQ_TRY (R229): Enqueue that clears a predicate on failure. -/
  | enqTry (h : Header) (k : KReg) (stg : SCon) (a : SReg)
  /-- JINIT (R231): Creates a join counter with a stored parent record. -/
  | jinit (h : Header) (d : SReg) (n : SCon) (a : SReg)
  /-- JINIT_TRY (R231): Creates a join counter or reports failure. -/
  | jinitTry (h : Header) (d : SReg) (k : KReg) (n : SCon) (a : SReg)
  /-- JDONE (R232): Sends a decrement of a join counter. -/
  | jdone (h : Header) (c : SReg)
  /-- STDECL (R234): Declares, changes or retires a stage. -/
  | stdecl (h : Header) (stg : SCon) (a : SReg)
  /-- DIST (R237): Hands an index range to a stage in chunks. -/
  | dist (h : Header) (stg : SCon) (first : SReg) (last : SReg) (chunk : BitVec 20)
  /-- SCALL (R240): Sends a relaxed call packet to a service kernel instance. -/
  | scall (h : Header) (svc : BitVec 12) (ring : BitVec 4)
  /-- SCALL_SC (R242): Sends a strong call ordered after the previous strong call. -/
  | scallSc (h : Header) (svc : BitVec 12) (ring : BitVec 4)
  /-- FOLD (R247): Requests folding of a routine and holds for the handle and status. -/
  | fold (h : Header) (dh : SReg) (ds : SReg) (e : SReg) (mask : BitVec 8)
  /-- CALLH (R263): Pins a handle and runs its residual code. -/
  | callh (h : Header) (x : SReg)
  /-- RELH (R264): Releases a handle, reclaiming it when no pins remain. -/
  | relh (h : Header) (x : SReg)
  /-- HSTAT (R265): Reads a handle slot's state at its home. -/
  | hstat (h : Header) (d : SReg) (x : SReg)
  /-- MFC (R394): Reads a control register into an s register. -/
  | mfc (h : Header) (d : SReg) (reg : CtlReg)
  /-- MTC (R394): Writes a control register that has no row of its own, after its value checks. -/
  | mtc (h : Header) (x : SCon) (reg : CtlReg)
  /-- MTC_LMCFG (R271): Changes the scratchpad/L1 split once the engines are drained and no delivery is in flight. -/
  | mtcLmcfg (h : Header) (x : SCon)
  /-- MTC_MXCNT (R170): Writes the engine counters once no accepted engine instruction is unfinished. -/
  | mtcMxcnt (h : Header) (x : SCon)
  /-- MTC_STATUS (R388): Writes DZT and clears ORPH or HFLT. -/
  | mtcStatus (h : Header) (x : SCon)
  /-- CSAVE (R407): Saves a stopped or trapped context into its save and spill areas. -/
  | csave (h : Header) (c : SCon)
  /-- CREST (R409): Checks and restores a saved context and replays its spill records. -/
  | crest (h : Header) (c : SCon)
  /-- NISPL (R408): Diverts items for a saved context into its spill area. -/
  | nispl (h : Header) (c : SCon)
  /-- JRNL (R397): Reads, and optionally drops, a journal entry. -/
  | jrnl (h : Header) (da : SReg) (dd : SReg) (e : SCon)
  /-- TLBI (R402): Removes the tenant's translations of one page. -/
  | tlbi (h : Header) (a : SReg)
  /-- TLBI_ALL (R402): Removes all the tenant's translations from the core and cluster TLBs. -/
  | tlbiAll (h : Header)
  /-- TIME (R395): Reads the global time stamp. -/
  | time (h : Header) (d : SReg)
  /-- UNASSIGNED_OP (R72): An instruction word whose OP or FN is not assigned in the opcode map issues and raises ILLEGAL. -/
  | unassignedOp (w : BitVec 128)
  /-- ACTIVE_MESSAGE_ARRIVAL (R207): An active message reaches the target network interface and starts the context or waits in the message queue. -/
  | activeMessageArrival
  /-- SIGNAL_ARRIVAL (R209): A signal reaches its target and ORs bits into the latched events, or is dropped as an orphan. -/
  | signalArrival
  /-- WATCHDOG (R204): The watchdog count reaches 2^LIMIT and the next instruction raises WATCHDOG. -/
  | watchdog
  /-- BARRIER_ARRIVAL (R214): An arrival reaches the barrier agent and joins or waits for an episode. -/
  | barrierArrival
  /-- BARRIER_EPISODE_COMPLETE (R216): All conditions of an episode hold and the agent releases the members, starting an exchange phase for bar.x. -/
  | barrierEpisodeComplete
  /-- ENGINE_INSTR_COMPLETE (R173): The matrix engine finishes an mzero, mload, mstore or mmv put and frees its queue entry. -/
  | engineInstrComplete
  /-- MMA_PAIR_STEP (R180): The engine takes a filled tile pair and accumulates its k steps, freeing the slots afterwards. -/
  | mmaPairStep
  /-- MCVT_TILE_PUBLISH (R186): The engine reserves a free slot, writes a converted tile and publishes it. -/
  | mcvtTilePublish
  /-- GEMV_RESULT_DELIVERY (R194): The bank multipliers compute result columns and publish ring slots or write memory. -/
  | gemvResultDelivery
  /-- SEND_DELIVERY (R310): A send or cpy delivery arrives at the target, reserves a slot, writes it and publishes it, or is dropped. -/
  | sendDelivery
  /-- COPY_COMPLETE (R312): The copy engine performs the element writes of a cpy to memory and completes it for its batch. -/
  | copyComplete
  /-- LOADER_TILE_PUSH (R313): The loader reserves a slot, reads a tile at home and publishes it. -/
  | loaderTilePush
  /-- STORER_TILE_WRITE (R314): The storer takes a filled slot and performs its tile at the home slice as one write. -/
  | storerTileWrite
  /-- POSTED_WRITE_PERFORMED (R295): A posted write is performed at home and its journal entry frees. -/
  | postedWritePerformed
  /-- POSTED_WRITE_REFUSED (R396): The home refuses a posted write or its race check fails, and the entry stays refused. -/
  | postedWriteRefused
  /-- PAGE_MODE_WINDOW (R283): At the end of a 65,536-cycle window a page may become replicated and the counters restart. -/
  | pageModeWindow
  /-- PURSE_WINDOW (R372): At each 4,096-cycle window end, RATE coins are added to every purse. -/
  | purseWindow
  /-- PURSE_ADMIT (R372): A held request at the head of its purse is admitted once the balance is positive. -/
  | purseAdmit
  /-- STAGE_BALANCE (R236): Every 4,096 cycles the stage balancer moves idle cores between stages. -/
  | stageBalance
  /-- RECORD_DISPATCH (R228): A stage queue starts its highest-priority record on an idle helper of an assigned core. -/
  | recordDispatch
  /-- PARK_EVENT_COMPLETE (R225): The event bound by a park completes and the record enters its stage queue. -/
  | parkEventComplete
  /-- JOIN_DECREMENT (R232): A jdone reaches the counter's home, and at zero the parent is enqueued. -/
  | joinDecrement
  /-- DIST_CHUNK_DEAL (R238): The master distributor deals chunks to distributors, which start them on the stage's cores. -/
  | distChunkDeal
  /-- DIST_CHUNK_COMPLETE (R238): A chunk's completion is recorded in the master and deputy bitmaps. -/
  | distChunkComplete
  /-- REPLY_PUBLISH (R241): A service reply fills a slot of the reply ring once it has room. -/
  | replyPublish
  /-- PROTECT (R376): Service 0x010 rewrites the rights of a page. -/
  | protect
  /-- FREEZE (R285): Service 0x011 freezes a page that is not writable. -/
  | freeze
  /-- UNFREEZE (R376): Service 0x012 invalidates constant copies, releases the handles and clears FRZ. -/
  | unfreeze
  /-- TODEV (R378): Service 0x013 starts flipping a host-backed page to the device. -/
  | todev
  /-- TOHOST (R378): Service 0x014 starts flipping a device page to the host. -/
  | tohost
  /-- PAGE_FLIP_COMPLETE (R378): Once the in-flight count drains, the page is written back, copied and remapped, and the reply is published. -/
  | pageFlipComplete
  /-- QUERY (R376): Service 0x015 returns the leaf entry of a page. -/
  | query
  /-- UNMAP (R376): Service 0x016 writes back, invalidates and clears P. -/
  | unmap
  /-- MAP (R376): Service 0x801 maps zeroed device pages in a sector. -/
  | map
  /-- QUOTA (R376): Service 0x802 returns a quota's limit and count. -/
  | quota
  /-- ASSIGN (R366): Service 0x803 empties a cluster and assigns it to a tenant. -/
  | assign
  /-- SETQUOTA (R368): Service 0x804 sets a tenant's limit for one kind. -/
  | setquota
  /-- SETPURSE (R370): Service 0x805 sets RATE and DEPTH of a purse and refills it. -/
  | setpurse
  /-- KEYASSIGN (R373): Service 0x806 assigns a key slot to a tenant or unassigns it. -/
  | keyassign
  /-- ARENA (R376): Service 0x807 sets a tenant's arena size. -/
  | arena
  /-- FOLD_REQUEST_SERVE (R255): The fold unit walks the routine for a queued request and replies with a handle and status. -/
  | foldRequestServe
  /-- HANDLER_ENTRY (R383): The idle handler takes the next trap, MESSAGE or PREEMPT from its queue and enters. -/
  | handlerEntry
  /-- ASYNC_TRAP_TAKE (R381): An asynchronous report is taken at an instruction boundary, setting epc, einfo and jrnl. -/
  | asyncTrapTake
  /-- PREEMPT (R403): A pre-emption stops every other context of the core at an instruction boundary. -/
  | preempt
  /-- TRAP_MESSAGE_COLLECT (R399): A page-fault trap message reaches its row collector, which asks the owning instance or the tag table. -/
  | trapMessageCollect
  /-- TRAP_MESSAGE_MERGE (R398): A router merges two in-flight trap messages for the same page. -/
  | trapMessageMerge
  /-- FAULT_ANSWER (R400): The instance's answer to a fault is applied to every waiting core, replaying or trapping. -/
  | faultAnswer
  /-- PRG_RESPONSE (R400): A PRG Response from the host is matched to its tag entry and applied. -/
  | prgResponse
  /-- TRANSLATION_COMPLETION (R429): An ATS Translation Completion installs an entry or reports not present or refusal. -/
  | translationCompletion
  /-- INVALIDATE_REQUEST (R430): An ATS Invalidate Request removes translations, writes back, turns back accesses and completes. -/
  | invalidateRequest
  /-- IFETCH_LOOKUP (R424): A fetch lookup in the instruction buffer, cluster cache or memory. -/
  | ifetchLookup
  /-- ICACHE_FILL (R425): A requested instruction line arrives in the cluster cache, serving the waiting lookups. -/
  | icacheFill
  /-- IMAGE_LOAD (R87): The image loader places, relocates and freezes an image, or rejects it whole. -/
  | imageLoad
  /-- PATROL_SCRUB (R414): The patrol reads and corrects or poisons every row once in every 2^30 cycles. -/
  | patrolScrub
  /-- BANK_REBUILD_ROW (R415): The rebuild visits one row in every 64 cycles, logging class 3 when done. -/
  | bankRebuildRow
  /-- CXL_LINK_DOWN (R419): The CXL link leaves the active state, and host-homed granules are retained or invalidated. -/
  | cxlLinkDown
  /-- CXL_LINK_RETRAIN (R419): The link retrains within the limit and the retention entries are written back. -/
  | cxlLinkRetrain
  /-- RETENTION_TIMEOUT (R419): After 2x10^9 ns without a link, the entries are discarded and HOSTLINK_DOWN is raised. -/
  | retentionTimeout
  /-- DIE_FENCE (R420): A die is fenced: its links go down, the fabric resynchronises and its objects are settled. -/
  | dieFence
  /-- FILID_PACKET_ARRIVAL (R352): A stamped packet arrives at its destination die and enters the early buffer. -/
  | filidPacketArrival
  /-- FILID_PACKET_DELIVER (R351): A deliverable packet is delivered, updating Dl and the knowledge matrix. -/
  | filidPacketDeliver
  /-- LAUNCH (R434): A 32-byte write to LAUNCH sends an active message or drops the record. -/
  | launch
  /-- KCMD (R433): Writing 1 to KCMD loads the KEY bytes into the KSLOT key slot, or refuses if a page maps it. -/
  | kcmd
  /-- FENCE_REGISTER (R433): A write to the BAR0 FENCE register requests the fence of a die. -/
  | fenceRegister
  /-- SCALE_ROUTE_WRITE (R437): A write to the scale window updates route-table entries. -/
  | scaleRouteWrite
  /-- BAR_REGISTER_WRITE (R433): A write to a BAR0 register with no row of its own (KSLOT, KEY, MODNUM). -/
  | barRegisterWrite
  /-- FUNCTION_LEVEL_RESET (R432): An FLR of a virtual function tears down its contexts and returns its resources. -/
  | functionLevelReset
  /-- HOST_CXL_WRITE (R435): A host write through CXL.mem is performed at home and counted by tills, or errors on a frozen page. -/
  | hostCxlWrite
  /-- SCALE_PACKET_ARRIVAL (R357): A packet arrives over a Genja scale link from another module. -/
  | scalePacketArrival
  /-- GET_VERSION (R379): SPDM GET_VERSION request. -/
  | getVersion
  /-- GET_CAPABILITIES (R379): SPDM GET_CAPABILITIES request. -/
  | getCapabilities
  /-- NEGOTIATE_ALGORITHMS (R379): SPDM NEGOTIATE_ALGORITHMS request. -/
  | negotiateAlgorithms
  /-- GET_DIGESTS (R379): SPDM GET_DIGESTS request. -/
  | getDigests
  /-- GET_CERTIFICATE (R379): SPDM GET_CERTIFICATE request. -/
  | getCertificate
  /-- CHALLENGE (R379): SPDM CHALLENGE request signed with the identity key. -/
  | challenge
  /-- GET_MEASUREMENTS (R379): SPDM GET_MEASUREMENTS request. -/
  | getMeasurements
  /-- SERVICE_LEVEL_CHANGE (R438): The service level rises during bring-up between two cycles of each die. -/
  | serviceLevelChange
  /-- SUPPLY_SAG (R439): A supply sag or overheating stretches the clock period by sixteenths. -/
  | supplySag
  /-- CLOCK_RECOVER (R439): The clock climbs back one sixteenth per 65,536 ns once the supply is within 2 %. -/
  | clockRecover
  /-- RESET (R444): Reset sets every register, accumulator, assignment and limit to its reset value. -/
  | reset
  /-- TILE_OPERATION_COMPLETE (R319): A tnear, thalo, tdrop or tflush finishes its fills, copy installation, discards or write-backs across the slices and completes for its batch. -/
  | tileOperationComplete
  /-- KEY_LOAD_DONE (R433): A key load started through KCMD finishes, KCMD reads 2, and granules encrypted from then on use the new keys. -/
  | keyLoadDone
  /-- PRI_ENABLE (R400): The host enables PRI again after a Response Failure, so host page faults go to the tag table once more. -/
  | priEnable
  /-- SOFT_ERROR (R413): Storage in local memory, a cache slice or a stack loses bits, putting symbols in error that a later read or the patrol corrects or poisons. -/
  | softError
  deriving DecidableEq, Repr

/-! The codes of the coded fields. -/

/-- The SZ code of a scalar size (R67). -/
def Size.bits : Size → BitVec 2
  | .b => 0 | .h => 1 | .w => 2 | .d => 3

/-- The format tag code (R89). -/
def Tag.bits : Tag → BitVec 4
  | .b128 => 0 | .i8 => 1 | .q4 => 2 | .t6 => 3 | .t8 => 4 | .bf16 => 5 | .fp16 => 6 | .fp32 => 7
  | .i16 => 8 | .i32 => 9 | .i64 => 10

/-- The SCOPE code (R67). -/
def Scope.bits : Scope → BitVec 3
  | .core => 0 | .clu => 1 | .die => 2 | .mod => 3 | .sys => 4

/-- The ORD code (R67). -/
def Ord.bits : Ord → BitVec 2
  | .rlx => 0 | .acq => 1 | .rel => 2 | .sc => 3

/-- The AOP code (R67). -/
def AOp.bits : AOp → BitVec 4
  | .add => 0 | .and => 1 | .or => 2 | .xor => 3 | .min => 4 | .max => 5 | .minu => 6 | .maxu => 7
  | .swap => 8 | .fadd => 9 | .fmax => 10 | .fmin => 11

/-- The kind code of `fcvt` (R77). -/
def FKind.bits : FKind → BitVec 3
  | .i32 => 0 | .i64 => 1 | .ui32 => 2 | .ui64 => 3 | .fp32 => 4 | .fp64 => 5 | .bf16 => 6 | .fp16 => 7

/-- The rounding code of `fcvt` (R77). -/
def Rnd.bits : Rnd → BitVec 2
  | .rne => 0 | .rz => 1 | .rdn => 2 | .rup => 3

/-- The number of a control register (R387). -/
def CtlReg.bits : CtlReg → BitVec 12
  | .status => 0x000 | .cause => 0x001 | .epc => 0x002 | .einfo => 0x003 | .evec => 0x004
  | .ctxid => 0x005 | .tenant => 0x006 | .dom => 0x007 | .flags => 0x008 | .amax => 0x009
  | .mxcnt => 0x00A | .scale => 0x00B | .wdog => 0x00C | .lmcfg => 0x00D | .foldbud => 0x00E
  | .foldst => 0x00F | .foldpc => 0x010 | .jrnl => 0x011 | .linkstk => 0x012 | .time => 0x013
  | .cycle => 0x014 | .evmask => 0x015 | .svc => 0x016 | .mmchk => 0x017

end Sys2Proof
end

