-- ==== Sys2Proof/WellFormed.lean ====
section
/-! DEFINITION. Which instructions the opcode map allows: the checks of R58 to R81 that the types of Syntax do not
already make. -/

namespace Sys2Proof

/-- A modifier field of a v source is legal (R69). -/
def VSrc.modOk (a : VSrc) : Bool :=
  a.mod == 0 || (a.mod.extractLsb' 10 2 != 0 && decide ((a.mod.extractLsb' 7 3).toNat ≤ 4))

/-- The modifier of a `mov` source is legal (R69). -/
def MovOps.modOk : MovOps → Bool
  | .v _ a => a.modOk
  | _ => true

/-- SCL is 0 when IDX is s0 (R67). -/
def Addr.sclOk (a : Addr) : Bool := a.scl == 0 || a.idx.r != 0

/-- Two predicate destinations differ, or are k0 (R61). -/
def kDestsOk (a b : KReg) : Bool := a.r != b.r || a.r == 0

/-- Two s destinations differ, or are s0 (R61). -/
def sDestsOk (a b : SReg) : Bool := a.r != b.r || a.r == 0

/-- No guard field is set (R140). -/
def Header.unguarded (h : Header) : Bool := h.g0 == 0 && h.g1 == 0 && !h.g0n && !h.g1n

/-- A bit field length from 1 to 64 (R115). -/
def lenOk (len : BitVec 7) : Bool := decide (1 ≤ len.toNat) && decide (len.toNat ≤ 64)

/-- A floating-point kind of `fcvt` (R77). -/
def FKind.isFloat : FKind → Bool
  | .i32 | .i64 | .ui32 | .ui64 => false
  | _ => true

/-- The combinations of kinds and rounding that R77 allows. -/
def fcvtOk (src dst : FKind) (rnd : Rnd) : Bool :=
  src != dst && (src.isFloat || dst.isFloat) && (!dst.isFloat || rnd == .rne)

/-- The two sizes of an atomic (R80). -/
def Size.isWord : Size → Bool
  | .w | .d => true
  | _ => false

/-- The floating-point atomic operations, AOP 9 to 11 (R80). -/
def AOp.isFloat : AOp → Bool
  | .fadd | .fmax | .fmin => true
  | _ => false

/-- At least two of the seven path bits are set (R80). -/
def pathsOk (p : BitVec 7) : Bool := decide (2 ≤ ((List.range 7).filter p.getLsbD).length)

/-- A control register written by the general `mtc` row: neither read-only nor one with a row of its own (R387). -/
def CtlReg.mtcRow : CtlReg → Bool
  | .ctxid | .tenant | .time | .cycle | .svc | .lmcfg | .mxcnt | .status => false
  | _ => true

/-- How many FN values, from 0 up, the opcode map assigns to an OP; 0 for an unassigned OP (R72 to R81). -/
def fnCount (op : Nat) : Nat :=
  match op with
  | 0x10 | 0x11 => 14
  | 0x12 | 0x21 => 3
  | 0x13 | 0x1D => 4
  | 0x14 | 0x20 | 0x32 => 7
  | 0x15 | 0x16 => 6
  | 0x22 => 5
  | 0x30 => 12
  | 0x31 => 3
  | 0x34 | 0x3F | 0x55 | 0x60 | 0x64 | 0xA0 | 0xA1 | 0xA6 | 0xB0 | 0xB1 | 0xB2 | 0xD6 => 2
  | 0x40 => 8
  | _ =>
    if op ≤ 0x08 || (0x17 ≤ op && op ≤ 0x1C) || (0x23 ≤ op && op ≤ 0x24) || (0x33 ≤ op && op ≤ 0x3E)
      || (0x50 ≤ op && op ≤ 0x59) || (0x61 ≤ op && op ≤ 0x68) || (0x70 ≤ op && op ≤ 0x74)
      || (0x78 ≤ op && op ≤ 0x7E) || (0x80 ≤ op && op ≤ 0x84) || (0x88 ≤ op && op ≤ 0x8A)
      || (0x90 ≤ op && op ≤ 0x99) || (0xA2 ≤ op && op ≤ 0xA5) || op == 0xA7
      || (0xA9 ≤ op && op ≤ 0xAB) || (0xB3 ≤ op && op ≤ 0xB6) || (0xC0 ≤ op && op ≤ 0xC3)
      || (0xD0 ≤ op && op ≤ 0xD5) || op == 0xD7 then 1 else 0

/-- A word that passes check 1 of R70 and whose OP and FN the map does not assign. -/
def unassignedWord (w : BitVec 128) : Bool :=
  w.extractLsb' 29 3 == 0 && w.extractLsb' 22 2 == 0
    && decide (fnCount (w.extractLsb' 0 8).toNat ≤ (w.extractLsb' 8 4).toNat)

/-- Whether the fields of an instruction are ones the opcode map allows (R58 to R81). -/
def Instr.wellFormed (i : Instr) : Bool :=
  match i with
  | .nop _ => true
  | .br _ _ => true
  | .brl _ _ => true
  | .ret _ => true
  | .jt _ _ _ _ bound => decide (bound ≠ 0)
  | .land h _ _ => h.unguarded
  | .loop _ _ _ => true
  | .trap _ _ => true
  | .eret _ => true
  | .add _ _ _ _ => true
  | .sub _ _ _ _ => true
  | .and _ _ _ _ => true
  | .or _ _ _ _ => true
  | .xor _ _ _ _ => true
  | .andn _ _ _ _ => true
  | .shl _ _ _ _ => true
  | .shr _ _ _ _ => true
  | .sra _ _ _ _ => true
  | .rol _ _ _ _ => true
  | .min _ _ _ _ => true
  | .max _ _ _ _ => true
  | .minu _ _ _ _ => true
  | .maxu _ _ _ _ => true
  | .addImm _ _ _ _ => true
  | .subImm _ _ _ _ => true
  | .andImm _ _ _ _ => true
  | .orImm _ _ _ _ => true
  | .xorImm _ _ _ _ => true
  | .andnImm _ _ _ _ => true
  | .shlImm _ _ _ _ => true
  | .shrImm _ _ _ _ => true
  | .sraImm _ _ _ _ => true
  | .rolImm _ _ _ _ => true
  | .minImm _ _ _ _ => true
  | .maxImm _ _ _ _ => true
  | .minuImm _ _ _ _ => true
  | .maxuImm _ _ _ _ => true
  | .mul _ _ _ _ => true
  | .mulh _ _ _ _ => true
  | .mulhu _ _ _ _ => true
  | .div _ _ _ _ => true
  | .divu _ _ _ _ => true
  | .rem _ _ _ _ => true
  | .remu _ _ _ _ => true
  | .clz _ _ _ => true
  | .ctz _ _ _ => true
  | .popc _ _ _ => true
  | .sext _ _ _ _ => true
  | .zext _ _ _ _ => true
  | .bext _ _ _ _ len => lenOk len
  | .bins _ _ _ _ _ len => lenOk len
  | .cmpEq _ kt kf _ _ => kDestsOk kt kf
  | .cmpNe _ kt kf _ _ => kDestsOk kt kf
  | .cmpLt _ kt kf _ _ => kDestsOk kt kf
  | .cmpGe _ kt kf _ _ => kDestsOk kt kf
  | .cmpLtu _ kt kf _ _ => kDestsOk kt kf
  | .cmpGeu _ kt kf _ _ => kDestsOk kt kf
  | .cmpEqImm _ kt kf _ _ => kDestsOk kt kf
  | .cmpNeImm _ kt kf _ _ => kDestsOk kt kf
  | .cmpLtImm _ kt kf _ _ => kDestsOk kt kf
  | .cmpGeImm _ kt kf _ _ => kDestsOk kt kf
  | .cmpLtuImm _ kt kf _ _ => kDestsOk kt kf
  | .cmpGeuImm _ kt kf _ _ => kDestsOk kt kf
  | .sel _ _ _ _ _ => true
  | .plogAnd _ _ _ _ => true
  | .plogOr _ _ _ _ => true
  | .plogXor _ _ _ _ => true
  | .plogAndn _ _ _ _ => true
  | .movi _ _ _ => true
  | .mov _ ops => ops.modOk
  | .lea _ _ ea => ea.sclOk
  | .gaddr _ _ _ _ => true
  | .dtset _ _ _ => true
  | .fadd _ _ _ _ _ => true
  | .fsub _ _ _ _ _ => true
  | .fmul _ _ _ _ _ => true
  | .fdiv _ _ _ _ _ => true
  | .fmin _ _ _ _ _ => true
  | .fmax _ _ _ _ _ => true
  | .fsqrt _ _ _ _ => true
  | .fma _ _ _ _ _ _ => true
  | .fms _ _ _ _ _ _ => true
  | .fnma _ _ _ _ _ _ => true
  | .fcmpEq _ kt kf _ _ _ => kDestsOk kt kf
  | .fcmpNe _ kt kf _ _ _ => kDestsOk kt kf
  | .fcmpLt _ kt kf _ _ _ => kDestsOk kt kf
  | .fcmpGe _ kt kf _ _ _ => kDestsOk kt kf
  | .fcmpUn _ kt kf _ _ _ => kDestsOk kt kf
  | .fcvt _ _ _ src dst rnd => fcvtOk src dst rnd
  | .fclass _ _ _ _ => true
  | .vadd _ _ a b => a.modOk && b.modOk
  | .vsub _ _ a b => a.modOk && b.modOk
  | .vmul _ _ a b => a.modOk && b.modOk
  | .vmin _ _ a b => a.modOk && b.modOk
  | .vmax _ _ a b => a.modOk && b.modOk
  | .vand _ _ a b => a.modOk && b.modOk
  | .vor _ _ a b => a.modOk && b.modOk
  | .vxor _ _ a b => a.modOk && b.modOk
  | .vandn _ _ a b => a.modOk && b.modOk
  | .vshl _ _ a b => a.modOk && b.modOk
  | .vshr _ _ a b => a.modOk && b.modOk
  | .vsra _ _ a b => a.modOk && b.modOk
  | .vfma _ _ a b _ => a.modOk && b.modOk
  | .vfms _ _ a b _ => a.modOk && b.modOk
  | .vfnma _ _ a b _ => a.modOk && b.modOk
  | .vcmpEq _ _ a b => a.modOk && b.modOk
  | .vcmpNe _ _ a b => a.modOk && b.modOk
  | .vcmpLt _ _ a b => a.modOk && b.modOk
  | .vcmpGe _ _ a b => a.modOk && b.modOk
  | .vcmpLtu _ _ a b => a.modOk && b.modOk
  | .vcmpGeu _ _ a b => a.modOk && b.modOk
  | .vcmpUn _ _ a b => a.modOk && b.modOk
  | .vsel _ _ k a _ => k.modOk && a.modOk
  | .vabs _ _ a => a.modOk
  | .vneg _ _ a => a.modOk
  | .vdot _ _ a b seg => a.modOk && b.modOk && decide (seg.toNat ≤ 4)
  | .vsum _ _ a seg => a.modOk && decide (seg.toNat ≤ 4)
  | .vcvt _ _ a _ sb ctl => a.modOk && (!ctl || decide (sb = 0))
  | .vtag _ _ a _ => a.modOk
  | .vgtag _ _ a => a.modOk
  | .vsplat _ _ _ _ => true
  | .vext _ _ a _ => a.modOk
  | .vins _ _ a _ _ => a.modOk
  | .vperm _ _ a b => a.modOk && b.modOk
  | .vpack _ _ a b _ => a.modOk && b.modOk
  | .vunpkLo _ _ a _ => a.modOk
  | .vunpkHi _ _ a _ => a.modOk
  | .vsfnExp2 _ _ a => a.modOk
  | .vsfnLog2 _ _ a => a.modOk
  | .vsfnRcp _ _ a => a.modOk
  | .vsfnRsqrt _ _ a => a.modOk
  | .vsfnTanh _ _ a => a.modOk
  | .vsfnSigm _ _ a => a.modOk
  | .vsfnSilu _ _ a => a.modOk
  | .vsfnErf _ _ a => a.modOk
  | .mzero _ _ => true
  | .mma _ _ _ _ _ _ shape => decide (shape ≠ 0)
  | .mload _ _ _ => true
  | .mstore _ _ _ => true
  | .mcvt _ _ _ _ => true
  | .mmvGet _ _ _ _ => true
  | .mmvPut _ _ a _ => a.modOk
  | .mwait _ _ => true
  | .gemv _ _ _ res _ ring _ mem => (if mem then decide (ring = 0) else decide (res = { r := 0, early := false }))
  | .mspill _ _ => true
  | .mrest _ _ => true
  | .ld _ _ ea _ => ea.sclOk
  | .ldSx _ _ ea _ => ea.sclOk
  | .st _ _ ea _ => ea.sclOk
  | .ldv _ _ ea _ => ea.sclOk
  | .stv _ _ ea _ => ea.sclOk
  | .ldc _ _ ea _ => ea.sclOk
  | .ldcSx _ _ ea _ => ea.sclOk
  | .ldt _ _ _ _ _ _ => true
  | .stt _ _ _ _ _ => true
  | .pref _ ea => ea.sclOk
  | .prefi _ ea sz => ea.sclOk && decide (1 ≤ sz.toNat) && decide (sz.toNat ≤ 16)
  | .rdef _ _ _ _ _ => true
  | .racq _ _ _ => true
  | .racqFree _ _ _ => true
  | .rrel _ _ _ => true
  | .rres _ _ => true
  | .rpub _ _ _ => true
  | .send _ _ _ _ _ => true
  | .cpy _ _ => true
  | .seal _ _ => true
  | .bwait _ _ => true
  | .tsub _ _ _ _ _ => true
  | .tdrain _ _ _ _ _ => true
  | .gath _ _ i _ cnt => decide (i.r.toNat + cnt.toNat ≤ 31)
  | .tfind _ _ _ _ => true
  | .tnear _ _ _ _ => true
  | .thalo _ _ _ _ => true
  | .tdrop _ _ => true
  | .tflush _ _ => true
  | .tdef _ _ _ => true
  | .tget _ _ _ => true
  | .tkill _ _ => true
  | .amo _ _ ea sz _ op _ _ => ea.sclOk && sz.isWord && (!op.isFloat || decide (sz = .w))
  | .red _ ea sz _ op ord _ => ea.sclOk && sz.isWord && (!op.isFloat || decide (sz = .w)) && decide (ord ≠ .acq)
  | .cas _ _ ea sz _ _ _ => ea.sclOk && sz.isWord
  | .lda _ _ ea _ _ => ea.sclOk
  | .stl _ _ ea _ _ => ea.sclOk
  | .fence _ _ => true
  | .xfence _ _ paths => pathsOk paths
  | .tilset _ _ _ => true
  | .tilget _ _ _ => true
  | .tilarm _ _ => true
  | .start _ _ _ _ _ => true
  | .startTry _ _ _ _ _ _ => true
  | .amsg _ _ _ sn => decide (sn.r.toNat ≤ 62)
  | .amsgTry _ _ _ _ sn => decide (sn.r.toNat ≤ 62)
  | .exit _ => true
  | .yield _ => true
  | .wait _ _ _ => true
  | .sig _ _ _ => true
  | .bar _ => true
  | .barX _ => true
  | .arrive _ => true
  | .xsend _ a _ => a.modOk
  | .xsel _ _ _ => true
  | .dom _ _ => true
  | .park _ _ _ => true
  | .parkTry _ _ _ _ => true
  | .enq _ _ _ => true
  | .enqTry _ _ _ _ => true
  | .jinit _ _ _ _ => true
  | .jinitTry _ _ _ _ _ => true
  | .jdone _ _ => true
  | .stdecl _ _ _ => true
  | .dist _ _ _ _ chunk => decide (chunk ≠ 0)
  | .scall _ _ _ => true
  | .scallSc _ _ _ => true
  | .fold _ dh ds _ _ => sDestsOk dh ds
  | .callh _ _ => true
  | .relh _ _ => true
  | .hstat _ _ _ => true
  | .mfc _ _ _ => true
  | .mtc _ _ reg => reg.mtcRow
  | .mtcLmcfg _ _ => true
  | .mtcMxcnt _ _ => true
  | .mtcStatus _ _ => true
  | .csave _ _ => true
  | .crest _ _ => true
  | .nispl _ _ => true
  | .jrnl _ da dd _ => sDestsOk da dd
  | .tlbi _ _ => true
  | .tlbiAll _ => true
  | .time _ _ => true
  | .unassignedOp w => unassignedWord w
  | .activeMessageArrival => true
  | .signalArrival => true
  | .watchdog => true
  | .barrierArrival => true
  | .barrierEpisodeComplete => true
  | .engineInstrComplete => true
  | .mmaPairStep => true
  | .mcvtTilePublish => true
  | .gemvResultDelivery => true
  | .sendDelivery => true
  | .copyComplete => true
  | .loaderTilePush => true
  | .storerTileWrite => true
  | .postedWritePerformed => true
  | .postedWriteRefused => true
  | .pageModeWindow => true
  | .purseWindow => true
  | .purseAdmit => true
  | .stageBalance => true
  | .recordDispatch => true
  | .parkEventComplete => true
  | .joinDecrement => true
  | .distChunkDeal => true
  | .distChunkComplete => true
  | .replyPublish => true
  | .protect => true
  | .freeze => true
  | .unfreeze => true
  | .todev => true
  | .tohost => true
  | .pageFlipComplete => true
  | .query => true
  | .unmap => true
  | .map => true
  | .quota => true
  | .assign => true
  | .setquota => true
  | .setpurse => true
  | .keyassign => true
  | .arena => true
  | .foldRequestServe => true
  | .handlerEntry => true
  | .asyncTrapTake => true
  | .preempt => true
  | .trapMessageCollect => true
  | .trapMessageMerge => true
  | .faultAnswer => true
  | .prgResponse => true
  | .translationCompletion => true
  | .invalidateRequest => true
  | .ifetchLookup => true
  | .icacheFill => true
  | .imageLoad => true
  | .patrolScrub => true
  | .bankRebuildRow => true
  | .cxlLinkDown => true
  | .cxlLinkRetrain => true
  | .retentionTimeout => true
  | .dieFence => true
  | .filidPacketArrival => true
  | .filidPacketDeliver => true
  | .launch => true
  | .kcmd => true
  | .fenceRegister => true
  | .scaleRouteWrite => true
  | .barRegisterWrite => true
  | .functionLevelReset => true
  | .hostCxlWrite => true
  | .scalePacketArrival => true
  | .getVersion => true
  | .getCapabilities => true
  | .negotiateAlgorithms => true
  | .getDigests => true
  | .getCertificate => true
  | .challenge => true
  | .getMeasurements => true
  | .serviceLevelChange => true
  | .supplySag => true
  | .clockRecover => true
  | .reset => true
  | .tileOperationComplete => true
  | .keyLoadDone => true
  | .priEnable => true
  | .softError => true

end Sys2Proof
end

