-- ==== Sys2Proof/Decode.lean ====
section
/-! DEFINITION. Decoding of instruction words (R53 to R81), total, with the checks of R70 in their order, and the
encoder written from the same tables. -/

namespace Sys2Proof

/-! Slots (R58). -/

/-- Bit 8 of a slot, the binding mark. -/
def slotMark (x : BitVec 9) : Bool := x.getLsbD 8

/-- Bits 7:0 of a slot, the operand code. -/
def slotCode (x : BitVec 9) : RegCode := x.extractLsb' 0 8

/-- A slot from its mark and code. -/
def mkSlot (early : Bool) (code : RegCode) : BitVec 9 := BitVec.ofBool early ++ code

def SReg.slot (a : SReg) : BitVec 9 := mkSlot a.early ((0 : BitVec 2) ++ a.r)
def SReg.ofSlot (x : BitVec 9) : SReg := { r := x.extractLsb' 0 6, early := slotMark x }
def VReg.slot (a : VReg) : BitVec 9 := mkSlot a.early ((2 : BitVec 3) ++ a.r)
def VReg.ofSlot (x : BitVec 9) : VReg := { r := x.extractLsb' 0 5, early := slotMark x }
def VSrc.slot (a : VSrc) : BitVec 9 := mkSlot a.early ((2 : BitVec 3) ++ a.r)
def VSrc.ofSlot (x : BitVec 9) (m : BitVec 12) : VSrc := { r := x.extractLsb' 0 5, early := slotMark x, mod := m }
def KReg.slot (a : KReg) : BitVec 9 := mkSlot a.early ((0x0C : BitVec 5) ++ a.r)
def KReg.ofSlot (x : BitVec 9) : KReg := { r := x.extractLsb' 0 3, early := slotMark x }
def MReg.slot (a : MReg) : BitVec 9 := mkSlot a.early ((0x1A : BitVec 6) ++ a.r)
def MReg.ofSlot (x : BitVec 9) : MReg := { r := x.extractLsb' 0 2, early := slotMark x }

def SCon.slot : SCon → BitVec 9
  | .reg r e => mkSlot e ((0 : BitVec 2) ++ r)
  | .con c => mkSlot false ((1 : BitVec 1) ++ c)

def SCon.ofSlot (x : BitVec 9) : SCon :=
  if x.getLsbD 7 then .con (x.extractLsb' 0 7) else .reg (x.extractLsb' 0 6) (slotMark x)

/-- The kinds of operand a slot may take (R58, R59). -/
inductive SlotKind where
  | none   -- the instruction does not use the slot
  | s | sc | v | k | m
  | sPair  -- an s register from s0 to s62 (R206)
  | svk    -- the destination of `mov` (R120)
  | bad    -- no operand fits
  deriving DecidableEq, Repr

/-- The file an operand code names (R58). -/
def codeKind (c : RegCode) : SlotKind :=
  if c.toNat < 0x40 then .s else if c.toNat < 0x60 then .v else if c.toNat < 0x68 then .k
  else if c.toNat < 0x6C then .m else if c.toNat < 0x80 then .bad else .sc

/-- A code outside the register set of the handler context (R382). -/
def handlerBad (c : RegCode) : Bool :=
  (decide (0x20 ≤ c.toNat) && decide (c.toNat ≤ 0x3B)) || (decide (0x48 ≤ c.toNat) && decide (c.toNat ≤ 0x5F))

/-- Whether a slot satisfies R58 and R59 for a kind; `hd` says that the handler context decodes (R382). -/
def slotOk (hd : Bool) (kind : SlotKind) (x : BitVec 9) : Bool :=
  let c := slotCode x
  match kind with
  | .none => x == 0
  | .bad => false
  | .s => codeKind c == .s && !(hd && handlerBad c)
  | .sPair => codeKind c == .s && !(hd && handlerBad c) && decide (c.toNat ≠ 0x3F)
  | .sc => (codeKind c == .s && !(hd && handlerBad c)) || (codeKind c == .sc && !slotMark x)
  | .v => codeKind c == .v && !(hd && handlerBad c)
  | .k => codeKind c == .k
  | .m => codeKind c == .m
  | .svk => (codeKind c == .s || codeKind c == .v || codeKind c == .k) && !(hd && handlerBad c)

/-- The bit a failing slot reports, or none. -/
def slotFault (hd : Bool) (kind : SlotKind) (bit : Nat) (x : BitVec 9) : Option Nat :=
  if slotOk hd kind x then none else some bit

/-- The kind of S1 that a `mov` destination asks for (R120). -/
def movSrcKind (d0 : BitVec 9) : SlotKind :=
  match codeKind (slotCode d0) with
  | .s => .sc
  | .v => .v
  | .k => .k
  | _ => .bad

def MovOps.d0 : MovOps → BitVec 9
  | .s d _ => d.slot
  | .v d _ => d.slot
  | .k d _ => d.slot

def MovOps.s1 : MovOps → BitVec 9
  | .s _ a => a.slot
  | .v _ a => a.slot
  | .k _ a => a.slot

def MovOps.m1 : MovOps → BitVec 12
  | .v _ a => a.mod
  | _ => 0

def MovOps.ofSlots (d0 s1 : BitVec 9) (m1 : BitVec 12) : MovOps :=
  match codeKind (slotCode d0) with
  | .v => .v (VReg.ofSlot d0) (VSrc.ofSlot s1 m1)
  | .k => .k (KReg.ofSlot d0) (KReg.ofSlot s1)
  | _ => .s (SReg.ofSlot d0) (SCon.ofSlot s1)

/-! Coded fields. -/

def Size.ofBits (x : BitVec 2) : Size :=
  match x.toNat with
  | 0 => .b | 1 => .h | 2 => .w | _ => .d

/-- The tag of a code from 0 to 10 (R89); the codes 11 to 15 fail check 7 before this is read. -/
def Tag.ofBits (x : BitVec 4) : Tag :=
  match x.toNat with
  | 1 => .i8 | 2 => .q4 | 3 => .t6 | 4 => .t8 | 5 => .bf16 | 6 => .fp16 | 7 => .fp32
  | 8 => .i16 | 9 => .i32 | 10 => .i64 | _ => .b128

def Scope.ofBits (x : BitVec 3) : Scope :=
  match x.toNat with
  | 0 => .core | 1 => .clu | 2 => .die | 3 => .mod | _ => .sys

def Ord.ofBits (x : BitVec 2) : Ord :=
  match x.toNat with
  | 0 => .rlx | 1 => .acq | 2 => .rel | _ => .sc

def AOp.ofBits (x : BitVec 4) : AOp :=
  match x.toNat with
  | 0 => .add | 1 => .and | 2 => .or | 3 => .xor | 4 => .min | 5 => .max | 6 => .minu | 7 => .maxu
  | 8 => .swap | 9 => .fadd | 10 => .fmax | _ => .fmin

def FKind.ofBits (x : BitVec 3) : FKind :=
  match x.toNat with
  | 0 => .i32 | 1 => .i64 | 2 => .ui32 | 3 => .ui64 | 4 => .fp32 | 5 => .fp64 | 6 => .bf16 | _ => .fp16

def Rnd.ofBits (x : BitVec 2) : Rnd :=
  match x.toNat with
  | 0 => .rne | 1 => .rz | 2 => .rdn | _ => .rup

/-- The control register of a number below 0x018 (R387); reserved numbers fail check 7 before this is read. -/
def CtlReg.ofBits (x : BitVec 12) : CtlReg :=
  match x.toNat with
  | 0 => .status | 1 => .cause | 2 => .epc | 3 => .einfo | 4 => .evec | 5 => .ctxid | 6 => .tenant
  | 7 => .dom | 8 => .flags | 9 => .amax | 10 => .mxcnt | 11 => .scale | 12 => .wdog | 13 => .lmcfg
  | 14 => .foldbud | 15 => .foldst | 16 => .foldpc | 17 => .jrnl | 18 => .linkstk | 19 => .time
  | 20 => .cycle | 21 => .evmask | 22 => .svc | _ => .mmchk

/-! The header (R55). -/

/-- Bits 31:0 of a word from its header, OP and FN. -/
def Header.pack (h : Header) (op : BitVec 8) (fn : BitVec 4) : BitVec 32 :=
  (0 : BitVec 3) ++ BitVec.ofBool h.yld ++ h.dly ++ (0 : BitVec 2) ++ h.hint ++ BitVec.ofBool h.g1n ++ h.g1
    ++ BitVec.ofBool h.g0n ++ h.g0 ++ fn ++ op

/-- The header of a word. -/
def Header.unpack (w : BitVec 32) : Header :=
  { g0 := w.extractLsb' 12 3, g0n := w.getLsbD 15, g1 := w.extractLsb' 16 3, g1n := w.getLsbD 19,
    hint := w.extractLsb' 20 2, dly := w.extractLsb' 24 4, yld := w.getLsbD 28 }

/-- Check 1 of R70: the lowest nonzero bit among bits 22, 23, 29, 30 and 31. -/
def headerFault (w : BitVec 32) : Option Nat := [22, 23, 29, 30, 31].find? w.getLsbD

/-! The five formats as records (R62 to R66). -/

structure RawR where
  hdr : BitVec 32
  d0 : BitVec 9 := 0
  d1 : BitVec 9 := 0
  s1 : BitVec 9 := 0
  s2 : BitVec 9 := 0
  s3 : BitVec 9 := 0
  m1 : BitVec 12 := 0
  m2 : BitVec 12 := 0
  aux : BitVec 27 := 0
  deriving DecidableEq, Repr

def RawR.pack (r : RawR) : BitVec 128 :=
  r.aux ++ r.m2 ++ r.m1 ++ r.s3 ++ r.s2 ++ r.s1 ++ r.d1 ++ r.d0 ++ r.hdr

def RawR.unpack (w : BitVec 128) : RawR :=
  { hdr := w.extractLsb' 0 32, d0 := w.extractLsb' 32 9, d1 := w.extractLsb' 41 9, s1 := w.extractLsb' 50 9,
    s2 := w.extractLsb' 59 9, s3 := w.extractLsb' 68 9, m1 := w.extractLsb' 77 12, m2 := w.extractLsb' 89 12,
    aux := w.extractLsb' 101 27 }

structure RawI where
  hdr : BitVec 32
  d0 : BitVec 9 := 0
  s1 : BitVec 9 := 0
  s2 : BitVec 9 := 0
  imm : BitVec 64 := 0
  aux : BitVec 5 := 0
  deriving DecidableEq, Repr

def RawI.pack (r : RawI) : BitVec 128 := r.aux ++ r.imm ++ r.s2 ++ r.s1 ++ r.d0 ++ r.hdr

def RawI.unpack (w : BitVec 128) : RawI :=
  { hdr := w.extractLsb' 0 32, d0 := w.extractLsb' 32 9, s1 := w.extractLsb' 41 9, s2 := w.extractLsb' 50 9,
    imm := w.extractLsb' 59 64, aux := w.extractLsb' 123 5 }

structure RawB where
  hdr : BitVec 32
  s1 : BitVec 9 := 0
  s2 : BitVec 9 := 0
  off : BitVec 40 := 0
  pad : BitVec 16 := 0
  aux : BitVec 22 := 0
  deriving DecidableEq, Repr

def RawB.pack (r : RawB) : BitVec 128 := r.aux ++ r.pad ++ r.off ++ r.s2 ++ r.s1 ++ r.hdr

def RawB.unpack (w : BitVec 128) : RawB :=
  { hdr := w.extractLsb' 0 32, s1 := w.extractLsb' 32 9, s2 := w.extractLsb' 41 9, off := w.extractLsb' 50 40,
    pad := w.extractLsb' 90 16, aux := w.extractLsb' 106 22 }

structure RawM where
  hdr : BitVec 32
  d0 : BitVec 9 := 0
  base : BitVec 9 := 0
  idx : BitVec 9 := 0
  scl : BitVec 3 := 0
  sz : BitVec 5 := 0
  disp : BitVec 32 := 0
  s3 : BitVec 9 := 0
  aop : BitVec 4 := 0
  scope : BitVec 3 := 0
  ord : BitVec 3 := 0
  aux : BitVec 10 := 0
  deriving DecidableEq, Repr

def RawM.pack (r : RawM) : BitVec 128 :=
  r.aux ++ r.ord ++ r.scope ++ r.aop ++ r.s3 ++ r.disp ++ r.sz ++ r.scl ++ r.idx ++ r.base ++ r.d0 ++ r.hdr

def RawM.unpack (w : BitVec 128) : RawM :=
  { hdr := w.extractLsb' 0 32, d0 := w.extractLsb' 32 9, base := w.extractLsb' 41 9, idx := w.extractLsb' 50 9,
    scl := w.extractLsb' 59 3, sz := w.extractLsb' 62 5, disp := w.extractLsb' 67 32, s3 := w.extractLsb' 99 9,
    aop := w.extractLsb' 108 4, scope := w.extractLsb' 112 3, ord := w.extractLsb' 115 3,
    aux := w.extractLsb' 118 10 }

/-- The address fields of a format M word. -/
def RawM.addr (r : RawM) : Addr :=
  { base := SReg.ofSlot r.base, idx := SReg.ofSlot r.idx, scl := r.scl, disp := r.disp }

structure RawE where
  hdr : BitVec 32
  d0 : BitVec 9 := 0
  s1 : BitVec 9 := 0
  s2 : BitVec 9 := 0
  s3 : BitVec 9 := 0
  tid : BitVec 16 := 0
  ring : BitVec 4 := 0
  gate : BitVec 4 := 0
  shape : BitVec 12 := 0
  aux : BitVec 24 := 0
  deriving DecidableEq, Repr

def RawE.pack (r : RawE) : BitVec 128 :=
  r.aux ++ r.shape ++ r.gate ++ r.ring ++ r.tid ++ r.s3 ++ r.s2 ++ r.s1 ++ r.d0 ++ r.hdr

def RawE.unpack (w : BitVec 128) : RawE :=
  { hdr := w.extractLsb' 0 32, d0 := w.extractLsb' 32 9, s1 := w.extractLsb' 41 9, s2 := w.extractLsb' 50 9,
    s3 := w.extractLsb' 59 9, tid := w.extractLsb' 68 16, ring := w.extractLsb' 84 4, gate := w.extractLsb' 88 4,
    shape := w.extractLsb' 92 12, aux := w.extractLsb' 104 24 }

/-! AUX checks: each gives the lowest failing bit within AUX, or none (check 7 of R70). -/

/-- The lowest set bit at or above `lo`. -/
def lowSet {n : Nat} (a : BitVec n) (lo : Nat) : Option Nat := (List.range' lo (n - lo)).find? a.getLsbD

def auxNone {n : Nat} (a : BitVec n) : Option Nat := lowSet a 0

/-- The low `k` bits take any value; the rest must be zero. -/
def auxLow (k : Nat) {n : Nat} (a : BitVec n) : Option Nat := lowSet a k

/-- Bits 3:0 hold a tag from 0 to 10 (R78). -/
def auxTag {n : Nat} (a : BitVec n) : Option Nat :=
  if (a.extractLsb' 0 4).toNat ≤ 10 then lowSet a 4 else some 0

/-- Bits 6:0 hold a length from 1 to 64 (R115). -/
def auxLen {n : Nat} (a : BitVec n) : Option Nat := if lenOk (a.extractLsb' 0 7) then lowSet a 7 else some 0

/-- Bits 2:0 hold the log2 of a segment size, 0 to 4 (R78). -/
def auxSeg {n : Nat} (a : BitVec n) : Option Nat :=
  if (a.extractLsb' 0 3).toNat ≤ 4 then lowSet a 3 else some 0

/-- Bits 21:0 hold a bound of at least 1 (R73). -/
def auxBound {n : Nat} (a : BitVec n) : Option Nat := if a.extractLsb' 0 22 == 0 then some 0 else lowSet a 22

/-- Bits 19:0 hold a chunk size of at least 1 (R81). -/
def auxChunk {n : Nat} (a : BitVec n) : Option Nat := if a.extractLsb' 0 20 == 0 then some 0 else lowSet a 20

/-- At least two path bits are set (R80). -/
def auxPaths {n : Nat} (a : BitVec n) : Option Nat := if pathsOk (a.extractLsb' 0 7) then lowSet a 7 else some 0

/-- The kinds and the rounding of `fcvt`, each a field of its own (R77). -/
def auxFcvt {n : Nat} (a : BitVec n) : Option Nat :=
  let src := FKind.ofBits (a.extractLsb' 0 3)
  let dst := FKind.ofBits (a.extractLsb' 3 3)
  if src == dst || !(src.isFloat || dst.isFloat) then some 3
  else if dst.isFloat && a.extractLsb' 6 2 != 0 then some 6
  else lowSet a 8

/-- The target tag and scale base of `vcvt` (R78). Bits 11:4 that are not zero beside bit 12 fail at their lowest bit (DESIGN CHOICE,
log 15). -/
def auxVcvt {n : Nat} (a : BitVec n) : Option Nat :=
  if 10 < (a.extractLsb' 0 4).toNat then some 0
  else if a.getLsbD 12 && a.extractLsb' 4 8 != 0 then some 4
  else lowSet a 13

/-- A control register number that `mfc` may read (R70, R387). -/
def auxCtlR {n : Nat} (a : BitVec n) : Option Nat :=
  if (a.extractLsb' 0 12).toNat < 0x018 then lowSet a 12 else some 0

/-- A control register number that `mtc` may write (R387). -/
def auxCtlW {n : Nat} (a : BitVec n) : Option Nat :=
  let k := (a.extractLsb' 0 12).toNat
  if k < 0x018 && k != 0x005 && k != 0x006 && k != 0x013 && k != 0x014 && k != 0x016 then lowSet a 12 else some 0

/-- The register checks of `gath`: its index registers do not pass v31 (R80). -/
def gathFault (r : RawE) : Option Nat :=
  if (r.s1.extractLsb' 0 5).toNat + (r.aux.extractLsb' 0 2).toNat ≤ 31 then none else some 104

/-! One row of each format: check 4, check 5, check 6 and check 7 of R70 in order, then the instruction. -/

structure SlotsR where
  d0 : SlotKind := .none
  d1 : SlotKind := .none
  s1 : SlotKind := .none
  s2 : SlotKind := .none
  s3 : SlotKind := .none

/-- How SZ is used (R67). -/
inductive SzUse where
  | none | int | word | vec | lines

/-- How ORD is used (R67). -/
inductive OrdUse where
  | none | any | red

structure UsesM where
  addr : Bool := true
  sz : SzUse := .none
  aop : Bool := false
  ord : OrdUse := .none
  scope : Bool := false

structure UsesE where
  tid : Bool := false
  ring : Bool := false
  gate : Bool := false
  shape : Bool := false

/-- The first failing check, or the instruction. -/
def firstFault (checks : List (Option Nat)) (i : Instr) : Except Nat Instr :=
  match checks.findSome? id with
  | some b => .error b
  | none => .ok i

/-- The lowest of the failing bits of check 7. -/
def lowestFault (fs : List (Option Nat)) : Option Nat :=
  fs.foldl (fun acc f => match acc, f with
    | some a, some b => some (min a b)
    | some a, none => some a
    | none, f => f) none

/-- Check 5 (R69): a modifier of S1 or S2. -/
def modFault (bit : Nat) (m : BitVec 12) (s : BitVec 9) : Option Nat :=
  if m == 0 || (codeKind (slotCode s) == .v && m.extractLsb' 10 2 != 0 && decide ((m.extractLsb' 7 3).toNat ≤ 4))
  then none else some bit

/-- Check 6 (R61): the two destinations name different registers, or s0 or k0. -/
def destFault (two : Bool) (bit : Nat) (a b : BitVec 9) : Option Nat :=
  if two && slotCode a == slotCode b && slotCode a != 0x00 && slotCode a != 0x60 then some bit else none

/-- A field the instruction does not use is zero; it is one field, and fails at its lowest bit (R70, DEDUCED, log 15). -/
def zeroFault {n : Nat} (used : Bool) (bit : Nat) (x : BitVec n) : Option Nat :=
  if used || x == 0 then none else some bit

def rowR (hd : Bool) (k : SlotsR) (two : Bool) (aux : BitVec 27 → Option Nat) (i : Instr) (r : RawR) :
    Except Nat Instr :=
  firstFault
    [slotFault hd k.d0 32 r.d0, slotFault hd k.d1 41 r.d1, slotFault hd k.s1 50 r.s1,
     slotFault hd k.s2 59 r.s2, slotFault hd k.s3 68 r.s3,
     modFault 77 r.m1 r.s1, modFault 89 r.m2 r.s2, destFault two 41 r.d0 r.d1,
     (aux r.aux).map (· + 101)] i

def rowI (hd : Bool) (k : SlotsR) (two : Bool) (i : Instr) (r : RawI) : Except Nat Instr :=
  firstFault
    [slotFault hd k.d0 32 r.d0, slotFault hd k.s1 41 r.s1, slotFault hd k.s2 50 r.s2,
     destFault two 50 r.d0 r.s2, (auxNone r.aux).map (· + 123)] i

/-- The guard fields of `land`, which must be zero (R140). -/
def guardFields (hdr : BitVec 32) : List (Option Nat) :=
  [zeroFault false 12 (hdr.extractLsb' 12 3), zeroFault false 15 (hdr.extractLsb' 15 1),
   zeroFault false 16 (hdr.extractLsb' 16 3), zeroFault false 19 (hdr.extractLsb' 19 1)]

def rowB (hd : Bool) (k : SlotsR) (land off pad : Bool) (aux : BitVec 22 → Option Nat) (i : Instr) (r : RawB) :
    Except Nat Instr :=
  firstFault
    [slotFault hd k.s1 32 r.s1, slotFault hd k.s2 41 r.s2,
     lowestFault ((if land then guardFields r.hdr else []) ++
       [zeroFault off 50 r.off, zeroFault pad 90 r.pad, (aux r.aux).map (· + 106)])] i

/-- The SZ values an instruction takes (R67). -/
def szFault (u : SzUse) (x : BitVec 5) : Option Nat :=
  let ok : Bool := match u with
    | .none => x == 0
    | .int => decide (x.toNat ≤ 3)
    | .word => decide (2 ≤ x.toNat) && decide (x.toNat ≤ 3)
    | .vec => decide (0x10 ≤ x.toNat) && decide (x.toNat ≤ 0x1A)
    | .lines => decide (1 ≤ x.toNat) && decide (x.toNat ≤ 16)
  if ok then none else some 62

/-- The ORD values an instruction takes (R67, R80). -/
def ordFault (u : OrdUse) (x : BitVec 3) : Option Nat :=
  let ok : Bool := match u with
    | .none => x == 0
    | .any => decide (x.toNat ≤ 3)
    | .red => x == 0 || x == 2 || x == 3
  if ok then none else some 115

/-- The AOP values: 0 to 11, and 9 to 11 only with SZ 2 (R67, R80). -/
def aopFault (used : Bool) (x : BitVec 4) (sz : BitVec 5) : Option Nat :=
  if used then (if x.toNat ≤ 8 || (x.toNat ≤ 11 && sz == 2) then none else some 108) else zeroFault false 108 x

/-- The SCOPE values (R67). -/
def scopeFault (used : Bool) (x : BitVec 3) : Option Nat :=
  if used then (if x.toNat ≤ 4 then none else some 112) else zeroFault false 112 x

def rowM (hd : Bool) (k : SlotsR) (u : UsesM) (aux : BitVec 10 → Option Nat) (i : Instr) (r : RawM) :
    Except Nat Instr :=
  firstFault
    [slotFault hd k.d0 32 r.d0, slotFault hd (if u.addr then .s else .none) 41 r.base,
     slotFault hd (if u.addr then .s else .none) 50 r.idx, slotFault hd k.s3 99 r.s3,
     lowestFault
       [if u.addr then (if r.scl == 0 || r.idx.extractLsb' 0 6 != 0 then none else some 59) else zeroFault false 59 r.scl,
        szFault u.sz r.sz, zeroFault u.addr 67 r.disp, aopFault u.aop r.aop r.sz, scopeFault u.scope r.scope,
        ordFault u.ord r.ord, (aux r.aux).map (· + 118)]] i

def rowE (hd : Bool) (k : SlotsR) (u : UsesE) (aux : BitVec 24 → Option Nat) (special : Option Nat) (i : Instr)
    (r : RawE) : Except Nat Instr :=
  firstFault
    [slotFault hd k.d0 32 r.d0, slotFault hd k.s1 41 r.s1, slotFault hd k.s2 50 r.s2, slotFault hd k.s3 59 r.s3,
     lowestFault
       [zeroFault u.tid 68 r.tid, zeroFault u.ring 84 r.ring, zeroFault u.gate 88 r.gate,
        (if u.shape then (if r.shape == 0 then some 92 else none) else zeroFault false 92 r.shape),
        special, (aux r.aux).map (· + 104)]] i

/-- The three registers with a row of their own, and the general `mtc` (R387). -/
def mtcOf (h : Header) (x : SCon) (reg : CtlReg) : Instr :=
  match reg with
  | .lmcfg => .mtcLmcfg h x
  | .mxcnt => .mtcMxcnt h x
  | .status => .mtcStatus h x
  | r => .mtc h x r

/-- The control rows of the opcode map, OP 0x00 up to 0x0F. -/
def decodeControl (hd : Bool) (op fn : Nat) (h : Header) (w : BitVec 128) : Except Nat Instr :=
  match op, fn with
  | 0x00, 0 =>
    let r := RawR.unpack w
    rowR hd {  } false auxNone (.nop h) r
  | 0x01, 0 =>
    let r := RawB.unpack w
    rowB hd {  } false true false auxNone (.br h r.off) r
  | 0x02, 0 =>
    let r := RawB.unpack w
    rowB hd {  } false true false auxNone (.brl h r.off) r
  | 0x03, 0 =>
    let r := RawR.unpack w
    rowR hd {  } false auxNone (.ret h) r
  | 0x04, 0 =>
    let r := RawB.unpack w
    rowB hd { s1 := .s, s2 := .s } false false true auxBound (.jt h (SReg.ofSlot r.s1) (SReg.ofSlot r.s2) r.pad (r.aux.extractLsb' 0 22)) r
  | 0x05, 0 =>
    let r := RawB.unpack w
    rowB hd {  } true false true (auxLow 1) (.land h r.pad (r.aux.getLsbD 0)) r
  | 0x06, 0 =>
    let r := RawB.unpack w
    rowB hd { s1 := .s } false true false auxNone (.loop h (SReg.ofSlot r.s1) r.off) r
  | 0x07, 0 =>
    let r := RawI.unpack w
    rowI hd {  } false (.trap h r.imm) r
  | 0x08, 0 =>
    let r := RawR.unpack w
    rowR hd {  } false auxNone (.eret h) r
  | _, _ => .ok (.unassignedOp w)

/-- The scalar rows of the opcode map, OP 0x10 up to 0x1F. -/
def decodeScalar (hd : Bool) (op fn : Nat) (h : Header) (w : BitVec 128) : Except Nat Instr :=
  match op, fn with
  | 0x10, 0 =>
    let r := RawR.unpack w
    rowR hd { d0 := .s, s1 := .sc, s2 := .sc } false auxNone (.add h (SReg.ofSlot r.d0) (SCon.ofSlot r.s1) (SCon.ofSlot r.s2)) r
  | 0x10, 1 =>
    let r := RawR.unpack w
    rowR hd { d0 := .s, s1 := .sc, s2 := .sc } false auxNone (.sub h (SReg.ofSlot r.d0) (SCon.ofSlot r.s1) (SCon.ofSlot r.s2)) r
  | 0x10, 2 =>
    let r := RawR.unpack w
    rowR hd { d0 := .s, s1 := .sc, s2 := .sc } false auxNone (.and h (SReg.ofSlot r.d0) (SCon.ofSlot r.s1) (SCon.ofSlot r.s2)) r
  | 0x10, 3 =>
    let r := RawR.unpack w
    rowR hd { d0 := .s, s1 := .sc, s2 := .sc } false auxNone (.or h (SReg.ofSlot r.d0) (SCon.ofSlot r.s1) (SCon.ofSlot r.s2)) r
  | 0x10, 4 =>
    let r := RawR.unpack w
    rowR hd { d0 := .s, s1 := .sc, s2 := .sc } false auxNone (.xor h (SReg.ofSlot r.d0) (SCon.ofSlot r.s1) (SCon.ofSlot r.s2)) r
  | 0x10, 5 =>
    let r := RawR.unpack w
    rowR hd { d0 := .s, s1 := .sc, s2 := .sc } false auxNone (.andn h (SReg.ofSlot r.d0) (SCon.ofSlot r.s1) (SCon.ofSlot r.s2)) r
  | 0x10, 6 =>
    let r := RawR.unpack w
    rowR hd { d0 := .s, s1 := .sc, s2 := .sc } false auxNone (.shl h (SReg.ofSlot r.d0) (SCon.ofSlot r.s1) (SCon.ofSlot r.s2)) r
  | 0x10, 7 =>
    let r := RawR.unpack w
    rowR hd { d0 := .s, s1 := .sc, s2 := .sc } false auxNone (.shr h (SReg.ofSlot r.d0) (SCon.ofSlot r.s1) (SCon.ofSlot r.s2)) r
  | 0x10, 8 =>
    let r := RawR.unpack w
    rowR hd { d0 := .s, s1 := .sc, s2 := .sc } false auxNone (.sra h (SReg.ofSlot r.d0) (SCon.ofSlot r.s1) (SCon.ofSlot r.s2)) r
  | 0x10, 9 =>
    let r := RawR.unpack w
    rowR hd { d0 := .s, s1 := .sc, s2 := .sc } false auxNone (.rol h (SReg.ofSlot r.d0) (SCon.ofSlot r.s1) (SCon.ofSlot r.s2)) r
  | 0x10, 10 =>
    let r := RawR.unpack w
    rowR hd { d0 := .s, s1 := .sc, s2 := .sc } false auxNone (.min h (SReg.ofSlot r.d0) (SCon.ofSlot r.s1) (SCon.ofSlot r.s2)) r
  | 0x10, 11 =>
    let r := RawR.unpack w
    rowR hd { d0 := .s, s1 := .sc, s2 := .sc } false auxNone (.max h (SReg.ofSlot r.d0) (SCon.ofSlot r.s1) (SCon.ofSlot r.s2)) r
  | 0x10, 12 =>
    let r := RawR.unpack w
    rowR hd { d0 := .s, s1 := .sc, s2 := .sc } false auxNone (.minu h (SReg.ofSlot r.d0) (SCon.ofSlot r.s1) (SCon.ofSlot r.s2)) r
  | 0x10, 13 =>
    let r := RawR.unpack w
    rowR hd { d0 := .s, s1 := .sc, s2 := .sc } false auxNone (.maxu h (SReg.ofSlot r.d0) (SCon.ofSlot r.s1) (SCon.ofSlot r.s2)) r
  | 0x11, 0 =>
    let r := RawI.unpack w
    rowI hd { d0 := .s, s1 := .sc } false (.addImm h (SReg.ofSlot r.d0) (SCon.ofSlot r.s1) r.imm) r
  | 0x11, 1 =>
    let r := RawI.unpack w
    rowI hd { d0 := .s, s1 := .sc } false (.subImm h (SReg.ofSlot r.d0) (SCon.ofSlot r.s1) r.imm) r
  | 0x11, 2 =>
    let r := RawI.unpack w
    rowI hd { d0 := .s, s1 := .sc } false (.andImm h (SReg.ofSlot r.d0) (SCon.ofSlot r.s1) r.imm) r
  | 0x11, 3 =>
    let r := RawI.unpack w
    rowI hd { d0 := .s, s1 := .sc } false (.orImm h (SReg.ofSlot r.d0) (SCon.ofSlot r.s1) r.imm) r
  | 0x11, 4 =>
    let r := RawI.unpack w
    rowI hd { d0 := .s, s1 := .sc } false (.xorImm h (SReg.ofSlot r.d0) (SCon.ofSlot r.s1) r.imm) r
  | 0x11, 5 =>
    let r := RawI.unpack w
    rowI hd { d0 := .s, s1 := .sc } false (.andnImm h (SReg.ofSlot r.d0) (SCon.ofSlot r.s1) r.imm) r
  | 0x11, 6 =>
    let r := RawI.unpack w
    rowI hd { d0 := .s, s1 := .sc } false (.shlImm h (SReg.ofSlot r.d0) (SCon.ofSlot r.s1) r.imm) r
  | 0x11, 7 =>
    let r := RawI.unpack w
    rowI hd { d0 := .s, s1 := .sc } false (.shrImm h (SReg.ofSlot r.d0) (SCon.ofSlot r.s1) r.imm) r
  | 0x11, 8 =>
    let r := RawI.unpack w
    rowI hd { d0 := .s, s1 := .sc } false (.sraImm h (SReg.ofSlot r.d0) (SCon.ofSlot r.s1) r.imm) r
  | 0x11, 9 =>
    let r := RawI.unpack w
    rowI hd { d0 := .s, s1 := .sc } false (.rolImm h (SReg.ofSlot r.d0) (SCon.ofSlot r.s1) r.imm) r
  | 0x11, 10 =>
    let r := RawI.unpack w
    rowI hd { d0 := .s, s1 := .sc } false (.minImm h (SReg.ofSlot r.d0) (SCon.ofSlot r.s1) r.imm) r
  | 0x11, 11 =>
    let r := RawI.unpack w
    rowI hd { d0 := .s, s1 := .sc } false (.maxImm h (SReg.ofSlot r.d0) (SCon.ofSlot r.s1) r.imm) r
  | 0x11, 12 =>
    let r := RawI.unpack w
    rowI hd { d0 := .s, s1 := .sc } false (.minuImm h (SReg.ofSlot r.d0) (SCon.ofSlot r.s1) r.imm) r
  | 0x11, 13 =>
    let r := RawI.unpack w
    rowI hd { d0 := .s, s1 := .sc } false (.maxuImm h (SReg.ofSlot r.d0) (SCon.ofSlot r.s1) r.imm) r
  | 0x12, 0 =>
    let r := RawR.unpack w
    rowR hd { d0 := .s, s1 := .sc, s2 := .sc } false auxNone (.mul h (SReg.ofSlot r.d0) (SCon.ofSlot r.s1) (SCon.ofSlot r.s2)) r
  | 0x12, 1 =>
    let r := RawR.unpack w
    rowR hd { d0 := .s, s1 := .sc, s2 := .sc } false auxNone (.mulh h (SReg.ofSlot r.d0) (SCon.ofSlot r.s1) (SCon.ofSlot r.s2)) r
  | 0x12, 2 =>
    let r := RawR.unpack w
    rowR hd { d0 := .s, s1 := .sc, s2 := .sc } false auxNone (.mulhu h (SReg.ofSlot r.d0) (SCon.ofSlot r.s1) (SCon.ofSlot r.s2)) r
  | 0x13, 0 =>
    let r := RawR.unpack w
    rowR hd { d0 := .s, s1 := .sc, s2 := .sc } false auxNone (.div h (SReg.ofSlot r.d0) (SCon.ofSlot r.s1) (SCon.ofSlot r.s2)) r
  | 0x13, 1 =>
    let r := RawR.unpack w
    rowR hd { d0 := .s, s1 := .sc, s2 := .sc } false auxNone (.divu h (SReg.ofSlot r.d0) (SCon.ofSlot r.s1) (SCon.ofSlot r.s2)) r
  | 0x13, 2 =>
    let r := RawR.unpack w
    rowR hd { d0 := .s, s1 := .sc, s2 := .sc } false auxNone (.rem h (SReg.ofSlot r.d0) (SCon.ofSlot r.s1) (SCon.ofSlot r.s2)) r
  | 0x13, 3 =>
    let r := RawR.unpack w
    rowR hd { d0 := .s, s1 := .sc, s2 := .sc } false auxNone (.remu h (SReg.ofSlot r.d0) (SCon.ofSlot r.s1) (SCon.ofSlot r.s2)) r
  | 0x14, 0 =>
    let r := RawR.unpack w
    rowR hd { d0 := .s, s1 := .sc } false auxNone (.clz h (SReg.ofSlot r.d0) (SCon.ofSlot r.s1)) r
  | 0x14, 1 =>
    let r := RawR.unpack w
    rowR hd { d0 := .s, s1 := .sc } false auxNone (.ctz h (SReg.ofSlot r.d0) (SCon.ofSlot r.s1)) r
  | 0x14, 2 =>
    let r := RawR.unpack w
    rowR hd { d0 := .s, s1 := .sc } false auxNone (.popc h (SReg.ofSlot r.d0) (SCon.ofSlot r.s1)) r
  | 0x14, 3 =>
    let r := RawR.unpack w
    rowR hd { d0 := .s, s1 := .sc, s2 := .sc } false auxNone (.sext h (SReg.ofSlot r.d0) (SCon.ofSlot r.s1) (SCon.ofSlot r.s2)) r
  | 0x14, 4 =>
    let r := RawR.unpack w
    rowR hd { d0 := .s, s1 := .sc, s2 := .sc } false auxNone (.zext h (SReg.ofSlot r.d0) (SCon.ofSlot r.s1) (SCon.ofSlot r.s2)) r
  | 0x14, 5 =>
    let r := RawR.unpack w
    rowR hd { d0 := .s, s1 := .sc, s2 := .sc } false auxLen (.bext h (SReg.ofSlot r.d0) (SCon.ofSlot r.s1) (SCon.ofSlot r.s2) (r.aux.extractLsb' 0 7)) r
  | 0x14, 6 =>
    let r := RawR.unpack w
    rowR hd { d0 := .s, s1 := .sc, s2 := .sc, s3 := .sc } false auxLen (.bins h (SReg.ofSlot r.d0) (SCon.ofSlot r.s1) (SCon.ofSlot r.s2) (SCon.ofSlot r.s3) (r.aux.extractLsb' 0 7)) r
  | 0x15, 0 =>
    let r := RawR.unpack w
    rowR hd { d0 := .k, d1 := .k, s1 := .sc, s2 := .sc } true auxNone (.cmpEq h (KReg.ofSlot r.d0) (KReg.ofSlot r.d1) (SCon.ofSlot r.s1) (SCon.ofSlot r.s2)) r
  | 0x15, 1 =>
    let r := RawR.unpack w
    rowR hd { d0 := .k, d1 := .k, s1 := .sc, s2 := .sc } true auxNone (.cmpNe h (KReg.ofSlot r.d0) (KReg.ofSlot r.d1) (SCon.ofSlot r.s1) (SCon.ofSlot r.s2)) r
  | 0x15, 2 =>
    let r := RawR.unpack w
    rowR hd { d0 := .k, d1 := .k, s1 := .sc, s2 := .sc } true auxNone (.cmpLt h (KReg.ofSlot r.d0) (KReg.ofSlot r.d1) (SCon.ofSlot r.s1) (SCon.ofSlot r.s2)) r
  | 0x15, 3 =>
    let r := RawR.unpack w
    rowR hd { d0 := .k, d1 := .k, s1 := .sc, s2 := .sc } true auxNone (.cmpGe h (KReg.ofSlot r.d0) (KReg.ofSlot r.d1) (SCon.ofSlot r.s1) (SCon.ofSlot r.s2)) r
  | 0x15, 4 =>
    let r := RawR.unpack w
    rowR hd { d0 := .k, d1 := .k, s1 := .sc, s2 := .sc } true auxNone (.cmpLtu h (KReg.ofSlot r.d0) (KReg.ofSlot r.d1) (SCon.ofSlot r.s1) (SCon.ofSlot r.s2)) r
  | 0x15, 5 =>
    let r := RawR.unpack w
    rowR hd { d0 := .k, d1 := .k, s1 := .sc, s2 := .sc } true auxNone (.cmpGeu h (KReg.ofSlot r.d0) (KReg.ofSlot r.d1) (SCon.ofSlot r.s1) (SCon.ofSlot r.s2)) r
  | 0x16, 0 =>
    let r := RawI.unpack w
    rowI hd { d0 := .k, s1 := .sc, s2 := .k } true (.cmpEqImm h (KReg.ofSlot r.d0) (KReg.ofSlot r.s2) (SCon.ofSlot r.s1) r.imm) r
  | 0x16, 1 =>
    let r := RawI.unpack w
    rowI hd { d0 := .k, s1 := .sc, s2 := .k } true (.cmpNeImm h (KReg.ofSlot r.d0) (KReg.ofSlot r.s2) (SCon.ofSlot r.s1) r.imm) r
  | 0x16, 2 =>
    let r := RawI.unpack w
    rowI hd { d0 := .k, s1 := .sc, s2 := .k } true (.cmpLtImm h (KReg.ofSlot r.d0) (KReg.ofSlot r.s2) (SCon.ofSlot r.s1) r.imm) r
  | 0x16, 3 =>
    let r := RawI.unpack w
    rowI hd { d0 := .k, s1 := .sc, s2 := .k } true (.cmpGeImm h (KReg.ofSlot r.d0) (KReg.ofSlot r.s2) (SCon.ofSlot r.s1) r.imm) r
  | 0x16, 4 =>
    let r := RawI.unpack w
    rowI hd { d0 := .k, s1 := .sc, s2 := .k } true (.cmpLtuImm h (KReg.ofSlot r.d0) (KReg.ofSlot r.s2) (SCon.ofSlot r.s1) r.imm) r
  | 0x16, 5 =>
    let r := RawI.unpack w
    rowI hd { d0 := .k, s1 := .sc, s2 := .k } true (.cmpGeuImm h (KReg.ofSlot r.d0) (KReg.ofSlot r.s2) (SCon.ofSlot r.s1) r.imm) r
  | 0x17, 0 =>
    let r := RawR.unpack w
    rowR hd { d0 := .s, s1 := .k, s2 := .sc, s3 := .sc } false auxNone (.sel h (SReg.ofSlot r.d0) (KReg.ofSlot r.s1) (SCon.ofSlot r.s2) (SCon.ofSlot r.s3)) r
  | 0x1D, 0 =>
    let r := RawR.unpack w
    rowR hd { d0 := .k, s1 := .k, s2 := .k } false auxNone (.plogAnd h (KReg.ofSlot r.d0) (KReg.ofSlot r.s1) (KReg.ofSlot r.s2)) r
  | 0x1D, 1 =>
    let r := RawR.unpack w
    rowR hd { d0 := .k, s1 := .k, s2 := .k } false auxNone (.plogOr h (KReg.ofSlot r.d0) (KReg.ofSlot r.s1) (KReg.ofSlot r.s2)) r
  | 0x1D, 2 =>
    let r := RawR.unpack w
    rowR hd { d0 := .k, s1 := .k, s2 := .k } false auxNone (.plogXor h (KReg.ofSlot r.d0) (KReg.ofSlot r.s1) (KReg.ofSlot r.s2)) r
  | 0x1D, 3 =>
    let r := RawR.unpack w
    rowR hd { d0 := .k, s1 := .k, s2 := .k } false auxNone (.plogAndn h (KReg.ofSlot r.d0) (KReg.ofSlot r.s1) (KReg.ofSlot r.s2)) r
  | 0x18, 0 =>
    let r := RawI.unpack w
    rowI hd { d0 := .s } false (.movi h (SReg.ofSlot r.d0) r.imm) r
  | 0x19, 0 =>
    let r := RawR.unpack w
    rowR hd { d0 := .svk, s1 := movSrcKind r.d0 } false auxNone (.mov h (MovOps.ofSlots r.d0 r.s1 r.m1)) r
  | 0x1A, 0 =>
    let r := RawM.unpack w
    rowM hd { d0 := .s } { addr := true, sz := .none, aop := false, ord := .none, scope := false } auxNone (.lea h (SReg.ofSlot r.d0) r.addr) r
  | 0x1B, 0 =>
    let r := RawR.unpack w
    rowR hd { d0 := .s, s1 := .sc, s2 := .sc } false auxNone (.gaddr h (SReg.ofSlot r.d0) (SCon.ofSlot r.s1) (SCon.ofSlot r.s2)) r
  | 0x1C, 0 =>
    let r := RawR.unpack w
    rowR hd { s1 := .sc, s2 := .s } false auxNone (.dtset h (SCon.ofSlot r.s1) (SReg.ofSlot r.s2)) r
  | _, _ => .ok (.unassignedOp w)

/-- The float rows of the opcode map, OP 0x20 up to 0x2F. -/
def decodeFloat (hd : Bool) (op fn : Nat) (h : Header) (w : BitVec 128) : Except Nat Instr :=
  match op, fn with
  | 0x20, 0 =>
    let r := RawR.unpack w
    rowR hd { d0 := .s, s1 := .s, s2 := .s } false (auxLow 1) (.fadd h (SReg.ofSlot r.d0) (SReg.ofSlot r.s1) (SReg.ofSlot r.s2) (r.aux.getLsbD 0)) r
  | 0x20, 1 =>
    let r := RawR.unpack w
    rowR hd { d0 := .s, s1 := .s, s2 := .s } false (auxLow 1) (.fsub h (SReg.ofSlot r.d0) (SReg.ofSlot r.s1) (SReg.ofSlot r.s2) (r.aux.getLsbD 0)) r
  | 0x20, 2 =>
    let r := RawR.unpack w
    rowR hd { d0 := .s, s1 := .s, s2 := .s } false (auxLow 1) (.fmul h (SReg.ofSlot r.d0) (SReg.ofSlot r.s1) (SReg.ofSlot r.s2) (r.aux.getLsbD 0)) r
  | 0x20, 3 =>
    let r := RawR.unpack w
    rowR hd { d0 := .s, s1 := .s, s2 := .s } false (auxLow 1) (.fdiv h (SReg.ofSlot r.d0) (SReg.ofSlot r.s1) (SReg.ofSlot r.s2) (r.aux.getLsbD 0)) r
  | 0x20, 4 =>
    let r := RawR.unpack w
    rowR hd { d0 := .s, s1 := .s, s2 := .s } false (auxLow 1) (.fmin h (SReg.ofSlot r.d0) (SReg.ofSlot r.s1) (SReg.ofSlot r.s2) (r.aux.getLsbD 0)) r
  | 0x20, 5 =>
    let r := RawR.unpack w
    rowR hd { d0 := .s, s1 := .s, s2 := .s } false (auxLow 1) (.fmax h (SReg.ofSlot r.d0) (SReg.ofSlot r.s1) (SReg.ofSlot r.s2) (r.aux.getLsbD 0)) r
  | 0x20, 6 =>
    let r := RawR.unpack w
    rowR hd { d0 := .s, s1 := .s } false (auxLow 1) (.fsqrt h (SReg.ofSlot r.d0) (SReg.ofSlot r.s1) (r.aux.getLsbD 0)) r
  | 0x21, 0 =>
    let r := RawR.unpack w
    rowR hd { d0 := .s, s1 := .s, s2 := .s, s3 := .s } false (auxLow 1) (.fma h (SReg.ofSlot r.d0) (SReg.ofSlot r.s1) (SReg.ofSlot r.s2) (SReg.ofSlot r.s3) (r.aux.getLsbD 0)) r
  | 0x21, 1 =>
    let r := RawR.unpack w
    rowR hd { d0 := .s, s1 := .s, s2 := .s, s3 := .s } false (auxLow 1) (.fms h (SReg.ofSlot r.d0) (SReg.ofSlot r.s1) (SReg.ofSlot r.s2) (SReg.ofSlot r.s3) (r.aux.getLsbD 0)) r
  | 0x21, 2 =>
    let r := RawR.unpack w
    rowR hd { d0 := .s, s1 := .s, s2 := .s, s3 := .s } false (auxLow 1) (.fnma h (SReg.ofSlot r.d0) (SReg.ofSlot r.s1) (SReg.ofSlot r.s2) (SReg.ofSlot r.s3) (r.aux.getLsbD 0)) r
  | 0x22, 0 =>
    let r := RawR.unpack w
    rowR hd { d0 := .k, d1 := .k, s1 := .s, s2 := .s } true (auxLow 1) (.fcmpEq h (KReg.ofSlot r.d0) (KReg.ofSlot r.d1) (SReg.ofSlot r.s1) (SReg.ofSlot r.s2) (r.aux.getLsbD 0)) r
  | 0x22, 1 =>
    let r := RawR.unpack w
    rowR hd { d0 := .k, d1 := .k, s1 := .s, s2 := .s } true (auxLow 1) (.fcmpNe h (KReg.ofSlot r.d0) (KReg.ofSlot r.d1) (SReg.ofSlot r.s1) (SReg.ofSlot r.s2) (r.aux.getLsbD 0)) r
  | 0x22, 2 =>
    let r := RawR.unpack w
    rowR hd { d0 := .k, d1 := .k, s1 := .s, s2 := .s } true (auxLow 1) (.fcmpLt h (KReg.ofSlot r.d0) (KReg.ofSlot r.d1) (SReg.ofSlot r.s1) (SReg.ofSlot r.s2) (r.aux.getLsbD 0)) r
  | 0x22, 3 =>
    let r := RawR.unpack w
    rowR hd { d0 := .k, d1 := .k, s1 := .s, s2 := .s } true (auxLow 1) (.fcmpGe h (KReg.ofSlot r.d0) (KReg.ofSlot r.d1) (SReg.ofSlot r.s1) (SReg.ofSlot r.s2) (r.aux.getLsbD 0)) r
  | 0x22, 4 =>
    let r := RawR.unpack w
    rowR hd { d0 := .k, d1 := .k, s1 := .s, s2 := .s } true (auxLow 1) (.fcmpUn h (KReg.ofSlot r.d0) (KReg.ofSlot r.d1) (SReg.ofSlot r.s1) (SReg.ofSlot r.s2) (r.aux.getLsbD 0)) r
  | 0x23, 0 =>
    let r := RawR.unpack w
    rowR hd { d0 := .s, s1 := .s } false auxFcvt (.fcvt h (SReg.ofSlot r.d0) (SReg.ofSlot r.s1) (FKind.ofBits (r.aux.extractLsb' 0 3)) (FKind.ofBits (r.aux.extractLsb' 3 3)) (Rnd.ofBits (r.aux.extractLsb' 6 2))) r
  | 0x24, 0 =>
    let r := RawR.unpack w
    rowR hd { d0 := .s, s1 := .s } false (auxLow 1) (.fclass h (SReg.ofSlot r.d0) (SReg.ofSlot r.s1) (r.aux.getLsbD 0)) r
  | _, _ => .ok (.unassignedOp w)

/-- The simd rows of the opcode map, OP 0x30 up to 0x4F. -/
def decodeSimd (hd : Bool) (op fn : Nat) (h : Header) (w : BitVec 128) : Except Nat Instr :=
  match op, fn with
  | 0x30, 0 =>
    let r := RawR.unpack w
    rowR hd { d0 := .v, s1 := .v, s2 := .v } false auxNone (.vadd h (VReg.ofSlot r.d0) (VSrc.ofSlot r.s1 r.m1) (VSrc.ofSlot r.s2 r.m2)) r
  | 0x30, 1 =>
    let r := RawR.unpack w
    rowR hd { d0 := .v, s1 := .v, s2 := .v } false auxNone (.vsub h (VReg.ofSlot r.d0) (VSrc.ofSlot r.s1 r.m1) (VSrc.ofSlot r.s2 r.m2)) r
  | 0x30, 2 =>
    let r := RawR.unpack w
    rowR hd { d0 := .v, s1 := .v, s2 := .v } false auxNone (.vmul h (VReg.ofSlot r.d0) (VSrc.ofSlot r.s1 r.m1) (VSrc.ofSlot r.s2 r.m2)) r
  | 0x30, 3 =>
    let r := RawR.unpack w
    rowR hd { d0 := .v, s1 := .v, s2 := .v } false auxNone (.vmin h (VReg.ofSlot r.d0) (VSrc.ofSlot r.s1 r.m1) (VSrc.ofSlot r.s2 r.m2)) r
  | 0x30, 4 =>
    let r := RawR.unpack w
    rowR hd { d0 := .v, s1 := .v, s2 := .v } false auxNone (.vmax h (VReg.ofSlot r.d0) (VSrc.ofSlot r.s1 r.m1) (VSrc.ofSlot r.s2 r.m2)) r
  | 0x30, 5 =>
    let r := RawR.unpack w
    rowR hd { d0 := .v, s1 := .v, s2 := .v } false auxNone (.vand h (VReg.ofSlot r.d0) (VSrc.ofSlot r.s1 r.m1) (VSrc.ofSlot r.s2 r.m2)) r
  | 0x30, 6 =>
    let r := RawR.unpack w
    rowR hd { d0 := .v, s1 := .v, s2 := .v } false auxNone (.vor h (VReg.ofSlot r.d0) (VSrc.ofSlot r.s1 r.m1) (VSrc.ofSlot r.s2 r.m2)) r
  | 0x30, 7 =>
    let r := RawR.unpack w
    rowR hd { d0 := .v, s1 := .v, s2 := .v } false auxNone (.vxor h (VReg.ofSlot r.d0) (VSrc.ofSlot r.s1 r.m1) (VSrc.ofSlot r.s2 r.m2)) r
  | 0x30, 8 =>
    let r := RawR.unpack w
    rowR hd { d0 := .v, s1 := .v, s2 := .v } false auxNone (.vandn h (VReg.ofSlot r.d0) (VSrc.ofSlot r.s1 r.m1) (VSrc.ofSlot r.s2 r.m2)) r
  | 0x30, 9 =>
    let r := RawR.unpack w
    rowR hd { d0 := .v, s1 := .v, s2 := .v } false auxNone (.vshl h (VReg.ofSlot r.d0) (VSrc.ofSlot r.s1 r.m1) (VSrc.ofSlot r.s2 r.m2)) r
  | 0x30, 10 =>
    let r := RawR.unpack w
    rowR hd { d0 := .v, s1 := .v, s2 := .v } false auxNone (.vshr h (VReg.ofSlot r.d0) (VSrc.ofSlot r.s1 r.m1) (VSrc.ofSlot r.s2 r.m2)) r
  | 0x30, 11 =>
    let r := RawR.unpack w
    rowR hd { d0 := .v, s1 := .v, s2 := .v } false auxNone (.vsra h (VReg.ofSlot r.d0) (VSrc.ofSlot r.s1 r.m1) (VSrc.ofSlot r.s2 r.m2)) r
  | 0x31, 0 =>
    let r := RawR.unpack w
    rowR hd { d0 := .v, s1 := .v, s2 := .v, s3 := .v } false auxNone (.vfma h (VReg.ofSlot r.d0) (VSrc.ofSlot r.s1 r.m1) (VSrc.ofSlot r.s2 r.m2) (VReg.ofSlot r.s3)) r
  | 0x31, 1 =>
    let r := RawR.unpack w
    rowR hd { d0 := .v, s1 := .v, s2 := .v, s3 := .v } false auxNone (.vfms h (VReg.ofSlot r.d0) (VSrc.ofSlot r.s1 r.m1) (VSrc.ofSlot r.s2 r.m2) (VReg.ofSlot r.s3)) r
  | 0x31, 2 =>
    let r := RawR.unpack w
    rowR hd { d0 := .v, s1 := .v, s2 := .v, s3 := .v } false auxNone (.vfnma h (VReg.ofSlot r.d0) (VSrc.ofSlot r.s1 r.m1) (VSrc.ofSlot r.s2 r.m2) (VReg.ofSlot r.s3)) r
  | 0x32, 0 =>
    let r := RawR.unpack w
    rowR hd { d0 := .v, s1 := .v, s2 := .v } false auxNone (.vcmpEq h (VReg.ofSlot r.d0) (VSrc.ofSlot r.s1 r.m1) (VSrc.ofSlot r.s2 r.m2)) r
  | 0x32, 1 =>
    let r := RawR.unpack w
    rowR hd { d0 := .v, s1 := .v, s2 := .v } false auxNone (.vcmpNe h (VReg.ofSlot r.d0) (VSrc.ofSlot r.s1 r.m1) (VSrc.ofSlot r.s2 r.m2)) r
  | 0x32, 2 =>
    let r := RawR.unpack w
    rowR hd { d0 := .v, s1 := .v, s2 := .v } false auxNone (.vcmpLt h (VReg.ofSlot r.d0) (VSrc.ofSlot r.s1 r.m1) (VSrc.ofSlot r.s2 r.m2)) r
  | 0x32, 3 =>
    let r := RawR.unpack w
    rowR hd { d0 := .v, s1 := .v, s2 := .v } false auxNone (.vcmpGe h (VReg.ofSlot r.d0) (VSrc.ofSlot r.s1 r.m1) (VSrc.ofSlot r.s2 r.m2)) r
  | 0x32, 4 =>
    let r := RawR.unpack w
    rowR hd { d0 := .v, s1 := .v, s2 := .v } false auxNone (.vcmpLtu h (VReg.ofSlot r.d0) (VSrc.ofSlot r.s1 r.m1) (VSrc.ofSlot r.s2 r.m2)) r
  | 0x32, 5 =>
    let r := RawR.unpack w
    rowR hd { d0 := .v, s1 := .v, s2 := .v } false auxNone (.vcmpGeu h (VReg.ofSlot r.d0) (VSrc.ofSlot r.s1 r.m1) (VSrc.ofSlot r.s2 r.m2)) r
  | 0x32, 6 =>
    let r := RawR.unpack w
    rowR hd { d0 := .v, s1 := .v, s2 := .v } false auxNone (.vcmpUn h (VReg.ofSlot r.d0) (VSrc.ofSlot r.s1 r.m1) (VSrc.ofSlot r.s2 r.m2)) r
  | 0x33, 0 =>
    let r := RawR.unpack w
    rowR hd { d0 := .v, s1 := .v, s2 := .v, s3 := .v } false auxNone (.vsel h (VReg.ofSlot r.d0) (VSrc.ofSlot r.s1 r.m1) (VSrc.ofSlot r.s2 r.m2) (VReg.ofSlot r.s3)) r
  | 0x34, 0 =>
    let r := RawR.unpack w
    rowR hd { d0 := .v, s1 := .v } false auxNone (.vabs h (VReg.ofSlot r.d0) (VSrc.ofSlot r.s1 r.m1)) r
  | 0x34, 1 =>
    let r := RawR.unpack w
    rowR hd { d0 := .v, s1 := .v } false auxNone (.vneg h (VReg.ofSlot r.d0) (VSrc.ofSlot r.s1 r.m1)) r
  | 0x35, 0 =>
    let r := RawR.unpack w
    rowR hd { d0 := .v, s1 := .v, s2 := .v } false auxSeg (.vdot h (VReg.ofSlot r.d0) (VSrc.ofSlot r.s1 r.m1) (VSrc.ofSlot r.s2 r.m2) (r.aux.extractLsb' 0 3)) r
  | 0x36, 0 =>
    let r := RawR.unpack w
    rowR hd { d0 := .v, s1 := .v } false auxSeg (.vsum h (VReg.ofSlot r.d0) (VSrc.ofSlot r.s1 r.m1) (r.aux.extractLsb' 0 3)) r
  | 0x37, 0 =>
    let r := RawR.unpack w
    rowR hd { d0 := .v, s1 := .v } false auxVcvt (.vcvt h (VReg.ofSlot r.d0) (VSrc.ofSlot r.s1 r.m1) (Tag.ofBits (r.aux.extractLsb' 0 4)) (r.aux.extractLsb' 4 8) (r.aux.getLsbD 12)) r
  | 0x38, 0 =>
    let r := RawR.unpack w
    rowR hd { d0 := .v, s1 := .v } false auxTag (.vtag h (VReg.ofSlot r.d0) (VSrc.ofSlot r.s1 r.m1) (Tag.ofBits (r.aux.extractLsb' 0 4))) r
  | 0x39, 0 =>
    let r := RawR.unpack w
    rowR hd { d0 := .s, s1 := .v } false auxNone (.vgtag h (SReg.ofSlot r.d0) (VSrc.ofSlot r.s1 r.m1)) r
  | 0x3A, 0 =>
    let r := RawR.unpack w
    rowR hd { d0 := .v, s1 := .sc } false auxTag (.vsplat h (VReg.ofSlot r.d0) (SCon.ofSlot r.s1) (Tag.ofBits (r.aux.extractLsb' 0 4))) r
  | 0x3B, 0 =>
    let r := RawR.unpack w
    rowR hd { d0 := .s, s1 := .v, s2 := .sc } false auxNone (.vext h (SReg.ofSlot r.d0) (VSrc.ofSlot r.s1 r.m1) (SCon.ofSlot r.s2)) r
  | 0x3C, 0 =>
    let r := RawR.unpack w
    rowR hd { d0 := .v, s1 := .v, s2 := .sc, s3 := .sc } false auxNone (.vins h (VReg.ofSlot r.d0) (VSrc.ofSlot r.s1 r.m1) (SCon.ofSlot r.s2) (SCon.ofSlot r.s3)) r
  | 0x3D, 0 =>
    let r := RawR.unpack w
    rowR hd { d0 := .v, s1 := .v, s2 := .v } false auxNone (.vperm h (VReg.ofSlot r.d0) (VSrc.ofSlot r.s1 r.m1) (VSrc.ofSlot r.s2 r.m2)) r
  | 0x3E, 0 =>
    let r := RawR.unpack w
    rowR hd { d0 := .v, s1 := .v, s2 := .v } false auxTag (.vpack h (VReg.ofSlot r.d0) (VSrc.ofSlot r.s1 r.m1) (VSrc.ofSlot r.s2 r.m2) (Tag.ofBits (r.aux.extractLsb' 0 4))) r
  | 0x3F, 0 =>
    let r := RawR.unpack w
    rowR hd { d0 := .v, s1 := .v } false auxTag (.vunpkLo h (VReg.ofSlot r.d0) (VSrc.ofSlot r.s1 r.m1) (Tag.ofBits (r.aux.extractLsb' 0 4))) r
  | 0x3F, 1 =>
    let r := RawR.unpack w
    rowR hd { d0 := .v, s1 := .v } false auxTag (.vunpkHi h (VReg.ofSlot r.d0) (VSrc.ofSlot r.s1 r.m1) (Tag.ofBits (r.aux.extractLsb' 0 4))) r
  | 0x40, 0 =>
    let r := RawR.unpack w
    rowR hd { d0 := .v, s1 := .v } false auxNone (.vsfnExp2 h (VReg.ofSlot r.d0) (VSrc.ofSlot r.s1 r.m1)) r
  | 0x40, 1 =>
    let r := RawR.unpack w
    rowR hd { d0 := .v, s1 := .v } false auxNone (.vsfnLog2 h (VReg.ofSlot r.d0) (VSrc.ofSlot r.s1 r.m1)) r
  | 0x40, 2 =>
    let r := RawR.unpack w
    rowR hd { d0 := .v, s1 := .v } false auxNone (.vsfnRcp h (VReg.ofSlot r.d0) (VSrc.ofSlot r.s1 r.m1)) r
  | 0x40, 3 =>
    let r := RawR.unpack w
    rowR hd { d0 := .v, s1 := .v } false auxNone (.vsfnRsqrt h (VReg.ofSlot r.d0) (VSrc.ofSlot r.s1 r.m1)) r
  | 0x40, 4 =>
    let r := RawR.unpack w
    rowR hd { d0 := .v, s1 := .v } false auxNone (.vsfnTanh h (VReg.ofSlot r.d0) (VSrc.ofSlot r.s1 r.m1)) r
  | 0x40, 5 =>
    let r := RawR.unpack w
    rowR hd { d0 := .v, s1 := .v } false auxNone (.vsfnSigm h (VReg.ofSlot r.d0) (VSrc.ofSlot r.s1 r.m1)) r
  | 0x40, 6 =>
    let r := RawR.unpack w
    rowR hd { d0 := .v, s1 := .v } false auxNone (.vsfnSilu h (VReg.ofSlot r.d0) (VSrc.ofSlot r.s1 r.m1)) r
  | 0x40, 7 =>
    let r := RawR.unpack w
    rowR hd { d0 := .v, s1 := .v } false auxNone (.vsfnErf h (VReg.ofSlot r.d0) (VSrc.ofSlot r.s1 r.m1)) r
  | _, _ => .ok (.unassignedOp w)

/-- The matrix rows of the opcode map, OP 0x50 up to 0x5F. A ring in the memory form of `gemv` fails at RING (R80; DESIGN CHOICE,
log 15). -/
def decodeMatrix (hd : Bool) (op fn : Nat) (h : Header) (w : BitVec 128) : Except Nat Instr :=
  match op, fn with
  | 0x50, 0 =>
    let r := RawR.unpack w
    rowR hd { d0 := .m } false auxNone (.mzero h (MReg.ofSlot r.d0)) r
  | 0x51, 0 =>
    let r := RawE.unpack w
    rowE hd { d0 := .m, s1 := .s, s2 := .s } { ring := true, gate := true, shape := true } auxNone none (.mma h (MReg.ofSlot r.d0) (SReg.ofSlot r.s1) (SReg.ofSlot r.s2) r.ring r.gate r.shape) r
  | 0x52, 0 =>
    let r := RawE.unpack w
    rowE hd { d0 := .m, s1 := .s } {  } auxNone none (.mload h (MReg.ofSlot r.d0) (SReg.ofSlot r.s1)) r
  | 0x53, 0 =>
    let r := RawE.unpack w
    rowE hd { s1 := .s, s2 := .m } {  } auxNone none (.mstore h (SReg.ofSlot r.s1) (MReg.ofSlot r.s2)) r
  | 0x54, 0 =>
    let r := RawE.unpack w
    rowE hd { s1 := .m, s2 := .s } { ring := true } auxNone none (.mcvt h (MReg.ofSlot r.s1) (SReg.ofSlot r.s2) r.ring) r
  | 0x55, 0 =>
    let r := RawR.unpack w
    rowR hd { d0 := .v, s1 := .m, s2 := .sc } false auxNone (.mmvGet h (VReg.ofSlot r.d0) (MReg.ofSlot r.s1) (SCon.ofSlot r.s2)) r
  | 0x55, 1 =>
    let r := RawR.unpack w
    rowR hd { d0 := .m, s1 := .v, s2 := .sc } false auxNone (.mmvPut h (MReg.ofSlot r.d0) (VSrc.ofSlot r.s1 r.m1) (SCon.ofSlot r.s2)) r
  | 0x56, 0 =>
    let r := RawR.unpack w
    rowR hd { s1 := .m } false auxNone (.mwait h (MReg.ofSlot r.s1)) r
  | 0x57, 0 =>
    let r := RawE.unpack w
    rowE hd { s1 := .s, s2 := .sc, s3 := if r.aux.getLsbD 1 then .s else .none } { tid := true, ring := !r.aux.getLsbD 1 } (auxLow 2) none (.gemv h (SReg.ofSlot r.s1) (SCon.ofSlot r.s2) (SReg.ofSlot r.s3) r.tid r.ring (r.aux.getLsbD 0) (r.aux.getLsbD 1)) r
  | 0x58, 0 =>
    let r := RawE.unpack w
    rowE hd { s1 := .s } {  } auxNone none (.mspill h (SReg.ofSlot r.s1)) r
  | 0x59, 0 =>
    let r := RawE.unpack w
    rowE hd { s1 := .s } {  } auxNone none (.mrest h (SReg.ofSlot r.s1)) r
  | _, _ => .ok (.unassignedOp w)

/-- The memory rows of the opcode map, OP 0x60 up to 0x6F. -/
def decodeMemory (hd : Bool) (op fn : Nat) (h : Header) (w : BitVec 128) : Except Nat Instr :=
  match op, fn with
  | 0x60, 0 =>
    let r := RawM.unpack w
    rowM hd { d0 := .s } { addr := true, sz := .int, aop := false, ord := .none, scope := false } auxNone (.ld h (SReg.ofSlot r.d0) r.addr (Size.ofBits (r.sz.extractLsb' 0 2))) r
  | 0x60, 1 =>
    let r := RawM.unpack w
    rowM hd { d0 := .s } { addr := true, sz := .int, aop := false, ord := .none, scope := false } auxNone (.ldSx h (SReg.ofSlot r.d0) r.addr (Size.ofBits (r.sz.extractLsb' 0 2))) r
  | 0x61, 0 =>
    let r := RawM.unpack w
    rowM hd { d0 := .s } { addr := true, sz := .int, aop := false, ord := .none, scope := false } auxNone (.st h (SReg.ofSlot r.d0) r.addr (Size.ofBits (r.sz.extractLsb' 0 2))) r
  | 0x62, 0 =>
    let r := RawM.unpack w
    rowM hd { d0 := .v } { addr := true, sz := .vec, aop := false, ord := .none, scope := false } auxNone (.ldv h (VReg.ofSlot r.d0) r.addr (Tag.ofBits (r.sz.extractLsb' 0 4))) r
  | 0x63, 0 =>
    let r := RawM.unpack w
    rowM hd { d0 := .v } { addr := true, sz := .vec, aop := false, ord := .none, scope := false } auxNone (.stv h (VReg.ofSlot r.d0) r.addr (Tag.ofBits (r.sz.extractLsb' 0 4))) r
  | 0x64, 0 =>
    let r := RawM.unpack w
    rowM hd { d0 := .s } { addr := true, sz := .int, aop := false, ord := .none, scope := false } auxNone (.ldc h (SReg.ofSlot r.d0) r.addr (Size.ofBits (r.sz.extractLsb' 0 2))) r
  | 0x64, 1 =>
    let r := RawM.unpack w
    rowM hd { d0 := .s } { addr := true, sz := .int, aop := false, ord := .none, scope := false } auxNone (.ldcSx h (SReg.ofSlot r.d0) r.addr (Size.ofBits (r.sz.extractLsb' 0 2))) r
  | 0x65, 0 =>
    let r := RawE.unpack w
    rowE hd { d0 := .v, s1 := .sc, s2 := .sc } { tid := true } auxTag none (.ldt h (VReg.ofSlot r.d0) (SCon.ofSlot r.s1) (SCon.ofSlot r.s2) r.tid (Tag.ofBits (r.aux.extractLsb' 0 4))) r
  | 0x66, 0 =>
    let r := RawE.unpack w
    rowE hd { s1 := .sc, s2 := .sc, s3 := .v } { tid := true } auxNone none (.stt h (SCon.ofSlot r.s1) (SCon.ofSlot r.s2) (VReg.ofSlot r.s3) r.tid) r
  | 0x67, 0 =>
    let r := RawM.unpack w
    rowM hd {  } { addr := true, sz := .none, aop := false, ord := .none, scope := false } auxNone (.pref h r.addr) r
  | 0x68, 0 =>
    let r := RawM.unpack w
    rowM hd {  } { addr := true, sz := .lines, aop := false, ord := .none, scope := false } auxNone (.prefi h r.addr r.sz) r
  | _, _ => .ok (.unassignedOp w)

/-- The ring rows of the opcode map, OP 0x70 up to 0x8F. -/
def decodeRing (hd : Bool) (op fn : Nat) (h : Header) (w : BitVec 128) : Except Nat Instr :=
  match op, fn with
  | 0x70, 0 =>
    let r := RawE.unpack w
    rowE hd { s1 := .s, s2 := .sc, s3 := .sc } { ring := true } auxNone none (.rdef h (SReg.ofSlot r.s1) (SCon.ofSlot r.s2) (SCon.ofSlot r.s3) r.ring) r
  | 0x71, 0 =>
    let r := RawE.unpack w
    rowE hd { d0 := .s } { ring := true } (auxLow 1) none (if r.aux.getLsbD 0 then .racqFree h (SReg.ofSlot r.d0) r.ring else .racq h (SReg.ofSlot r.d0) r.ring) r
  | 0x72, 0 =>
    let r := RawE.unpack w
    rowE hd { s1 := .s } { ring := true } auxNone none (.rrel h (SReg.ofSlot r.s1) r.ring) r
  | 0x73, 0 =>
    let r := RawE.unpack w
    rowE hd {  } { ring := true } auxNone none (.rres h r.ring) r
  | 0x74, 0 =>
    let r := RawE.unpack w
    rowE hd { s1 := .s } { ring := true } auxNone none (.rpub h (SReg.ofSlot r.s1) r.ring) r
  | 0x78, 0 =>
    let r := RawE.unpack w
    rowE hd { s1 := .s, s2 := .s, s3 := .sc } { ring := true } auxNone none (.send h (SReg.ofSlot r.s1) (SReg.ofSlot r.s2) (SCon.ofSlot r.s3) r.ring) r
  | 0x79, 0 =>
    let r := RawE.unpack w
    rowE hd { s1 := .s } {  } auxNone none (.cpy h (SReg.ofSlot r.s1)) r
  | 0x7A, 0 =>
    let r := RawE.unpack w
    rowE hd { d0 := .s } {  } auxNone none (.seal h (SReg.ofSlot r.d0)) r
  | 0x7B, 0 =>
    let r := RawE.unpack w
    rowE hd { s1 := .sc } {  } auxNone none (.bwait h (SCon.ofSlot r.s1)) r
  | 0x7C, 0 =>
    let r := RawE.unpack w
    rowE hd { s1 := .sc, s2 := .sc } { tid := true, ring := true } auxNone none (.tsub h (SCon.ofSlot r.s1) (SCon.ofSlot r.s2) r.tid r.ring) r
  | 0x7D, 0 =>
    let r := RawE.unpack w
    rowE hd { s1 := .sc, s2 := .sc } { tid := true, ring := true } auxNone none (.tdrain h (SCon.ofSlot r.s1) (SCon.ofSlot r.s2) r.tid r.ring) r
  | 0x7E, 0 =>
    let r := RawE.unpack w
    rowE hd { d0 := .v, s1 := .v } { tid := true } (auxLow 2) (gathFault r) (.gath h (VReg.ofSlot r.d0) (VReg.ofSlot r.s1) r.tid (r.aux.extractLsb' 0 2)) r
  | 0x80, 0 =>
    let r := RawE.unpack w
    rowE hd { d0 := .k, s1 := .sc } { tid := true } auxNone none (.tfind h (KReg.ofSlot r.d0) (SCon.ofSlot r.s1) r.tid) r
  | 0x81, 0 =>
    let r := RawE.unpack w
    rowE hd { s1 := .sc, s2 := .sc } { tid := true } auxNone none (.tnear h (SCon.ofSlot r.s1) (SCon.ofSlot r.s2) r.tid) r
  | 0x82, 0 =>
    let r := RawE.unpack w
    rowE hd { s1 := .sc, s2 := .sc } { tid := true } auxNone none (.thalo h (SCon.ofSlot r.s1) (SCon.ofSlot r.s2) r.tid) r
  | 0x83, 0 =>
    let r := RawE.unpack w
    rowE hd {  } { tid := true } auxNone none (.tdrop h r.tid) r
  | 0x84, 0 =>
    let r := RawE.unpack w
    rowE hd {  } { tid := true } auxNone none (.tflush h r.tid) r
  | 0x88, 0 =>
    let r := RawE.unpack w
    rowE hd { s1 := .sc, s2 := .s } {  } auxNone none (.tdef h (SCon.ofSlot r.s1) (SReg.ofSlot r.s2)) r
  | 0x89, 0 =>
    let r := RawE.unpack w
    rowE hd { s1 := .sc, s2 := .s } {  } auxNone none (.tget h (SCon.ofSlot r.s1) (SReg.ofSlot r.s2)) r
  | 0x8A, 0 =>
    let r := RawE.unpack w
    rowE hd { s1 := .sc } {  } auxNone none (.tkill h (SCon.ofSlot r.s1)) r
  | _, _ => .ok (.unassignedOp w)

/-- The atomic rows of the opcode map, OP 0x90 up to 0x9F. -/
def decodeAtomic (hd : Bool) (op fn : Nat) (h : Header) (w : BitVec 128) : Except Nat Instr :=
  match op, fn with
  | 0x90, 0 =>
    let r := RawM.unpack w
    rowM hd { d0 := .s, s3 := .sc } { addr := true, sz := .word, aop := true, ord := .any, scope := true } auxNone (.amo h (SReg.ofSlot r.d0) r.addr (Size.ofBits (r.sz.extractLsb' 0 2)) (SCon.ofSlot r.s3) (AOp.ofBits r.aop) (Ord.ofBits (r.ord.extractLsb' 0 2)) (Scope.ofBits r.scope)) r
  | 0x91, 0 =>
    let r := RawM.unpack w
    rowM hd { s3 := .sc } { addr := true, sz := .word, aop := true, ord := .red, scope := true } auxNone (.red h r.addr (Size.ofBits (r.sz.extractLsb' 0 2)) (SCon.ofSlot r.s3) (AOp.ofBits r.aop) (Ord.ofBits (r.ord.extractLsb' 0 2)) (Scope.ofBits r.scope)) r
  | 0x92, 0 =>
    let r := RawM.unpack w
    rowM hd { d0 := .s, s3 := .sc } { addr := true, sz := .word, aop := false, ord := .any, scope := true } auxNone (.cas h (SReg.ofSlot r.d0) r.addr (Size.ofBits (r.sz.extractLsb' 0 2)) (SCon.ofSlot r.s3) (Ord.ofBits (r.ord.extractLsb' 0 2)) (Scope.ofBits r.scope)) r
  | 0x93, 0 =>
    let r := RawM.unpack w
    rowM hd { d0 := .s } { addr := true, sz := .int, aop := false, ord := .none, scope := true } auxNone (.lda h (SReg.ofSlot r.d0) r.addr (Size.ofBits (r.sz.extractLsb' 0 2)) (Scope.ofBits r.scope)) r
  | 0x94, 0 =>
    let r := RawM.unpack w
    rowM hd { d0 := .s } { addr := true, sz := .int, aop := false, ord := .none, scope := true } auxNone (.stl h (SReg.ofSlot r.d0) r.addr (Size.ofBits (r.sz.extractLsb' 0 2)) (Scope.ofBits r.scope)) r
  | 0x95, 0 =>
    let r := RawM.unpack w
    rowM hd {  } { addr := false, sz := .none, aop := false, ord := .none, scope := true } auxNone (.fence h (Scope.ofBits r.scope)) r
  | 0x96, 0 =>
    let r := RawM.unpack w
    rowM hd {  } { addr := false, sz := .none, aop := false, ord := .none, scope := true } auxPaths (.xfence h (Scope.ofBits r.scope) (r.aux.extractLsb' 0 7)) r
  | 0x97, 0 =>
    let r := RawR.unpack w
    rowR hd { s1 := .s, s2 := .s } false auxNone (.tilset h (SReg.ofSlot r.s1) (SReg.ofSlot r.s2)) r
  | 0x98, 0 =>
    let r := RawR.unpack w
    rowR hd { d0 := .s, s1 := .s } false auxNone (.tilget h (SReg.ofSlot r.d0) (SReg.ofSlot r.s1)) r
  | 0x99, 0 =>
    let r := RawR.unpack w
    rowR hd { s1 := .s } false auxNone (.tilarm h (SReg.ofSlot r.s1)) r
  | _, _ => .ok (.unassignedOp w)

/-- The exec rows of the opcode map, OP 0xA0 up to 0xAF. -/
def decodeExec (hd : Bool) (op fn : Nat) (h : Header) (w : BitVec 128) : Except Nat Instr :=
  match op, fn with
  | 0xA0, 0 =>
    let r := RawR.unpack w
    rowR hd { d0 := .s, s1 := .s, s2 := .sc, s3 := .sc } false auxNone (.start h (SReg.ofSlot r.d0) (SReg.ofSlot r.s1) (SCon.ofSlot r.s2) (SCon.ofSlot r.s3)) r
  | 0xA0, 1 =>
    let r := RawR.unpack w
    rowR hd { d0 := .s, d1 := .k, s1 := .s, s2 := .sc, s3 := .sc } true auxNone (.startTry h (SReg.ofSlot r.d0) (KReg.ofSlot r.d1) (SReg.ofSlot r.s1) (SCon.ofSlot r.s2) (SCon.ofSlot r.s3)) r
  | 0xA1, 0 =>
    let r := RawR.unpack w
    rowR hd { s1 := .s, s2 := .s, s3 := .sPair } false auxNone (.amsg h (SReg.ofSlot r.s1) (SReg.ofSlot r.s2) (SReg.ofSlot r.s3)) r
  | 0xA1, 1 =>
    let r := RawR.unpack w
    rowR hd { d0 := .k, s1 := .s, s2 := .s, s3 := .sPair } false auxNone (.amsgTry h (KReg.ofSlot r.d0) (SReg.ofSlot r.s1) (SReg.ofSlot r.s2) (SReg.ofSlot r.s3)) r
  | 0xA2, 0 =>
    let r := RawR.unpack w
    rowR hd {  } false auxNone (.exit h) r
  | 0xA3, 0 =>
    let r := RawR.unpack w
    rowR hd {  } false auxNone (.yield h) r
  | 0xA4, 0 =>
    let r := RawR.unpack w
    rowR hd { d0 := .s, s1 := .sc } false auxNone (.wait h (SReg.ofSlot r.d0) (SCon.ofSlot r.s1)) r
  | 0xA5, 0 =>
    let r := RawR.unpack w
    rowR hd { s1 := .s, s2 := .sc } false auxNone (.sig h (SReg.ofSlot r.s1) (SCon.ofSlot r.s2)) r
  | 0xA6, 0 =>
    let r := RawR.unpack w
    rowR hd {  } false auxNone (.bar h) r
  | 0xA6, 1 =>
    let r := RawR.unpack w
    rowR hd {  } false auxNone (.barX h) r
  | 0xA7, 0 =>
    let r := RawR.unpack w
    rowR hd {  } false auxNone (.arrive h) r
  | 0xA9, 0 =>
    let r := RawR.unpack w
    rowR hd { s1 := .v, s2 := .sc } false auxNone (.xsend h (VSrc.ofSlot r.s1 r.m1) (SCon.ofSlot r.s2)) r
  | 0xAA, 0 =>
    let r := RawR.unpack w
    rowR hd { d0 := .v, s1 := .sc } false auxNone (.xsel h (VReg.ofSlot r.d0) (SCon.ofSlot r.s1)) r
  | 0xAB, 0 =>
    let r := RawR.unpack w
    rowR hd { s1 := .s } false auxNone (.dom h (SReg.ofSlot r.s1)) r
  | _, _ => .ok (.unassignedOp w)

/-- The task rows of the opcode map, OP 0xB0 up to 0xBF. -/
def decodeTask (hd : Bool) (op fn : Nat) (h : Header) (w : BitVec 128) : Except Nat Instr :=
  match op, fn with
  | 0xB0, 0 =>
    let r := RawR.unpack w
    rowR hd { s1 := .s, s2 := .s } false auxNone (.park h (SReg.ofSlot r.s1) (SReg.ofSlot r.s2)) r
  | 0xB0, 1 =>
    let r := RawR.unpack w
    rowR hd { d0 := .k, s1 := .s, s2 := .s } false auxNone (.parkTry h (KReg.ofSlot r.d0) (SReg.ofSlot r.s1) (SReg.ofSlot r.s2)) r
  | 0xB1, 0 =>
    let r := RawR.unpack w
    rowR hd { s1 := .sc, s2 := .s } false auxNone (.enq h (SCon.ofSlot r.s1) (SReg.ofSlot r.s2)) r
  | 0xB1, 1 =>
    let r := RawR.unpack w
    rowR hd { d0 := .k, s1 := .sc, s2 := .s } false auxNone (.enqTry h (KReg.ofSlot r.d0) (SCon.ofSlot r.s1) (SReg.ofSlot r.s2)) r
  | 0xB2, 0 =>
    let r := RawR.unpack w
    rowR hd { d0 := .s, s1 := .sc, s2 := .s } false auxNone (.jinit h (SReg.ofSlot r.d0) (SCon.ofSlot r.s1) (SReg.ofSlot r.s2)) r
  | 0xB2, 1 =>
    let r := RawR.unpack w
    rowR hd { d0 := .s, d1 := .k, s1 := .sc, s2 := .s } true auxNone (.jinitTry h (SReg.ofSlot r.d0) (KReg.ofSlot r.d1) (SCon.ofSlot r.s1) (SReg.ofSlot r.s2)) r
  | 0xB3, 0 =>
    let r := RawR.unpack w
    rowR hd { s1 := .s } false auxNone (.jdone h (SReg.ofSlot r.s1)) r
  | 0xB4, 0 =>
    let r := RawR.unpack w
    rowR hd { s1 := .sc, s2 := .s } false auxNone (.stdecl h (SCon.ofSlot r.s1) (SReg.ofSlot r.s2)) r
  | 0xB5, 0 =>
    let r := RawR.unpack w
    rowR hd { s1 := .sc, s2 := .s, s3 := .s } false auxChunk (.dist h (SCon.ofSlot r.s1) (SReg.ofSlot r.s2) (SReg.ofSlot r.s3) (r.aux.extractLsb' 0 20)) r
  | 0xB6, 0 =>
    let r := RawR.unpack w
    rowR hd {} false (auxLow 17) (if r.aux.getLsbD 16 then .scallSc h (r.aux.extractLsb' 0 12) (r.aux.extractLsb' 12 4) else .scall h (r.aux.extractLsb' 0 12) (r.aux.extractLsb' 12 4)) r
  | _, _ => .ok (.unassignedOp w)

/-- The system rows of the opcode map, OP 0xC0 up to 0xFF. -/
def decodeSystem (hd : Bool) (op fn : Nat) (h : Header) (w : BitVec 128) : Except Nat Instr :=
  match op, fn with
  | 0xC0, 0 =>
    let r := RawR.unpack w
    rowR hd { d0 := .s, d1 := .s, s1 := .s } true (auxLow 8) (.fold h (SReg.ofSlot r.d0) (SReg.ofSlot r.d1) (SReg.ofSlot r.s1) (r.aux.extractLsb' 0 8)) r
  | 0xC1, 0 =>
    let r := RawR.unpack w
    rowR hd { s1 := .s } false auxNone (.callh h (SReg.ofSlot r.s1)) r
  | 0xC2, 0 =>
    let r := RawR.unpack w
    rowR hd { s1 := .s } false auxNone (.relh h (SReg.ofSlot r.s1)) r
  | 0xC3, 0 =>
    let r := RawR.unpack w
    rowR hd { d0 := .s, s1 := .s } false auxNone (.hstat h (SReg.ofSlot r.d0) (SReg.ofSlot r.s1)) r
  | 0xD0, 0 =>
    let r := RawR.unpack w
    rowR hd { d0 := .s } false auxCtlR (.mfc h (SReg.ofSlot r.d0) (CtlReg.ofBits (r.aux.extractLsb' 0 12))) r
  | 0xD1, 0 =>
    let r := RawR.unpack w
    rowR hd { s1 := .sc } false auxCtlW (mtcOf h (SCon.ofSlot r.s1) (CtlReg.ofBits (r.aux.extractLsb' 0 12))) r
  | 0xD2, 0 =>
    let r := RawR.unpack w
    rowR hd { s1 := .sc } false auxNone (.csave h (SCon.ofSlot r.s1)) r
  | 0xD3, 0 =>
    let r := RawR.unpack w
    rowR hd { s1 := .sc } false auxNone (.crest h (SCon.ofSlot r.s1)) r
  | 0xD4, 0 =>
    let r := RawR.unpack w
    rowR hd { s1 := .sc } false auxNone (.nispl h (SCon.ofSlot r.s1)) r
  | 0xD5, 0 =>
    let r := RawR.unpack w
    rowR hd { d0 := .s, d1 := .s, s1 := .sc } true auxNone (.jrnl h (SReg.ofSlot r.d0) (SReg.ofSlot r.d1) (SCon.ofSlot r.s1)) r
  | 0xD6, 0 =>
    let r := RawR.unpack w
    rowR hd { s1 := .s } false auxNone (.tlbi h (SReg.ofSlot r.s1)) r
  | 0xD6, 1 =>
    let r := RawR.unpack w
    rowR hd {  } false auxNone (.tlbiAll h) r
  | 0xD7, 0 =>
    let r := RawR.unpack w
    rowR hd { d0 := .s } false auxNone (.time h (SReg.ofSlot r.d0)) r
  | _, _ => .ok (.unassignedOp w)

/-- The rows of the opcode map, by ranges of OP (R72 to R81). -/
def decodeRows (hd : Bool) (op fn : Nat) (h : Header) (w : BitVec 128) : Except Nat Instr :=
  if op < 0x10 then decodeControl hd op fn h w
  else if op < 0x20 then decodeScalar hd op fn h w
  else if op < 0x30 then decodeFloat hd op fn h w
  else if op < 0x50 then decodeSimd hd op fn h w
  else if op < 0x60 then decodeMatrix hd op fn h w
  else if op < 0x70 then decodeMemory hd op fn h w
  else if op < 0x90 then decodeRing hd op fn h w
  else if op < 0xA0 then decodeAtomic hd op fn h w
  else if op < 0xB0 then decodeExec hd op fn h w
  else if op < 0xC0 then decodeTask hd op fn h w
  else decodeSystem hd op fn h w

/-- What decoding depends on beside the word: whether the handler context decodes (R382), and whether the matrix
engines are off (R438), which fails OP 0x50 to 0x59 at check 2. -/
structure DecodeEnv where
  handler : Bool := false
  matrixOff : Bool := false
  deriving DecidableEq, Repr

/-- Decoding of one word with the checks of R70: the instruction, or the bit number that `ctl.einfo` reports.
A word whose OP or FN is not assigned decodes to the row UNASSIGNED_OP. -/
def decodeWord (env : DecodeEnv) (w : BitVec 128) : Except Nat Instr :=
  match headerFault (w.extractLsb' 0 32) with
  | some b => .error b
  | none =>
    let op := (w.extractLsb' 0 8).toNat
    if env.matrixOff && decide (0x50 ≤ op) && decide (op ≤ 0x59) then .ok (.unassignedOp w)
    else decodeRows env.handler op (w.extractLsb' 8 4).toNat (Header.unpack (w.extractLsb' 0 32)) w

/-- The 128-bit word of 16 bytes, lowest address first (R53). -/
def wordOfBytes (bs : List Byte) : BitVec 128 :=
  BitVec.ofNat 128 (bs.foldr (fun b acc => b.toNat + 256 * acc) 0)

/-- The 16 bytes of a word, lowest address first (R53). -/
def bytesOfWord (w : BitVec 128) : List Byte := (List.range 16).map (fun i => w.extractLsb' (8 * i) 8)

/-- Decoding of bytes: one word of 16 bytes and the rest, or the failing bit; fewer bytes hold no word. -/
def decode (env : DecodeEnv) (bs : List Byte) : Option (Except Nat Instr × List Byte) :=
  if bs.length < 16 then none else some (decodeWord env (wordOfBytes (bs.take 16)), bs.drop 16)

/-- The instruction the decoder reads from a word whose bits are `w` as spec/opcode_table.json numbers them; a word
whose OP or FN is unassigned is no instruction of a row but UNASSIGNED_OP. Bits above `nbits` are zero. -/
def decodeTableWord (nbits w : Nat) : Option Instr :=
  match decode {} (bytesOfWord (BitVec.ofNat 128 (w % 2 ^ nbits))) with
  | some (.ok i, _) => some i
  | _ => none

/-- The 128-bit word of an instruction; an event is no word. -/
def encode (i : Instr) : Option (BitVec 128) :=
  match i with
  | .nop h => some (RawR.pack { hdr := h.pack 0x00 0 })
  | .br h off => some (RawB.pack { hdr := h.pack 0x01 0, off := off })
  | .brl h off => some (RawB.pack { hdr := h.pack 0x02 0, off := off })
  | .ret h => some (RawR.pack { hdr := h.pack 0x03 0 })
  | .jt h i b pad bound => some (RawB.pack { hdr := h.pack 0x04 0, s1 := i.slot, s2 := b.slot, pad := pad, aux := bound.setWidth 22 })
  | .land h pad foldable => some (RawB.pack { hdr := h.pack 0x05 0, pad := pad, aux := (BitVec.ofBool foldable).setWidth 22 })
  | .loop h c off => some (RawB.pack { hdr := h.pack 0x06 0, s1 := c.slot, off := off })
  | .trap h imm => some (RawI.pack { hdr := h.pack 0x07 0, imm := imm })
  | .eret h => some (RawR.pack { hdr := h.pack 0x08 0 })
  | .add h d a b => some (RawR.pack { hdr := h.pack 0x10 0, d0 := d.slot, s1 := a.slot, s2 := b.slot })
  | .sub h d a b => some (RawR.pack { hdr := h.pack 0x10 1, d0 := d.slot, s1 := a.slot, s2 := b.slot })
  | .and h d a b => some (RawR.pack { hdr := h.pack 0x10 2, d0 := d.slot, s1 := a.slot, s2 := b.slot })
  | .or h d a b => some (RawR.pack { hdr := h.pack 0x10 3, d0 := d.slot, s1 := a.slot, s2 := b.slot })
  | .xor h d a b => some (RawR.pack { hdr := h.pack 0x10 4, d0 := d.slot, s1 := a.slot, s2 := b.slot })
  | .andn h d a b => some (RawR.pack { hdr := h.pack 0x10 5, d0 := d.slot, s1 := a.slot, s2 := b.slot })
  | .shl h d a b => some (RawR.pack { hdr := h.pack 0x10 6, d0 := d.slot, s1 := a.slot, s2 := b.slot })
  | .shr h d a b => some (RawR.pack { hdr := h.pack 0x10 7, d0 := d.slot, s1 := a.slot, s2 := b.slot })
  | .sra h d a b => some (RawR.pack { hdr := h.pack 0x10 8, d0 := d.slot, s1 := a.slot, s2 := b.slot })
  | .rol h d a b => some (RawR.pack { hdr := h.pack 0x10 9, d0 := d.slot, s1 := a.slot, s2 := b.slot })
  | .min h d a b => some (RawR.pack { hdr := h.pack 0x10 10, d0 := d.slot, s1 := a.slot, s2 := b.slot })
  | .max h d a b => some (RawR.pack { hdr := h.pack 0x10 11, d0 := d.slot, s1 := a.slot, s2 := b.slot })
  | .minu h d a b => some (RawR.pack { hdr := h.pack 0x10 12, d0 := d.slot, s1 := a.slot, s2 := b.slot })
  | .maxu h d a b => some (RawR.pack { hdr := h.pack 0x10 13, d0 := d.slot, s1 := a.slot, s2 := b.slot })
  | .addImm h d a imm => some (RawI.pack { hdr := h.pack 0x11 0, d0 := d.slot, s1 := a.slot, imm := imm })
  | .subImm h d a imm => some (RawI.pack { hdr := h.pack 0x11 1, d0 := d.slot, s1 := a.slot, imm := imm })
  | .andImm h d a imm => some (RawI.pack { hdr := h.pack 0x11 2, d0 := d.slot, s1 := a.slot, imm := imm })
  | .orImm h d a imm => some (RawI.pack { hdr := h.pack 0x11 3, d0 := d.slot, s1 := a.slot, imm := imm })
  | .xorImm h d a imm => some (RawI.pack { hdr := h.pack 0x11 4, d0 := d.slot, s1 := a.slot, imm := imm })
  | .andnImm h d a imm => some (RawI.pack { hdr := h.pack 0x11 5, d0 := d.slot, s1 := a.slot, imm := imm })
  | .shlImm h d a imm => some (RawI.pack { hdr := h.pack 0x11 6, d0 := d.slot, s1 := a.slot, imm := imm })
  | .shrImm h d a imm => some (RawI.pack { hdr := h.pack 0x11 7, d0 := d.slot, s1 := a.slot, imm := imm })
  | .sraImm h d a imm => some (RawI.pack { hdr := h.pack 0x11 8, d0 := d.slot, s1 := a.slot, imm := imm })
  | .rolImm h d a imm => some (RawI.pack { hdr := h.pack 0x11 9, d0 := d.slot, s1 := a.slot, imm := imm })
  | .minImm h d a imm => some (RawI.pack { hdr := h.pack 0x11 10, d0 := d.slot, s1 := a.slot, imm := imm })
  | .maxImm h d a imm => some (RawI.pack { hdr := h.pack 0x11 11, d0 := d.slot, s1 := a.slot, imm := imm })
  | .minuImm h d a imm => some (RawI.pack { hdr := h.pack 0x11 12, d0 := d.slot, s1 := a.slot, imm := imm })
  | .maxuImm h d a imm => some (RawI.pack { hdr := h.pack 0x11 13, d0 := d.slot, s1 := a.slot, imm := imm })
  | .mul h d a b => some (RawR.pack { hdr := h.pack 0x12 0, d0 := d.slot, s1 := a.slot, s2 := b.slot })
  | .mulh h d a b => some (RawR.pack { hdr := h.pack 0x12 1, d0 := d.slot, s1 := a.slot, s2 := b.slot })
  | .mulhu h d a b => some (RawR.pack { hdr := h.pack 0x12 2, d0 := d.slot, s1 := a.slot, s2 := b.slot })
  | .div h d a b => some (RawR.pack { hdr := h.pack 0x13 0, d0 := d.slot, s1 := a.slot, s2 := b.slot })
  | .divu h d a b => some (RawR.pack { hdr := h.pack 0x13 1, d0 := d.slot, s1 := a.slot, s2 := b.slot })
  | .rem h d a b => some (RawR.pack { hdr := h.pack 0x13 2, d0 := d.slot, s1 := a.slot, s2 := b.slot })
  | .remu h d a b => some (RawR.pack { hdr := h.pack 0x13 3, d0 := d.slot, s1 := a.slot, s2 := b.slot })
  | .clz h d a => some (RawR.pack { hdr := h.pack 0x14 0, d0 := d.slot, s1 := a.slot })
  | .ctz h d a => some (RawR.pack { hdr := h.pack 0x14 1, d0 := d.slot, s1 := a.slot })
  | .popc h d a => some (RawR.pack { hdr := h.pack 0x14 2, d0 := d.slot, s1 := a.slot })
  | .sext h d a w => some (RawR.pack { hdr := h.pack 0x14 3, d0 := d.slot, s1 := a.slot, s2 := w.slot })
  | .zext h d a w => some (RawR.pack { hdr := h.pack 0x14 4, d0 := d.slot, s1 := a.slot, s2 := w.slot })
  | .bext h d a p len => some (RawR.pack { hdr := h.pack 0x14 5, d0 := d.slot, s1 := a.slot, s2 := p.slot, aux := len.setWidth 27 })
  | .bins h d a f p len => some (RawR.pack { hdr := h.pack 0x14 6, d0 := d.slot, s1 := a.slot, s2 := f.slot, s3 := p.slot, aux := len.setWidth 27 })
  | .cmpEq h kt kf a b => some (RawR.pack { hdr := h.pack 0x15 0, d0 := kt.slot, d1 := kf.slot, s1 := a.slot, s2 := b.slot })
  | .cmpNe h kt kf a b => some (RawR.pack { hdr := h.pack 0x15 1, d0 := kt.slot, d1 := kf.slot, s1 := a.slot, s2 := b.slot })
  | .cmpLt h kt kf a b => some (RawR.pack { hdr := h.pack 0x15 2, d0 := kt.slot, d1 := kf.slot, s1 := a.slot, s2 := b.slot })
  | .cmpGe h kt kf a b => some (RawR.pack { hdr := h.pack 0x15 3, d0 := kt.slot, d1 := kf.slot, s1 := a.slot, s2 := b.slot })
  | .cmpLtu h kt kf a b => some (RawR.pack { hdr := h.pack 0x15 4, d0 := kt.slot, d1 := kf.slot, s1 := a.slot, s2 := b.slot })
  | .cmpGeu h kt kf a b => some (RawR.pack { hdr := h.pack 0x15 5, d0 := kt.slot, d1 := kf.slot, s1 := a.slot, s2 := b.slot })
  | .cmpEqImm h kt kf a imm => some (RawI.pack { hdr := h.pack 0x16 0, d0 := kt.slot, s1 := a.slot, s2 := kf.slot, imm := imm })
  | .cmpNeImm h kt kf a imm => some (RawI.pack { hdr := h.pack 0x16 1, d0 := kt.slot, s1 := a.slot, s2 := kf.slot, imm := imm })
  | .cmpLtImm h kt kf a imm => some (RawI.pack { hdr := h.pack 0x16 2, d0 := kt.slot, s1 := a.slot, s2 := kf.slot, imm := imm })
  | .cmpGeImm h kt kf a imm => some (RawI.pack { hdr := h.pack 0x16 3, d0 := kt.slot, s1 := a.slot, s2 := kf.slot, imm := imm })
  | .cmpLtuImm h kt kf a imm => some (RawI.pack { hdr := h.pack 0x16 4, d0 := kt.slot, s1 := a.slot, s2 := kf.slot, imm := imm })
  | .cmpGeuImm h kt kf a imm => some (RawI.pack { hdr := h.pack 0x16 5, d0 := kt.slot, s1 := a.slot, s2 := kf.slot, imm := imm })
  | .sel h d k a b => some (RawR.pack { hdr := h.pack 0x17 0, d0 := d.slot, s1 := k.slot, s2 := a.slot, s3 := b.slot })
  | .plogAnd h d a b => some (RawR.pack { hdr := h.pack 0x1D 0, d0 := d.slot, s1 := a.slot, s2 := b.slot })
  | .plogOr h d a b => some (RawR.pack { hdr := h.pack 0x1D 1, d0 := d.slot, s1 := a.slot, s2 := b.slot })
  | .plogXor h d a b => some (RawR.pack { hdr := h.pack 0x1D 2, d0 := d.slot, s1 := a.slot, s2 := b.slot })
  | .plogAndn h d a b => some (RawR.pack { hdr := h.pack 0x1D 3, d0 := d.slot, s1 := a.slot, s2 := b.slot })
  | .movi h d imm => some (RawI.pack { hdr := h.pack 0x18 0, d0 := d.slot, imm := imm })
  | .mov h ops => some (RawR.pack { hdr := h.pack 0x19 0, d0 := ops.d0, s1 := ops.s1, m1 := ops.m1 })
  | .lea h d ea => some (RawM.pack { hdr := h.pack 0x1A 0, d0 := d.slot, base := ea.base.slot, idx := ea.idx.slot, scl := ea.scl, disp := ea.disp })
  | .gaddr h d e o => some (RawR.pack { hdr := h.pack 0x1B 0, d0 := d.slot, s1 := e.slot, s2 := o.slot })
  | .dtset h e x => some (RawR.pack { hdr := h.pack 0x1C 0, s1 := e.slot, s2 := x.slot })
  | .fadd h r a b d => some (RawR.pack { hdr := h.pack 0x20 0, d0 := r.slot, s1 := a.slot, s2 := b.slot, aux := (BitVec.ofBool d).setWidth 27 })
  | .fsub h r a b d => some (RawR.pack { hdr := h.pack 0x20 1, d0 := r.slot, s1 := a.slot, s2 := b.slot, aux := (BitVec.ofBool d).setWidth 27 })
  | .fmul h r a b d => some (RawR.pack { hdr := h.pack 0x20 2, d0 := r.slot, s1 := a.slot, s2 := b.slot, aux := (BitVec.ofBool d).setWidth 27 })
  | .fdiv h r a b d => some (RawR.pack { hdr := h.pack 0x20 3, d0 := r.slot, s1 := a.slot, s2 := b.slot, aux := (BitVec.ofBool d).setWidth 27 })
  | .fmin h r a b d => some (RawR.pack { hdr := h.pack 0x20 4, d0 := r.slot, s1 := a.slot, s2 := b.slot, aux := (BitVec.ofBool d).setWidth 27 })
  | .fmax h r a b d => some (RawR.pack { hdr := h.pack 0x20 5, d0 := r.slot, s1 := a.slot, s2 := b.slot, aux := (BitVec.ofBool d).setWidth 27 })
  | .fsqrt h r a d => some (RawR.pack { hdr := h.pack 0x20 6, d0 := r.slot, s1 := a.slot, aux := (BitVec.ofBool d).setWidth 27 })
  | .fma h r a b c d => some (RawR.pack { hdr := h.pack 0x21 0, d0 := r.slot, s1 := a.slot, s2 := b.slot, s3 := c.slot, aux := (BitVec.ofBool d).setWidth 27 })
  | .fms h r a b c d => some (RawR.pack { hdr := h.pack 0x21 1, d0 := r.slot, s1 := a.slot, s2 := b.slot, s3 := c.slot, aux := (BitVec.ofBool d).setWidth 27 })
  | .fnma h r a b c d => some (RawR.pack { hdr := h.pack 0x21 2, d0 := r.slot, s1 := a.slot, s2 := b.slot, s3 := c.slot, aux := (BitVec.ofBool d).setWidth 27 })
  | .fcmpEq h kt kf a b d => some (RawR.pack { hdr := h.pack 0x22 0, d0 := kt.slot, d1 := kf.slot, s1 := a.slot, s2 := b.slot, aux := (BitVec.ofBool d).setWidth 27 })
  | .fcmpNe h kt kf a b d => some (RawR.pack { hdr := h.pack 0x22 1, d0 := kt.slot, d1 := kf.slot, s1 := a.slot, s2 := b.slot, aux := (BitVec.ofBool d).setWidth 27 })
  | .fcmpLt h kt kf a b d => some (RawR.pack { hdr := h.pack 0x22 2, d0 := kt.slot, d1 := kf.slot, s1 := a.slot, s2 := b.slot, aux := (BitVec.ofBool d).setWidth 27 })
  | .fcmpGe h kt kf a b d => some (RawR.pack { hdr := h.pack 0x22 3, d0 := kt.slot, d1 := kf.slot, s1 := a.slot, s2 := b.slot, aux := (BitVec.ofBool d).setWidth 27 })
  | .fcmpUn h kt kf a b d => some (RawR.pack { hdr := h.pack 0x22 4, d0 := kt.slot, d1 := kf.slot, s1 := a.slot, s2 := b.slot, aux := (BitVec.ofBool d).setWidth 27 })
  | .fcvt h r a src dst rnd => some (RawR.pack { hdr := h.pack 0x23 0, d0 := r.slot, s1 := a.slot, aux := ((rnd.bits ++ dst.bits ++ src.bits : BitVec 8)).setWidth 27 })
  | .fclass h r a d => some (RawR.pack { hdr := h.pack 0x24 0, d0 := r.slot, s1 := a.slot, aux := (BitVec.ofBool d).setWidth 27 })
  | .vadd h d a b => some (RawR.pack { hdr := h.pack 0x30 0, d0 := d.slot, s1 := a.slot, s2 := b.slot, m1 := a.mod, m2 := b.mod })
  | .vsub h d a b => some (RawR.pack { hdr := h.pack 0x30 1, d0 := d.slot, s1 := a.slot, s2 := b.slot, m1 := a.mod, m2 := b.mod })
  | .vmul h d a b => some (RawR.pack { hdr := h.pack 0x30 2, d0 := d.slot, s1 := a.slot, s2 := b.slot, m1 := a.mod, m2 := b.mod })
  | .vmin h d a b => some (RawR.pack { hdr := h.pack 0x30 3, d0 := d.slot, s1 := a.slot, s2 := b.slot, m1 := a.mod, m2 := b.mod })
  | .vmax h d a b => some (RawR.pack { hdr := h.pack 0x30 4, d0 := d.slot, s1 := a.slot, s2 := b.slot, m1 := a.mod, m2 := b.mod })
  | .vand h d a b => some (RawR.pack { hdr := h.pack 0x30 5, d0 := d.slot, s1 := a.slot, s2 := b.slot, m1 := a.mod, m2 := b.mod })
  | .vor h d a b => some (RawR.pack { hdr := h.pack 0x30 6, d0 := d.slot, s1 := a.slot, s2 := b.slot, m1 := a.mod, m2 := b.mod })
  | .vxor h d a b => some (RawR.pack { hdr := h.pack 0x30 7, d0 := d.slot, s1 := a.slot, s2 := b.slot, m1 := a.mod, m2 := b.mod })
  | .vandn h d a b => some (RawR.pack { hdr := h.pack 0x30 8, d0 := d.slot, s1 := a.slot, s2 := b.slot, m1 := a.mod, m2 := b.mod })
  | .vshl h d a b => some (RawR.pack { hdr := h.pack 0x30 9, d0 := d.slot, s1 := a.slot, s2 := b.slot, m1 := a.mod, m2 := b.mod })
  | .vshr h d a b => some (RawR.pack { hdr := h.pack 0x30 10, d0 := d.slot, s1 := a.slot, s2 := b.slot, m1 := a.mod, m2 := b.mod })
  | .vsra h d a b => some (RawR.pack { hdr := h.pack 0x30 11, d0 := d.slot, s1 := a.slot, s2 := b.slot, m1 := a.mod, m2 := b.mod })
  | .vfma h d a b c => some (RawR.pack { hdr := h.pack 0x31 0, d0 := d.slot, s1 := a.slot, s2 := b.slot, s3 := c.slot, m1 := a.mod, m2 := b.mod })
  | .vfms h d a b c => some (RawR.pack { hdr := h.pack 0x31 1, d0 := d.slot, s1 := a.slot, s2 := b.slot, s3 := c.slot, m1 := a.mod, m2 := b.mod })
  | .vfnma h d a b c => some (RawR.pack { hdr := h.pack 0x31 2, d0 := d.slot, s1 := a.slot, s2 := b.slot, s3 := c.slot, m1 := a.mod, m2 := b.mod })
  | .vcmpEq h d a b => some (RawR.pack { hdr := h.pack 0x32 0, d0 := d.slot, s1 := a.slot, s2 := b.slot, m1 := a.mod, m2 := b.mod })
  | .vcmpNe h d a b => some (RawR.pack { hdr := h.pack 0x32 1, d0 := d.slot, s1 := a.slot, s2 := b.slot, m1 := a.mod, m2 := b.mod })
  | .vcmpLt h d a b => some (RawR.pack { hdr := h.pack 0x32 2, d0 := d.slot, s1 := a.slot, s2 := b.slot, m1 := a.mod, m2 := b.mod })
  | .vcmpGe h d a b => some (RawR.pack { hdr := h.pack 0x32 3, d0 := d.slot, s1 := a.slot, s2 := b.slot, m1 := a.mod, m2 := b.mod })
  | .vcmpLtu h d a b => some (RawR.pack { hdr := h.pack 0x32 4, d0 := d.slot, s1 := a.slot, s2 := b.slot, m1 := a.mod, m2 := b.mod })
  | .vcmpGeu h d a b => some (RawR.pack { hdr := h.pack 0x32 5, d0 := d.slot, s1 := a.slot, s2 := b.slot, m1 := a.mod, m2 := b.mod })
  | .vcmpUn h d a b => some (RawR.pack { hdr := h.pack 0x32 6, d0 := d.slot, s1 := a.slot, s2 := b.slot, m1 := a.mod, m2 := b.mod })
  | .vsel h d k a b => some (RawR.pack { hdr := h.pack 0x33 0, d0 := d.slot, s1 := k.slot, s2 := a.slot, s3 := b.slot, m1 := k.mod, m2 := a.mod })
  | .vabs h d a => some (RawR.pack { hdr := h.pack 0x34 0, d0 := d.slot, s1 := a.slot, m1 := a.mod })
  | .vneg h d a => some (RawR.pack { hdr := h.pack 0x34 1, d0 := d.slot, s1 := a.slot, m1 := a.mod })
  | .vdot h d a b seg => some (RawR.pack { hdr := h.pack 0x35 0, d0 := d.slot, s1 := a.slot, s2 := b.slot, m1 := a.mod, m2 := b.mod, aux := seg.setWidth 27 })
  | .vsum h d a seg => some (RawR.pack { hdr := h.pack 0x36 0, d0 := d.slot, s1 := a.slot, m1 := a.mod, aux := seg.setWidth 27 })
  | .vcvt h d a t sb ctl => some (RawR.pack { hdr := h.pack 0x37 0, d0 := d.slot, s1 := a.slot, m1 := a.mod, aux := ((BitVec.ofBool ctl ++ sb ++ t.bits : BitVec 13)).setWidth 27 })
  | .vtag h d a t => some (RawR.pack { hdr := h.pack 0x38 0, d0 := d.slot, s1 := a.slot, m1 := a.mod, aux := t.bits.setWidth 27 })
  | .vgtag h d a => some (RawR.pack { hdr := h.pack 0x39 0, d0 := d.slot, s1 := a.slot, m1 := a.mod })
  | .vsplat h d a t => some (RawR.pack { hdr := h.pack 0x3A 0, d0 := d.slot, s1 := a.slot, aux := t.bits.setWidth 27 })
  | .vext h d a l => some (RawR.pack { hdr := h.pack 0x3B 0, d0 := d.slot, s1 := a.slot, s2 := l.slot, m1 := a.mod })
  | .vins h d a x l => some (RawR.pack { hdr := h.pack 0x3C 0, d0 := d.slot, s1 := a.slot, s2 := x.slot, s3 := l.slot, m1 := a.mod })
  | .vperm h d a b => some (RawR.pack { hdr := h.pack 0x3D 0, d0 := d.slot, s1 := a.slot, s2 := b.slot, m1 := a.mod, m2 := b.mod })
  | .vpack h d a b t => some (RawR.pack { hdr := h.pack 0x3E 0, d0 := d.slot, s1 := a.slot, s2 := b.slot, m1 := a.mod, m2 := b.mod, aux := t.bits.setWidth 27 })
  | .vunpkLo h d a t => some (RawR.pack { hdr := h.pack 0x3F 0, d0 := d.slot, s1 := a.slot, m1 := a.mod, aux := t.bits.setWidth 27 })
  | .vunpkHi h d a t => some (RawR.pack { hdr := h.pack 0x3F 1, d0 := d.slot, s1 := a.slot, m1 := a.mod, aux := t.bits.setWidth 27 })
  | .vsfnExp2 h d a => some (RawR.pack { hdr := h.pack 0x40 0, d0 := d.slot, s1 := a.slot, m1 := a.mod })
  | .vsfnLog2 h d a => some (RawR.pack { hdr := h.pack 0x40 1, d0 := d.slot, s1 := a.slot, m1 := a.mod })
  | .vsfnRcp h d a => some (RawR.pack { hdr := h.pack 0x40 2, d0 := d.slot, s1 := a.slot, m1 := a.mod })
  | .vsfnRsqrt h d a => some (RawR.pack { hdr := h.pack 0x40 3, d0 := d.slot, s1 := a.slot, m1 := a.mod })
  | .vsfnTanh h d a => some (RawR.pack { hdr := h.pack 0x40 4, d0 := d.slot, s1 := a.slot, m1 := a.mod })
  | .vsfnSigm h d a => some (RawR.pack { hdr := h.pack 0x40 5, d0 := d.slot, s1 := a.slot, m1 := a.mod })
  | .vsfnSilu h d a => some (RawR.pack { hdr := h.pack 0x40 6, d0 := d.slot, s1 := a.slot, m1 := a.mod })
  | .vsfnErf h d a => some (RawR.pack { hdr := h.pack 0x40 7, d0 := d.slot, s1 := a.slot, m1 := a.mod })
  | .mzero h m => some (RawR.pack { hdr := h.pack 0x50 0, d0 := m.slot })
  | .mma h m a b ring gate shape => some (RawE.pack { hdr := h.pack 0x51 0, d0 := m.slot, s1 := a.slot, s2 := b.slot, ring := ring, gate := gate, shape := shape })
  | .mload h m a => some (RawE.pack { hdr := h.pack 0x52 0, d0 := m.slot, s1 := a.slot })
  | .mstore h a m => some (RawE.pack { hdr := h.pack 0x53 0, s1 := a.slot, s2 := m.slot })
  | .mcvt h m t ring => some (RawE.pack { hdr := h.pack 0x54 0, s1 := m.slot, s2 := t.slot, ring := ring })
  | .mmvGet h d m p => some (RawR.pack { hdr := h.pack 0x55 0, d0 := d.slot, s1 := m.slot, s2 := p.slot })
  | .mmvPut h m a p => some (RawR.pack { hdr := h.pack 0x55 1, d0 := m.slot, s1 := a.slot, s2 := p.slot, m1 := a.mod })
  | .mwait h m => some (RawR.pack { hdr := h.pack 0x56 0, s1 := m.slot })
  | .gemv h a n res tid ring bf16 mem => some (RawE.pack { hdr := h.pack 0x57 0, s1 := a.slot, s2 := n.slot, s3 := res.slot, tid := tid, ring := ring, aux := ((BitVec.ofBool mem ++ BitVec.ofBool bf16 : BitVec 2)).setWidth 24 })
  | .mspill h a => some (RawE.pack { hdr := h.pack 0x58 0, s1 := a.slot })
  | .mrest h a => some (RawE.pack { hdr := h.pack 0x59 0, s1 := a.slot })
  | .ld h d ea sz => some (RawM.pack { hdr := h.pack 0x60 0, d0 := d.slot, base := ea.base.slot, idx := ea.idx.slot, scl := ea.scl, disp := ea.disp, sz := sz.bits.setWidth 5 })
  | .ldSx h d ea sz => some (RawM.pack { hdr := h.pack 0x60 1, d0 := d.slot, base := ea.base.slot, idx := ea.idx.slot, scl := ea.scl, disp := ea.disp, sz := sz.bits.setWidth 5 })
  | .st h x ea sz => some (RawM.pack { hdr := h.pack 0x61 0, d0 := x.slot, base := ea.base.slot, idx := ea.idx.slot, scl := ea.scl, disp := ea.disp, sz := sz.bits.setWidth 5 })
  | .ldv h d ea sz => some (RawM.pack { hdr := h.pack 0x62 0, d0 := d.slot, base := ea.base.slot, idx := ea.idx.slot, scl := ea.scl, disp := ea.disp, sz := (1 : BitVec 1) ++ sz.bits })
  | .stv h x ea sz => some (RawM.pack { hdr := h.pack 0x63 0, d0 := x.slot, base := ea.base.slot, idx := ea.idx.slot, scl := ea.scl, disp := ea.disp, sz := (1 : BitVec 1) ++ sz.bits })
  | .ldc h d ea sz => some (RawM.pack { hdr := h.pack 0x64 0, d0 := d.slot, base := ea.base.slot, idx := ea.idx.slot, scl := ea.scl, disp := ea.disp, sz := sz.bits.setWidth 5 })
  | .ldcSx h d ea sz => some (RawM.pack { hdr := h.pack 0x64 1, d0 := d.slot, base := ea.base.slot, idx := ea.idx.slot, scl := ea.scl, disp := ea.disp, sz := sz.bits.setWidth 5 })
  | .ldt h d n o tid t => some (RawE.pack { hdr := h.pack 0x65 0, d0 := d.slot, s1 := n.slot, s2 := o.slot, tid := tid, aux := t.bits.setWidth 24 })
  | .stt h n o x tid => some (RawE.pack { hdr := h.pack 0x66 0, s1 := n.slot, s2 := o.slot, s3 := x.slot, tid := tid })
  | .pref h ea => some (RawM.pack { hdr := h.pack 0x67 0, base := ea.base.slot, idx := ea.idx.slot, scl := ea.scl, disp := ea.disp })
  | .prefi h ea sz => some (RawM.pack { hdr := h.pack 0x68 0, base := ea.base.slot, idx := ea.idx.slot, scl := ea.scl, disp := ea.disp, sz := sz })
  | .rdef h base lg n ring => some (RawE.pack { hdr := h.pack 0x70 0, s1 := base.slot, s2 := lg.slot, s3 := n.slot, ring := ring })
  | .racq h d ring => some (RawE.pack { hdr := h.pack 0x71 0, d0 := d.slot, ring := ring, aux := 0 })
  | .racqFree h d ring => some (RawE.pack { hdr := h.pack 0x71 0, d0 := d.slot, ring := ring, aux := 1 })
  | .rrel h a ring => some (RawE.pack { hdr := h.pack 0x72 0, s1 := a.slot, ring := ring })
  | .rres h ring => some (RawE.pack { hdr := h.pack 0x73 0, ring := ring })
  | .rpub h a ring => some (RawE.pack { hdr := h.pack 0x74 0, s1 := a.slot, ring := ring })
  | .send h a c n ring => some (RawE.pack { hdr := h.pack 0x78 0, s1 := a.slot, s2 := c.slot, s3 := n.slot, ring := ring })
  | .cpy h a => some (RawE.pack { hdr := h.pack 0x79 0, s1 := a.slot })
  | .seal h d => some (RawE.pack { hdr := h.pack 0x7A 0, d0 := d.slot })
  | .bwait h n => some (RawE.pack { hdr := h.pack 0x7B 0, s1 := n.slot })
  | .tsub h f n tid ring => some (RawE.pack { hdr := h.pack 0x7C 0, s1 := f.slot, s2 := n.slot, tid := tid, ring := ring })
  | .tdrain h f n tid ring => some (RawE.pack { hdr := h.pack 0x7D 0, s1 := f.slot, s2 := n.slot, tid := tid, ring := ring })
  | .gath h d i tid cnt => some (RawE.pack { hdr := h.pack 0x7E 0, d0 := d.slot, s1 := i.slot, tid := tid, aux := cnt.setWidth 24 })
  | .tfind h k n tid => some (RawE.pack { hdr := h.pack 0x80 0, d0 := k.slot, s1 := n.slot, tid := tid })
  | .tnear h n dims tid => some (RawE.pack { hdr := h.pack 0x81 0, s1 := n.slot, s2 := dims.slot, tid := tid })
  | .thalo h n die tid => some (RawE.pack { hdr := h.pack 0x82 0, s1 := n.slot, s2 := die.slot, tid := tid })
  | .tdrop h tid => some (RawE.pack { hdr := h.pack 0x83 0, tid := tid })
  | .tflush h tid => some (RawE.pack { hdr := h.pack 0x84 0, tid := tid })
  | .tdef h t a => some (RawE.pack { hdr := h.pack 0x88 0, s1 := t.slot, s2 := a.slot })
  | .tget h t a => some (RawE.pack { hdr := h.pack 0x89 0, s1 := t.slot, s2 := a.slot })
  | .tkill h t => some (RawE.pack { hdr := h.pack 0x8A 0, s1 := t.slot })
  | .amo h d ea sz x op ord scope => some (RawM.pack { hdr := h.pack 0x90 0, d0 := d.slot, s3 := x.slot, base := ea.base.slot, idx := ea.idx.slot, scl := ea.scl, disp := ea.disp, sz := sz.bits.setWidth 5, aop := op.bits, ord := ord.bits.setWidth 3, scope := scope.bits })
  | .red h ea sz x op ord scope => some (RawM.pack { hdr := h.pack 0x91 0, s3 := x.slot, base := ea.base.slot, idx := ea.idx.slot, scl := ea.scl, disp := ea.disp, sz := sz.bits.setWidth 5, aop := op.bits, ord := ord.bits.setWidth 3, scope := scope.bits })
  | .cas h d ea sz x ord scope => some (RawM.pack { hdr := h.pack 0x92 0, d0 := d.slot, s3 := x.slot, base := ea.base.slot, idx := ea.idx.slot, scl := ea.scl, disp := ea.disp, sz := sz.bits.setWidth 5, ord := ord.bits.setWidth 3, scope := scope.bits })
  | .lda h d ea sz scope => some (RawM.pack { hdr := h.pack 0x93 0, d0 := d.slot, base := ea.base.slot, idx := ea.idx.slot, scl := ea.scl, disp := ea.disp, sz := sz.bits.setWidth 5, scope := scope.bits })
  | .stl h x ea sz scope => some (RawM.pack { hdr := h.pack 0x94 0, d0 := x.slot, base := ea.base.slot, idx := ea.idx.slot, scl := ea.scl, disp := ea.disp, sz := sz.bits.setWidth 5, scope := scope.bits })
  | .fence h scope => some (RawM.pack { hdr := h.pack 0x95 0, scope := scope.bits })
  | .xfence h scope paths => some (RawM.pack { hdr := h.pack 0x96 0, scope := scope.bits, aux := paths.setWidth 10 })
  | .tilset h t a => some (RawR.pack { hdr := h.pack 0x97 0, s1 := t.slot, s2 := a.slot })
  | .tilget h d t => some (RawR.pack { hdr := h.pack 0x98 0, d0 := d.slot, s1 := t.slot })
  | .tilarm h t => some (RawR.pack { hdr := h.pack 0x99 0, s1 := t.slot })
  | .start h d p a b => some (RawR.pack { hdr := h.pack 0xA0 0, d0 := d.slot, s1 := p.slot, s2 := a.slot, s3 := b.slot })
  | .startTry h d k p a b => some (RawR.pack { hdr := h.pack 0xA0 1, d0 := d.slot, d1 := k.slot, s1 := p.slot, s2 := a.slot, s3 := b.slot })
  | .amsg h c p sn => some (RawR.pack { hdr := h.pack 0xA1 0, s1 := c.slot, s2 := p.slot, s3 := sn.slot })
  | .amsgTry h k c p sn => some (RawR.pack { hdr := h.pack 0xA1 1, d0 := k.slot, s1 := c.slot, s2 := p.slot, s3 := sn.slot })
  | .exit h => some (RawR.pack { hdr := h.pack 0xA2 0 })
  | .yield h => some (RawR.pack { hdr := h.pack 0xA3 0 })
  | .wait h d m => some (RawR.pack { hdr := h.pack 0xA4 0, d0 := d.slot, s1 := m.slot })
  | .sig h c b => some (RawR.pack { hdr := h.pack 0xA5 0, s1 := c.slot, s2 := b.slot })
  | .bar h => some (RawR.pack { hdr := h.pack 0xA6 0 })
  | .barX h => some (RawR.pack { hdr := h.pack 0xA6 1 })
  | .arrive h => some (RawR.pack { hdr := h.pack 0xA7 0 })
  | .xsend h a ch => some (RawR.pack { hdr := h.pack 0xA9 0, s1 := a.slot, s2 := ch.slot, m1 := a.mod })
  | .xsel h d ch => some (RawR.pack { hdr := h.pack 0xAA 0, d0 := d.slot, s1 := ch.slot })
  | .dom h x => some (RawR.pack { hdr := h.pack 0xAB 0, s1 := x.slot })
  | .park h ev live => some (RawR.pack { hdr := h.pack 0xB0 0, s1 := ev.slot, s2 := live.slot })
  | .parkTry h k ev live => some (RawR.pack { hdr := h.pack 0xB0 1, d0 := k.slot, s1 := ev.slot, s2 := live.slot })
  | .enq h stg a => some (RawR.pack { hdr := h.pack 0xB1 0, s1 := stg.slot, s2 := a.slot })
  | .enqTry h k stg a => some (RawR.pack { hdr := h.pack 0xB1 1, d0 := k.slot, s1 := stg.slot, s2 := a.slot })
  | .jinit h d n a => some (RawR.pack { hdr := h.pack 0xB2 0, d0 := d.slot, s1 := n.slot, s2 := a.slot })
  | .jinitTry h d k n a => some (RawR.pack { hdr := h.pack 0xB2 1, d0 := d.slot, d1 := k.slot, s1 := n.slot, s2 := a.slot })
  | .jdone h c => some (RawR.pack { hdr := h.pack 0xB3 0, s1 := c.slot })
  | .stdecl h stg a => some (RawR.pack { hdr := h.pack 0xB4 0, s1 := stg.slot, s2 := a.slot })
  | .dist h stg first last chunk => some (RawR.pack { hdr := h.pack 0xB5 0, s1 := stg.slot, s2 := first.slot, s3 := last.slot, aux := chunk.setWidth 27 })
  | .scall h svc ring => some (RawR.pack { hdr := h.pack 0xB6 0, aux := ((BitVec.ofBool false ++ ring ++ svc : BitVec 17)).setWidth 27 })
  | .scallSc h svc ring => some (RawR.pack { hdr := h.pack 0xB6 0, aux := ((BitVec.ofBool true ++ ring ++ svc : BitVec 17)).setWidth 27 })
  | .fold h dh ds e mask => some (RawR.pack { hdr := h.pack 0xC0 0, d0 := dh.slot, d1 := ds.slot, s1 := e.slot, aux := mask.setWidth 27 })
  | .callh h x => some (RawR.pack { hdr := h.pack 0xC1 0, s1 := x.slot })
  | .relh h x => some (RawR.pack { hdr := h.pack 0xC2 0, s1 := x.slot })
  | .hstat h d x => some (RawR.pack { hdr := h.pack 0xC3 0, d0 := d.slot, s1 := x.slot })
  | .mfc h d reg => some (RawR.pack { hdr := h.pack 0xD0 0, d0 := d.slot, aux := reg.bits.setWidth 27 })
  | .mtc h x reg => some (RawR.pack { hdr := h.pack 0xD1 0, s1 := x.slot, aux := reg.bits.setWidth 27 })
  | .mtcLmcfg h x => some (RawR.pack { hdr := h.pack 0xD1 0, s1 := x.slot, aux := 0x00D })
  | .mtcMxcnt h x => some (RawR.pack { hdr := h.pack 0xD1 0, s1 := x.slot, aux := 0x00A })
  | .mtcStatus h x => some (RawR.pack { hdr := h.pack 0xD1 0, s1 := x.slot, aux := 0x000 })
  | .csave h c => some (RawR.pack { hdr := h.pack 0xD2 0, s1 := c.slot })
  | .crest h c => some (RawR.pack { hdr := h.pack 0xD3 0, s1 := c.slot })
  | .nispl h c => some (RawR.pack { hdr := h.pack 0xD4 0, s1 := c.slot })
  | .jrnl h da dd e => some (RawR.pack { hdr := h.pack 0xD5 0, d0 := da.slot, d1 := dd.slot, s1 := e.slot })
  | .tlbi h a => some (RawR.pack { hdr := h.pack 0xD6 0, s1 := a.slot })
  | .tlbiAll h => some (RawR.pack { hdr := h.pack 0xD6 1 })
  | .time h d => some (RawR.pack { hdr := h.pack 0xD7 0, d0 := d.slot })
  | .unassignedOp w => some w
  | .activeMessageArrival => none
  | .signalArrival => none
  | .watchdog => none
  | .barrierArrival => none
  | .barrierEpisodeComplete => none
  | .engineInstrComplete => none
  | .mmaPairStep => none
  | .mcvtTilePublish => none
  | .gemvResultDelivery => none
  | .sendDelivery => none
  | .copyComplete => none
  | .loaderTilePush => none
  | .storerTileWrite => none
  | .postedWritePerformed => none
  | .postedWriteRefused => none
  | .pageModeWindow => none
  | .purseWindow => none
  | .purseAdmit => none
  | .stageBalance => none
  | .recordDispatch => none
  | .parkEventComplete => none
  | .joinDecrement => none
  | .distChunkDeal => none
  | .distChunkComplete => none
  | .replyPublish => none
  | .protect => none
  | .freeze => none
  | .unfreeze => none
  | .todev => none
  | .tohost => none
  | .pageFlipComplete => none
  | .query => none
  | .unmap => none
  | .map => none
  | .quota => none
  | .assign => none
  | .setquota => none
  | .setpurse => none
  | .keyassign => none
  | .arena => none
  | .foldRequestServe => none
  | .handlerEntry => none
  | .asyncTrapTake => none
  | .preempt => none
  | .trapMessageCollect => none
  | .trapMessageMerge => none
  | .faultAnswer => none
  | .prgResponse => none
  | .translationCompletion => none
  | .invalidateRequest => none
  | .ifetchLookup => none
  | .icacheFill => none
  | .imageLoad => none
  | .patrolScrub => none
  | .bankRebuildRow => none
  | .cxlLinkDown => none
  | .cxlLinkRetrain => none
  | .retentionTimeout => none
  | .dieFence => none
  | .filidPacketArrival => none
  | .filidPacketDeliver => none
  | .launch => none
  | .kcmd => none
  | .fenceRegister => none
  | .scaleRouteWrite => none
  | .barRegisterWrite => none
  | .functionLevelReset => none
  | .hostCxlWrite => none
  | .scalePacketArrival => none
  | .getVersion => none
  | .getCapabilities => none
  | .negotiateAlgorithms => none
  | .getDigests => none
  | .getCertificate => none
  | .challenge => none
  | .getMeasurements => none
  | .serviceLevelChange => none
  | .supplySag => none
  | .clockRecover => none
  | .reset => none
  | .tileOperationComplete => none
  | .keyLoadDone => none
  | .priEnable => none
  | .softError => none

end Sys2Proof
end

