-- ==== Sys2Proof/Machine/Sparse.lean ====
section
/-! DEFINITION. Sparse maps: plain lists of key and value pairs, ascending by key. An unlisted key reads as a
default. `assign` keeps no entry equal to the default; `put` keeps every entry it is given. -/

namespace Sys2Proof.Machine

/-- A sparse map from natural numbers. -/
abbrev Sparse (α : Type) := List (Nat × α)

/-- The value at a key, or the default. -/
def sparseGet {α : Type} (d : α) : Sparse α → Nat → α
  | [], _ => d
  | (a, v) :: t, k => if a = k then v else sparseGet d t k

/-- The entry at a key, if one is listed. -/
def sparseFind {α : Type} : Sparse α → Nat → Option α
  | [], _ => none
  | (a, v) :: t, k => if a = k then some v else sparseFind t k

/-- Lists a value at a key, before the first greater key, replacing the entry there. -/
def sparsePut {α : Type} : Sparse α → Nat → α → Sparse α
  | [], k, v => [(k, v)]
  | (a, x) :: t, k, v =>
    if a = k then (k, v) :: t else if k < a then (k, v) :: (a, x) :: t else (a, x) :: sparsePut t k v

/-- Removes every entry at a key. -/
def sparseErase {α : Type} : Sparse α → Nat → Sparse α
  | [], _ => []
  | (a, x) :: t, k => if a = k then sparseErase t k else (a, x) :: sparseErase t k

/-- Sets a key: a default value removes the entry. -/
def sparseAssign {α : Type} [DecidableEq α] (d : α) (m : Sparse α) (k : Nat) (v : α) : Sparse α :=
  if v = d then sparseErase m k else sparsePut m k v

/-- Keys strictly ascending and no value equal to the default: the canonical form. -/
def sparseWf {α : Type} [DecidableEq α] (d : α) (m : Sparse α) : Bool :=
  decide (m.Pairwise (fun a b => a.1 < b.1)) && m.all (fun e => e.2 != d)

end Sys2Proof.Machine
end

