-- ==== Sys2Proof/Machine/State.lean ====
section
/-! DEFINITION. The state of the machine as plain data, the reasons a step can stop, and the state after reset. -/

namespace Sys2Proof.Machine

/-! ## Why a step can stop -/

/-- A stop with a fault. -/
inductive Fault where
  /-- An access reaches a physical frame at or beyond the 128 GB of a stack (R29): no such memory exists.
  Raised by the memory operations. Safe: the machine stops where hardware holds nothing. -/
  | noSuchFrame
  deriving DecidableEq, Repr

/-- A refusal. -/
inductive Refusal where
  /-- The instruction has no meaning yet. Raised by the dispatch arms only. Safe. -/
  | notModelled (mnemonic : String)
  deriving DecidableEq, Repr

/-- The trap causes (R390). -/
inductive Cause where
  | illegal | priv | tag | align | divzero | jtbound | land | link | watchdog | exchange
  | xlateMiss | xlatePerm | xlateHost | pageMigrating | fetch
  | race | unproven | frozenStore | ring
  | tdtRank | tdtAlign | tdtTile | tdtOverlap | tdtFormat | tidInvalid
  | quota | tenant | foldEntry | foldBind | handleStale | foldTrap
  | storeRefused | causalLoss | uncorrectable | hostlinkDown | software | preempt | message
  deriving DecidableEq, Repr

/-! ## Small pieces -/

/-- A v register: 128 bits and the format tag that travels with them (R89, R91). -/
structure VVal where
  bits : Vec := 0
  tag  : Tag := .b128
  deriving DecidableEq, Repr

/-- An entry of an acquire table: a context handle or a till, with a count (R344). -/
structure AcqEntry where
  till  : Bool := false
  who   : BitVec 28
  count : BitVec 24
  deriving DecidableEq, Repr

/-- The life of a context (R197, R383, R407). -/
inductive Run where
  | idle | live | trapped | saved
  deriving DecidableEq, Repr

/-- The kind of an access on its way to a page (R398). -/
inductive AccKind where
  | read | write | fetch | host
  deriving DecidableEq, Repr

/-- A context held for a page (R398, R428): the page is named by bits 56:12 of the address, with bits 3:0 zero for a
device page. `ats` is the 4 KiB page of the PASID address while a Translation Request is awaited. -/
structure PageWait where
  page : Nat
  kind : AccKind
  addr : Word
  /-- What the access needs: 0 read, 1 write, 2 execute. -/
  need : AccKind := .read
  ats  : Option Nat := none
  /-- The access is a fold unit's fetch: a FETCH of it writes `ctl.foldpc` (R252). -/
  fold : Bool := false
  deriving DecidableEq, Repr

/-- A byte in motion with its poison (R416). -/
abbrev PByte := Byte × Bool

/-- Progress of a held instruction between its issues (the model's own field, log 2). -/
inductive Pend where
  | none
  /-- An `amsg` packet is on its way, or waits at the full queue of the target. -/
  | sent (id : Nat)
  /-- The packet was accepted, or a try form was turned away. -/
  | accepted
  | turnedAway
  /-- An arrival was made; the barrier episode has not released the core. -/
  | arrived (inPhase : Bool)
  | released (inPhase : Bool)
  /-- A `fold` request stands in the queue; its reply: handle, status and the fold-time pc, or a trap. -/
  | folding
  | folded (handle status : Word)
  | foldTrap (cause : Cause) (einfo foldpc : Word)
  /-- An engine instruction waits for a queue entry, or a spill or restore waits for its turn. -/
  | queued (id : Nat)
  /-- A request waits at a purse: its items that MEM and that FAB have admitted (R371). -/
  | admitted (mem fab : Nat)
  /-- A request has left the core, and its reply is on its way from a die with this value; the reply has come (R403). -/
  | awaiting (value : Word) (die : Die)
  | reply (value : Word)
  /-- The checks that precede a hold have been made (R226). -/
  | checked
  /-- An `mtc` to `ctl.lmcfg` is held: deliveries that arrive wait at the network interface (R271). -/
  | splitting
  /-- The request was dropped on its way to a die that is not in service: no reply comes (R438). -/
  | dropped
  deriving DecidableEq, Repr

/-- A report owed to a context and not yet taken (R381). -/
structure Report where
  cause : Cause
  epc   : Word
  einfo : Word
  deriving DecidableEq, Repr

/-- One residual instruction (R260). Sources that were known stand as values in `setS`, `setV` and `setK`, which
are installed without counting before the kept instruction runs. -/
inductive Resid where
  | setS (r : BitVec 6) (x : Word)
  | setV (r : BitVec 5) (x : VVal)
  | setK (r : BitVec 3) (x : Bool)
  | merge (flags : BitVec 7) (amax : BitVec 33)
  | keep (pc : Word) (w : BitVec 128) (known : List (RegCode × VVal))
  | deferred (pc : Word) (w : BitVec 128) (known : List (RegCode × VVal))
  | exitPoint (pc : Word)
  | link (point : Nat)
  deriving DecidableEq, Repr

/-- A branch of a kept transfer or a kept guarded word: where residual code goes on (R255). -/
structure ResidPoint where
  code : List Resid := []
  /-- The points that follow the last kept instruction: fall-through and taken. -/
  next : Option Nat := none
  taken : Option Nat := none
  deriving DecidableEq, Repr

/-- Where a context stands in residual code (R263): the handle, the point and the index within it. -/
structure ResidPos where
  handle : Word
  point  : Nat
  index  : Nat
  deriving DecidableEq, Repr

/-- The chunk a context descends from (R238). -/
structure Lineage where
  tenant : Tenant
  stage  : BitVec 6
  range  : Nat
  chunk  : Nat
  run    : Nat := 0
  deriving DecidableEq, Repr

/-! ## A context -/

/-- The state of one context (R17, R197). -/
structure Ctx where
  run : Run := .idle
  inc : BitVec 8 := 0
  pc  : Word := 0
  s   : Sparse Word := []
  v   : Sparse VVal := []
  /-- k1 to k7 in bits 7:1; bit 0 stays zero because k0 is a constant. -/
  k   : BitVec 8 := 0
  events : BitVec 16 := 0
  /-- What each latched event bit hands over (R209). -/
  evTables : Sparse (List AcqEntry) := []
  /-- The hardware link stack, newest first (R135). -/
  link : List Word := []
  linkSpilled : BitVec 15 := 0
  linkCap  : BitVec 15 := 0
  linkBase : BitVec 17 := 0
  dt : Sparse Word := []
  flags : BitVec 7 := 0
  amax  : BitVec 33 := 0
  scale : BitVec 8 := 0
  wdogCount : BitVec 41 := 0
  wdogLimit : BitVec 6 := 24
  foldbud : Word := 0x0004000000001000
  foldst  : Word := 0
  foldpc  : Word := 0
  cause : Word := 0
  epc   : Word := 0
  einfo : Word := 0
  jrnl  : Word := 0
  mmOvf : Bool := false
  mmOff : Bool := false
  dzt   : Bool := true
  rc    : BitVec 24 := 0
  acq   : List AcqEntry := []
  /-- The open batch and the sealed batches that are unfinished (R306), counted on from 0; a batch's number is its
  count modulo 16. -/
  batch : Nat := 0
  sealed : List Nat := []
  /-- Calls made, the previous strong call, and calls awaiting replies with their strong mark (R240). -/
  callSeq : BitVec 32 := 0
  strongPrev : Option (BitVec 32) := none
  calls : List (BitVec 32 × Bool) := []
  joinVal : Word := 0
  lineage : Option Lineage := none
  /-- The last `gemv` of the context: its operation number while it is unfinished (R193, R225). -/
  gemvLast : Option Nat := none
  resid : Option ResidPos := none
  /-- The handler wrote `ctl.epc` of the trapped context since the trap (R263; the model's own). -/
  epcWritten : Bool := false
  /-- The address of the fetch line looked up last, and its 256 bytes (R424). -/
  fline : Option (Word × List PByte) := none
  pageWait : Option PageWait := none
  reports : List Report := []
  pend : Pend := .none
  /-- The earliest die cycle of the next issue (R57), and of each register as a source (R109). -/
  nextIssue : Nat := 0
  ready : Sparse Nat := []
  passOver : Bool := false
  /-- Stopped by a PREEMPT (R403); the instruction at pc is marked sent. -/
  stopped : Bool := false
  sent : Bool := false
  /-- The handle that a sent `callh` has pinned (R263), and how many messages waited for this context when the reply of its sent
  instruction came (R408; both the model's own). -/
  callPin : Option Word := none
  /-- The physical address that the reply of a sent atomic was read from (R430; the model's own). -/
  replyAt : Option Nat := none
  replyAfter : Nat := 0
  /-- Items for this saved context are forwarded to its spill area (R408). -/
  forwarding : Bool := false
  /-- Items that wait at the network interface for a saved context: signal bits (R407). -/
  heldSignals : BitVec 16 := 0
  /-- What the messages of the KIND 1 records in the spill area hand over, in their order (the model's own, log 12). -/
  spillRels : List (List AcqEntry) := []
  deriving DecidableEq, Repr

/-! ## Rings, journal and engines of a core -/

/-- Who holds a ring slot (R273). -/
inductive Holder where
  | ctx (handle : BitVec 28)
  | device (id : Nat)
  | engine (id : Nat)
  deriving DecidableEq, Repr

/-- Who waits on a ring, in the order R274 gives. -/
inductive Waiter where
  | ctx (n : CtxNum)
  | pkt (id : Nat)
  | op (id : Nat)
  | engine (id : Nat)
  deriving DecidableEq, Repr

/-- One ring slot; a filled slot carries the release of its publication (R275). -/
inductive Slot where
  | free
  | reserved (h : Holder)
  | filled (rel : List AcqEntry)
  | taken (h : Holder)
  /-- Given up by a context whose accepted work still reads it: free to every check, and claimed once those reads are made
  (R275, R304). -/
  | leaving (h : BitVec 28)
  deriving DecidableEq, Repr

/-- A ring (R23, R273, R301). -/
structure Ring where
  defined : Bool := false
  base : BitVec 17 := 0
  lg   : Nat := 6
  slots : List Slot := []
  /-- The next position a producer claims. -/
  nextPos : Nat := 0
  /-- Filled slots in publication order. -/
  filledOrder : List Nat := []
  waitFree : List Waiter := []
  waitFill : List Waiter := []
  defNum : BitVec 16 := 0
  /-- The cycle and the rank in R274 of the last producer and of the last consumer that was heard (the model's own). -/
  heardFree : Nat × Nat := (0, 0)
  heardFill : Nat × Nat := (0, 0)
  deriving DecidableEq, Repr

/-- One journal entry (R396). -/
structure JEntry where
  /-- 0 free, 1 posted, 2 refused. -/
  state : BitVec 2 := 0
  cause : BitVec 8 := 0
  reason : BitVec 3 := 0
  size : BitVec 5 := 0
  inc : BitVec 8 := 0
  ctx : CtxNum := 0
  aop : BitVec 4 := 0
  scope : BitVec 3 := 0
  ord : BitVec 2 := 0
  kind : BitVec 3 := 0
  addr : Word := 0
  d0 : Word := 0
  d1 : Word := 0
  /-- The model's own: the address of the instruction that retired, its place in program order, the tensor tag
  of an `stt`, and the release it carries. -/
  epc : Word := 0
  seq : Nat := 0
  rel : List AcqEntry := []
  /-- The issuer as a party: what it stands for once its incarnation has ended (R343, R384). -/
  rc : BitVec 24 := 0
  bar : BitVec 13 := 0
  ep : BitVec 16 := 0
  acq : List AcqEntry := []
  ovf : Bool := false
  unchecked : Bool := false
  /-- The packet that carries it to another die (R351). -/
  pkt : Option Nat := none
  /-- The physical address it was translated to and its hint; of an `stt`, the TID, the tile and the offset. -/
  phys : Nat := 0
  hint : BitVec 2 := 0
  tid : Tid := 0
  tile : Nat := 0
  off : Nat := 0
  /-- The physical addresses of the host pages of an `stt`, by their virtual numbers, as translated (R430). -/
  frames : Sparse Nat := []
  deriving DecidableEq, Repr

/-- What the handler's queue holds (R383). -/
inductive Delivery where
  | trap (c : CtxNum)
  | message (pc a1 a2 : Word) (rel : List AcqEntry)
  | preempt (reason : BitVec 2)
  deriving DecidableEq, Repr

/-- A waiting active message (R207). -/
structure QMsg where
  target : CtxNum
  pc : Word
  a1 : Word
  a2 : Word
  src : CoreId
  rel : List AcqEntry
  deriving DecidableEq, Repr

/-- A word on its way over the piste: channel, value, driving cluster column and row, and drive cycle (R28). -/
structure PisteWord where
  ch : Nat
  val : VVal
  x : Nat
  y : Nat
  cycle : Nat
  deriving DecidableEq, Repr

/-- The fields of a descriptor record an engine captures (R172, R189). -/
structure DescCap where
  tag : Tag := .b128
  sb  : BitVec 8 := 0
  tile0 : Nat := 0
  tile1 : Nat := 0
  deriving DecidableEq, Repr

/-- What an accepted engine instruction does (R171). -/
inductive EngOp where
  | mzero | mma | mload | mstore | mcvt | gemv
  deriving DecidableEq, Repr

/-- A slot the engine holds: ring, local address and the definition number of the ring when it was taken (R189). -/
structure HeldSlot where
  ring : BitVec 4
  addr : BitVec 17
  defNum : BitVec 16
  deriving DecidableEq, Repr

/-- An entry of the matrix engine's queue with its progress (R172, R180, R186, R189). -/
structure EngEntry where
  id    : Nat
  owner : BitVec 28
  op    : EngOp
  word  : BitVec 128
  m     : BitVec 2 := 0
  ops1  : Word := 0
  ops2  : Word := 0
  ops3  : Word := 0
  tidA  : Tid := 0
  tidB  : Tid := 0
  ringA : BitVec 4 := 0
  ringB : BitVec 4 := 0
  shape : Nat := 0
  capA  : DescCap := {}
  capB  : DescCap := {}
  /-- Pairs done or tiles published, and the k position. -/
  pair  : Nat := 0
  k     : Nat := 0
  started : Bool := false
  slotA : Option HeldSlot := none
  slotB : Option HeldSlot := none
  /-- An `mcvt` that has published its last tile and owes its merge (R189 state 3). -/
  owes  : Bool := false
  mflags : BitVec 7 := 0
  mamax : BitVec 33 := 0
  /-- `gemv`: extents of B and whether the result is BF16 and goes to memory. -/
  gK : Nat := 0
  gN : Nat := 0
  gBase : Nat := 0
  gStride : Nat := 0
  bf16 : Bool := false
  toMem : Bool := false
  /-- The physical addresses of the 4 KiB parts of its result, by their virtual numbers, as translated at acceptance. -/
  frames : Sparse Nat := []
  tenant : Tenant := 0
  /-- The issuer as a party at acceptance (R348). -/
  rc : BitVec 24 := 0
  bar : BitVec 13 := 0
  ep : BitVec 16 := 0
  off : Bool := false
  /-- Where its issuer stood, for a report (the model's own). -/
  epc : Word := 0
  deriving DecidableEq, Repr

/-- An accepted `gemv` whose A vector has been read (R193, R194). -/
structure GemvOp where
  id    : Nat
  owner : BitVec 28
  tenant : Tenant
  tid   : Tid
  a     : List PByte
  capB  : DescCap
  gK    : Nat
  gN    : Nat
  gBase : Nat
  gStride : Nat
  bf16  : Bool
  toMem : Bool
  ring  : BitVec 4
  res   : Word
  /-- Results already delivered, and the slot size of the ring as it stood when the last was delivered or waited (R441). -/
  done  : Nat := 0
  slotLg : Nat := 6
  frames : Sparse Nat := []
  /-- The page whose fault has been sent to the kernel instance that owns it, and pages it cannot bring in, by the PAGE field of
  R398 (R194). -/
  asked : Option Nat := none
  denied : List Nat := []
  rc    : BitVec 24 := 0
  bar   : BitVec 13 := 0
  ep    : BitVec 16 := 0
  off   : Bool := false
  epc   : Word := 0
  deriving DecidableEq, Repr

/-- Work the copy engine, a loader, a storer or a slice has accepted and not completed (R306 to R319). -/
inductive BatchOp where
  /-- A packet to a ring, `send` or `cpy`, named by its id. -/
  | delivery
  | copy (src dst : Word) (esz : Nat) (ext : List Nat) (sstr dstr : List Int) (toRing : Option (CoreId × BitVec 4))
  | load (tid : Tid) (first count : Nat) (ring : BitVec 4) (done : Nat)
  | drain (tid : Tid) (first count : Nat) (ring : BitVec 4) (done : Nat)
  | tile (kind : Nat) (tid : Tid) (tile : Nat) (arg : Nat) (hint : BitVec 2)
  deriving DecidableEq, Repr

/-- An accepted batch operation: its issuer, its batch and the release count at acceptance (R306, R348). -/
structure CopyOp where
  id     : Nat
  owner  : BitVec 28
  batch  : Nat
  tenant : Tenant
  op     : BatchOp
  rc     : BitVec 24 := 0
  bar    : BitVec 13 := 0
  ep     : BitVec 16 := 0
  off    : Bool := false
  /-- The release that a copy to a ring hands over. -/
  rel    : List AcqEntry := []
  /-- Pages counted in flight (R309). -/
  pages  : List Nat := []
  /-- The physical addresses of its 4 KiB parts, by their virtual numbers, as translated at acceptance (R309, R430). -/
  frames : Sparse Nat := []
  /-- Its items that MEM and that FAB have admitted (R371). -/
  items  : Nat := 0
  fabItems : Nat := 0
  deriving DecidableEq, Repr

/-- A granule of the machine: a flat granule by its number (physical address divided by 64), a granule of a tensor
entry by its tag, or one of local memory. -/
inductive Gran where
  | flat (g : Nat)
  | tensor (tag : BitVec 64) (g : Nat)
  /-- A granule of a core's own local memory, for its sync records. -/
  | own (g : Nat)
  deriving DecidableEq, Repr

/-- A sync record kept beside a granule, one for each release (R346). -/
structure SyncRec where
  gran : Gran
  table : List AcqEntry
  scope : Scope
  src : CoreId
  who : BitVec 28 := 0
  /-- The bytes of the granule that still carry the release (DEDUCED, log 27). -/
  mask : BitVec 64 := 0
  deriving DecidableEq, Repr

/-- A host translation of 4 KiB with its rights R and W (R290, R429). -/
structure HostTrans where
  tenant : Tenant
  page : Nat
  hpa  : Nat
  rd   : Bool
  wr   : Bool
  deriving DecidableEq, Repr

/-! ## A core -/

/-- A core (R17 to R24, R207, R270, R383, R388, R391, R396). -/
structure Core where
  ctxs  : Sparse Ctx := []
  /-- Local memory: cells that are not zero (log 4). -/
  mem   : List Host.Cell := []
  /-- Poisoned 16-byte words of local memory (R416). -/
  poison : List Nat := []
  /-- m0 to m3: elements that are not +0, keyed 512·m + 16·i + j (R169), and poisoned elements. -/
  acc   : Sparse (BitVec 32) := []
  accPoison : List Nat := []
  mxOvf : Nat := 0
  mxNan : Nat := 0
  mxNar : Nat := 0
  engine : List EngEntry := []
  engWait : List CtxNum := []
  /-- The fold port of the core: requests that entered it, in order, and contexts that wait for an entry (R18). -/
  foldPort : List CtxNum := []
  foldWait : List CtxNum := []
  gemvs : List GemvOp := []
  ops   : List CopyOp := []
  copyWait : List CtxNum := []
  rings : Sparse Ring := []
  /-- Parties that were waiting on a ring when it was undefined or became too small for them, and are not settled yet
  (R441). -/
  cuts  : List (BitVec 4 × Waiter) := []
  sp    : BitVec 4 := 8
  dom   : Word := 0
  ep    : BitVec 16 := 0
  /-- An arrival is pending; the exchange phase began at this die cycle; the control context left the timetable. -/
  arrival : Bool := false
  barX  : Bool := false
  exch  : Option Nat := none
  exchLeft : Bool := false
  /-- What `exch` becomes at the release cycle of the barrier that has released the core (R216, R217; the model's own). -/
  exchNext : Option (Option Nat) := none
  evec  : Word := 0
  evmask : Bool := true
  orph  : BitVec 16 := 0
  hflt  : Bool := false
  /-- What the handler is handling, and its queue. -/
  handling : Option Delivery := none
  /-- Each queued delivery with the die cycle it arrived in. -/
  hqueue : List (Nat × Delivery) := []
  msgs  : List QMsg := []
  journal : Sparse JEntry := []
  stage : Option (Tenant × BitVec 6) := none
  /-- The core has left flowing mode and is in its pool until its helpers are idle (R235; the model's own). -/
  leaving : Bool := false
  /-- The time, in units of 1/21 ns, at which its request for a record arrived at the queue (R228). -/
  asked : Nat := 0
  tlb   : List Nat := []
  /-- Host translations of 4 KiB (R290). -/
  hostTlb : List HostTrans := []
  ibuf  : List Nat := []
  /-- Lines of L1 with their bytes, oldest first (R272). -/
  l1    : List (Nat × List PByte) := []
  /-- Sync records of releases that wrote local memory (R338). -/
  syncs : List SyncRec := []
  lastCtx : CtxNum := 15
  /-- The model's own scheduling marks for the present cycle (log 1). -/
  issued : Bool := false
  tried : List CtxNum := []
  /-- Contexts that the round robin passes over at this pick, and those whose pass has been used (R203). -/
  passed : List CtxNum := []
  spent : List CtxNum := []
  /-- The release cycle in which context 0 issues first (R216). -/
  barFirst : Option Nat := none
  /-- The cycle and the sender of the last message that was taken (R207). -/
  msgHeard : Nat × Nat := (0, 0)
  deriving DecidableEq, Repr

/-! ## Packets -/

/-- What a packet carries (R26). -/
inductive Msg where
  | amsg (target : BitVec 20) (pc a1 a2 : Word) (once : Bool)
  | signal (target : BitVec 28) (bits : BitVec 16)
  | delivery (core : CoreId) (ring : BitVec 4) (data : List PByte)
  | jdone (handle : Word)
  | arrival (core : CoreId) (dom : Word) (upTo : Nat)
  /-- A posted write of a journal entry (R295). -/
  | write (core : CoreId) (entry : Nat)
  /-- A packet of a transfer whose effect stands already, or its reply, which has none of its own (R351). -/
  | echo (reply : Bool)
  deriving DecidableEq, Repr

/-- Where a packet is (R350 to R352); a held one waits at its source for the link to its destination (R351). -/
inductive Phase where
  | held | mesh | link | early | delivered
  deriving DecidableEq, Repr

/-- A packet in flight: its sender (none for a host port or a home), its destination die, its causal stamp, the
release it carries and the batch operation it completes. -/
structure Pkt where
  id    : Nat
  src   : CoreId
  hasSrc : Bool := true
  owner : BitVec 28 := 0
  srcDie : Die
  dst   : Die
  phase : Phase := .mesh
  /-- It has reached its target and waits there. -/
  waiting : Bool := false
  gen   : BitVec 4 := 0
  stamp : List (BitVec 12) := []
  /-- Sync packets carry the sender's knowledge matrix (R350), row by row. -/
  matrix : Option (List (BitVec 12)) := none
  msg   : Msg
  rel   : List AcqEntry := []
  opId  : Option Nat := none
  /-- The tenant it belongs to and its time stamp (R4, R352). -/
  tenant : Tenant := 0
  time  : Nat := 0
  /-- Where its sender stood, for a report of its loss (the model's own). -/
  epc   : Word := 0
  deriving DecidableEq, Repr

/-! ## Tills, stages, counters and barriers of a sector -/

/-- A continuation record (R222). -/
structure Rec where
  id    : Nat := 0
  pri   : BitVec 2 := 0
  stage : BitVec 6 := 0
  tenant : Tenant := 0
  pc    : Word := 0
  evval : Word := 0
  mask  : Word := 0
  join  : Word := 0
  vtags : Word := 0
  regs  : List Vec := []
  deriving DecidableEq, Repr

/-- The event a parked record is bound to (R225). -/
inductive ParkEvent where
  | batch (n : BitVec 4) | ring (r : BitVec 4) (free : Bool) | till (t : BitVec 13) | gemv (id : Option Nat)
  | strong (seq : BitVec 32) (pending : List (BitVec 32))
  deriving DecidableEq, Repr

/-- A record with what the machine keeps beside it: where it stands, the core that parked it, when it entered its
queue, what its start acquires and the chunk it descends from. -/
structure RecEntry where
  r     : Rec
  home  : Option CoreId := none
  owner : BitVec 28 := 0
  ev    : Option ParkEvent := none
  entry : Nat := 0
  src   : CoreId := 0
  rel   : List AcqEntry := []
  lineage : Option Lineage := none
  /-- It holds one unit of quota kind 2, returned at its start (R368). -/
  quota : Bool := true
  deriving DecidableEq, Repr

/-- A till (R330 to R336, R344). -/
structure Till where
  owned : Bool := false
  owner : Tenant := 0
  base  : Word := 0
  grans : Nat := 0
  total : Nat := 0
  act   : Word := 0
  arg   : Word := 0
  stored : Option Rec := none
  /-- The stage whose parked record is bound to the till (R225). -/
  bound : Option (BitVec 6) := none
  count : Nat := 0
  fired : Bool := false
  armed : Bool := false
  /-- A record has been started by the last firing. -/
  started : Bool := false
  arm   : BitVec 24 := 0
  rel   : List AcqEntry := []
  deriving DecidableEq, Repr

/-- A join counter (R230 to R232). -/
structure Counter where
  gen   : BitVec 16 := 1
  used  : Bool := false
  tenant : Tenant := 0
  count : Nat := 0
  parent : Rec := {}
  rel   : List AcqEntry := []
  deriving DecidableEq, Repr

/-- One arrival at a barrier agent (R214). -/
structure Arrival where
  core  : CoreId
  who   : BitVec 28
  dom   : Word
  /-- Packets sent before the arrival have lower numbers. -/
  upTo  : Nat
  rel   : List AcqEntry
  deriving DecidableEq, Repr

/-- A barrier agent (R214). -/
structure Barrier where
  arrivals : List Arrival := []
  held     : List Arrival := []
  /-- Till releases that count, each with its till's tenant (R4, R214). -/
  tillActs : List (Tenant × AcqEntry) := []
  deriving DecidableEq, Repr

/-- A `dist` range in progress (R237, R238). -/
structure Range where
  id    : Nat
  first : Word
  last  : Word
  chunk : Nat
  total : Nat
  /-- Next chunk the master deals, chunks dealt to each die and not started, chunks started with the run of each, and
  the two bitmaps. -/
  nextDeal : Nat := 0
  dealt : List (Die × Nat) := []
  started : List (Nat × Nat) := []
  master : List Nat := []
  deputy : List Nat := []
  retired : Nat := 0
  /-- The core whose `dist` it is (R227). -/
  src   : CoreId := 0
  rel   : List AcqEntry := []
  deriving DecidableEq, Repr

/-- A declared stage (R233 to R237). -/
structure Stage where
  declared : Bool := false
  distPc : Word := 0
  min   : Nat := 0
  max   : Nat := 0
  cap   : Nat := 0
  pri   : BitVec 2 := 0
  dies  : BitVec 8 := 0
  home  : Die := 0
  queue : List RecEntry := []
  parked : List RecEntry := []
  parents : Nat := 0
  /-- Records stored beside tills for the stage (R332). -/
  stored : Nat := 0
  /-- An `enq`, `park` or `jdone` was held full since the last round of each die's balancer (R236). -/
  heldFull : BitVec 8 := 0
  range : Option Range := none
  deriving DecidableEq, Repr

/-- A call packet at a service kernel (R240). -/
structure Call where
  id    : Nat
  owner : BitVec 28
  ring  : BitVec 4
  strong : Bool
  tenant : Tenant
  svc   : BitVec 12
  seq   : BitVec 32
  prev  : Option (BitVec 32)
  args  : List Word
  rel   : List AcqEntry := []
  /-- The instance has sent the PREEMPTs of a reassignment (R366; the model's own). -/
  preempted : Bool := false
  deriving DecidableEq, Repr

/-- A reply on its way to a ring (R241). -/
structure Reply where
  id    : Nat
  owner : BitVec 28
  ring  : BitVec 4
  seq   : BitVec 32
  svc   : BitVec 12
  status : BitVec 16
  res   : List Word
  /-- The die of the instance that answers. -/
  die   : Die := 0
  rel   : List AcqEntry := []
  deriving DecidableEq, Repr

/-! ## Memory at home -/

/-- A leaf page entry as the walkers read it (R374), for the page that starts at a virtual address. -/
structure Leaf where
  p    : Bool := false
  mig  : Bool := false
  host : Bool := false
  frz  : Bool := false
  norc : Bool := false
  size : BitVec 2 := 0
  key  : BitVec 12 := 0
  rd   : Bool := false
  wr   : Bool := false
  ex   : Bool := false
  frame : BitVec 42 := 0
  deriving DecidableEq, Repr

/-- The contents of a deferred image page, kept by the kernel until its first fault (R427). -/
structure Deferred where
  leaf : Leaf
  data : List Byte
  deriving DecidableEq, Repr

/-- The record of a 64-byte granule for race checking (R343). -/
structure GranRec where
  wv : Bool := false
  wat : Bool := false
  wctx : BitVec 28 := 0
  wrc : BitVec 24 := 0
  wbar : BitVec 13 := 0
  wep : BitVec 16 := 0
  wtv : Bool := false
  wtill : BitVec 13 := 0
  warm : BitVec 8 := 0
  rv : Bool := false
  multi : Bool := false
  rctx : BitVec 28 := 0
  rrc : BitVec 24 := 0
  rbar : BitVec 13 := 0
  rep : BitVec 16 := 0
  lost : Bool := false
  wtm : Bool := false
  deriving DecidableEq, Repr

/-- An entry of a cache slice (R25, R277, R278). Tensor entries hold their own bytes; flat entries and copies hold
what stands at home. `valid` and `dirty` mark granules. -/
structure SliceEntry where
  tag   : BitVec 64
  valid : BitVec 8 := 0
  dirty : BitVec 8 := 0
  kept  : Bool := false
  /-- A read-only copy: replicated (R283) or installed by `thalo` (R318). -/
  copy  : Bool := false
  /-- Poisoned granules of a copy; those of every other entry are the machine's (R416). -/
  bad   : BitVec 8 := 0
  /-- Of a flat entry: where its first byte stands (the model's own; see the physical addresses in Pages). -/
  base  : Nat := 0
  data  : List Byte := []
  /-- Bytes written since the fill, of a tensor entry. -/
  mask  : List Bool := []
  /-- The contexts that wrote its granules since its last write-back (R419). -/
  writers : List (Nat × CoreId × BitVec 28) := []
  deriving DecidableEq, Repr

/-- A descriptor record as installed (R287). -/
structure Desc where
  base : Word
  tag  : Tag
  rank : Nat
  sb   : BitVec 8
  key  : BitVec 12
  aliasOk : Bool
  ext  : List Nat
  stride : List Nat
  tile : List Nat
  /-- The 128 bytes of the record. -/
  bytes : List Byte
  deriving DecidableEq, Repr

/-- A Translation Request that is outstanding (R428); the mark says that an Invalidate Request has arrived since (R429). -/
structure AtsReq where
  tenant : Tenant
  pasid  : BitVec 20
  page   : Nat
  noWrite : Bool
  execute : Bool
  stale  : Bool := false
  deriving DecidableEq, Repr

/-- A PRI Page Request as it is sent (R431). -/
structure PageRequest where
  tenant : Tenant
  pasid  : BitVec 20
  page   : Nat
  index  : Nat
  last   : Bool := true
  read   : Bool := true
  write  : Bool
  execute : Bool
  deriving DecidableEq, Repr

/-- A saved context whose core has been handed over (R366, R408): its state, its tenant and the home of its spill area. -/
structure Away where
  ctx    : Ctx
  tenant : Tenant
  area   : Word
  deriving DecidableEq, Repr

/-- What the service kernel has saved of a core that it took from a tenant: the scratchpad with its poison, and the contexts that
no handler had saved, by their handles in the order they were saved in, with the refused entries of the journal (R366, R405,
R408). -/
structure SavedCore where
  tenant : Tenant
  mem    : List Host.Cell := []
  poison : List Nat := []
  ctxs   : List (BitVec 28 × Ctx) := []
  journal : Sparse JEntry := []
  deriving DecidableEq, Repr

/-- A cluster with its router, instruction cache, TLB, fold unit and slice (R24, R25). -/
structure Cluster where
  tenant : Tenant := 0
  /-- Instruction cache lines, most recent last, and lines in flight with their demanding contexts. -/
  icache : List Word := []
  inflight : List (Word × List (CoreId × CtxNum)) := []
  /-- Lines in flight that a context's `prefi` has asked for over FD (R300, R329). -/
  prefetch : List (Word × BitVec 28) := []
  tlb   : List Nat := []
  /-- Host translations held, by tenant and 4 KiB page, with rights (R290, R429). -/
  hostTlb : List HostTrans := []
  atsReqs : List AtsReq := []
  /-- The descriptor records held (R286), by TID. -/
  descs : Sparse Desc := []
  /-- Fold requests: the context, the entry address and the early mask (R247). -/
  folds : List (CoreId × CtxNum × Word × BitVec 8) := []
  constCopies : List Nat := []
  /-- Slice entries, least recent first. -/
  slice : List SliceEntry := []
  syncs : List SyncRec := []
  deriving DecidableEq, Repr

/-- A page-fault trap message on its way to a collector (R398). -/
structure TrapMsg where
  id   : Nat
  die  : Die
  row  : Nat
  tenant : Tenant
  kind : AccKind
  page : Nat
  cores : List CoreId
  deriving DecidableEq, Repr

/-- An outstanding page of a row collector (R399). -/
structure Outstanding where
  tenant : Tenant
  kind : AccKind
  page : Nat
  cores : List CoreId
  deriving DecidableEq, Repr

/-- An entry of the tag table (R399). -/
structure TagEntry where
  tenant : Tenant
  pasid : BitVec 20
  page : Nat
  /-- The collectors that wait: die, row, and the tenant and the page they asked for. -/
  waiting : List (Die × Nat × Tenant × Nat)
  deriving DecidableEq, Repr

/-- A die (R14, R350 to R352, R393, R398, R439). -/
structure DieState where
  cycle : Nat := 0
  /-- Sixteenths of the full clock, and the part of a period that has passed (the model's own). -/
  rate  : Nat := 16
  phase : Nat := 0
  supplyGood : Bool := true
  /-- The next period of the clock is stretched (R439). -/
  stretch : Bool := false
  /-- The time of the last change of the rate (the model's own). -/
  rateAt : Nat := 0
  hot   : Bool := false
  fenced : Bool := false
  know  : List (BitVec 12) := List.replicate 64 0
  deliv : List (BitVec 12) := List.replicate 8 0
  gen   : BitVec 4 := 0
  early : List Nat := []
  trapMsgs : List TrapMsg := []
  collectors : Sparse (List Outstanding) := []
  /-- The last windows of the stage balancer, the purses and the page modes that have been served (R236, R283, R372). -/
  balWin : Nat := 0
  purseWin : Nat := 0
  pageWin : Nat := 0
  piste : List PisteWord := []
  deriving DecidableEq, Repr

/-- A page flip or unmap in progress (R378). -/
structure Flip where
  id : Nat
  call : Call
  tenant : Tenant
  va : Word
  /-- 0 to the device, 1 to the host, 2 unmap. -/
  kind : Nat
  hostAddr : Nat := 0
  deriving DecidableEq, Repr

/-- The counters of a 64 KiB page part (R283). -/
structure PageMode where
  replicated : Bool := false
  rd : Nat := 0
  wr : Nat := 0
  /-- Writes from other dies since the page became replicated. -/
  wsince : Nat := 0
  deriving DecidableEq, Repr

/-- A sector: its base logic and service kernel (R29, R214, R227, R330, R375). -/
structure Sector where
  tills : Sparse Till := []
  barriers : Sparse Barrier := []
  counters : Sparse Counter := []
  calls : List Call := []
  flips : List Flip := []
  /-- The next free 64 KiB frame and frames given back (log 5). -/
  nextFrame : Nat := 0
  freed : List Nat := []
  modes : Sparse PageMode := []
  /-- The scale route table: entries that are not zero (R436). -/
  routes : Sparse Byte := []
  deriving DecidableEq, Repr

/-- What a purse holds: the request of a context, or an item of work its engine has accepted (R372). -/
inductive Ticket where
  | ctx (core : CoreId) (n : CtxNum)
  | op (core : CoreId) (id : Nat)
  deriving DecidableEq, Repr

/-- A purse with its held requests, oldest first (R370, R372). -/
structure Purse where
  rate  : Nat := 0
  depth : Nat := 1
  bal   : Int := 1
  held  : List (Ticket × Nat) := []
  deriving DecidableEq, Repr

/-- A handle slot (R262 to R265). -/
structure HandleSlot where
  gen  : BitVec 16 := 1
  used : Bool := false
  released : Bool := false
  pins : Nat := 0
  points : List ResidPoint := []
  rescnt : Nat := 0
  bytes : Nat := 0
  /-- Frozen pages read while folding (R261, R285). -/
  pages : List Nat := []
  partly : Bool := false
  deferred : Bool := false
  deriving DecidableEq, Repr

/-- A tenant (R364 to R375). -/
structure TenantState where
  /-- Leaf entries by the first virtual address of the page divided by 65,536. -/
  leaves : Sparse Leaf := []
  deferred : Sparse Deferred := []
  pasid : BitVec 20 := 0
  /-- Host frames that the last Translation Completion of each page named, for work that is accepted (the model's own). -/
  hostPages : Sparse Nat := []
  /-- Frames that earlier completions named for a page and no Invalidate Request has removed since, each with its page. -/
  hostOld : List (Nat × Nat) := []
  descs : Sparse Desc := []
  stages : Sparse Stage := []
  /-- Limits set by service 0x804 or 0x807, those of tills at key 16 + sector; an unlisted one has the value of R444. -/
  limits : Sparse Nat := []
  /-- Counts of the module-wide kinds, and of tills per sector at key 16 + sector. -/
  counts : Sparse Nat := []
  handles : Sparse HandleSlot := []
  mem  : Sparse Purse := []
  fab  : Sparse Purse := []
  deriving DecidableEq, Repr

/-- An entry of the error log (R423). -/
structure LogEntry where
  source : BitVec 16
  unit : BitVec 4
  cls : BitVec 8
  tenant : Tenant
  detail : Word
  addr : Word
  time : Nat
  deriving DecidableEq, Repr

/-- A dirty host-homed granule: its number, its writers, a fifth writer, its tenant and the 64 bytes the host's own
memory still holds (R418, R419). -/
structure HostDirty where
  gran : Nat
  writers : List (CoreId × BitVec 28)
  more : Bool
  tenant : Tenant
  old : List Byte
  deriving DecidableEq, Repr

/-- A retention entry (R419). -/
structure Retained where
  gran : HostDirty
  data : List Byte
  deriving DecidableEq, Repr

/-- The banks and rows of one storage (R413, R415). -/
structure Banks where
  failed : List Nat := []
  /-- Corrected errors of each bank with their cycles, newest first. -/
  errors : Sparse (List Nat) := []
  rebuild : Option (Nat × Nat) := none
  /-- Symbols in error of each row. -/
  bad : Sparse (List (BitVec 5)) := []
  deriving DecidableEq, Repr

/-- The parameters of the event that happens next (the model's own field, log 1). What an agent outside the spec decides, such
as the host's answer for a page, is a parameter. -/
structure Pick where
  core : CoreId := 0
  ctx : CtxNum := 0
  cluster : ClusterId := 0
  die : Die := 0
  row : Nat := 0
  tenant : Tenant := 0
  stage : BitVec 6 := 0
  id : Nat := 0
  other : Nat := 0
  num : Nat := 0
  flag : Bool := false
  answer : KernelAnswer := .resolved
  ats : AtsResult := .notPresent
  power : PowerEvent := .supplyGood
  store : StorageRow := { store := .stack 0, row := 0 }
  bytes : List Byte := []
  words : List Word := []
  load : Option LoadRequest := none
  scale : Option ScalePacket := none
  deriving DecidableEq, Repr

/-- What happens next by the agenda (log 1): an event of a row with its parameters, the turn of a core to issue, or a
cycle. -/
inductive Occurrence where
  | event (row : Instr) (pick : Pick)
  | turn (core : CoreId)
  /-- A turn whose request leaves the core before its reply comes, and the coming of a reply (R403). -/
  | depart (core : CoreId)
  | reply (core : CoreId) (ctx : CtxNum)
  | tick
  deriving DecidableEq, Repr

/-- What a load request comes to (R87, R360). -/
inductive LoadCode where
  | ok | format | kind | symbol | align | range | space
  deriving DecidableEq, Repr

/-- The answers to SPDM requests (R379). -/
inductive SpdmReply where
  | version | capabilities | algorithms
  | digests (chain : BitVec 384)
  | certificate (chain : List Byte)
  | challengeAuth (chain : BitVec 384) (signature : BitVec 768)
  | measurements (values : List (Nat × BitVec 384)) (signature : BitVec 768)
  deriving DecidableEq, Repr

/-! ## The whole machine -/

/-- The state of the module. Unlisted cores, clusters, dies, sectors and tenants are as at reset. -/
structure State where
  agenda : List Occurrence := []
  pick : Pick := {}
  curCore : CoreId := 0
  curCtx : CtxNum := 0
  nextId : Nat := 0
  cores : Sparse Core := []
  /-- Saved contexts whose core has been handed over, by handle. -/
  away : Sparse Away := []
  /-- What the service kernel has saved of cores, by tenant and core: 65,536 times the tenant, plus the core (R366). -/
  saves : Sparse SavedCore := []
  /-- The merges that finished `mcvt` instructions owe to contexts that are to be restored, by handle (R105, R189). -/
  owed : Sparse (BitVec 7 × BitVec 33) := []
  clusters : Sparse Cluster := []
  dies : Sparse DieState := []
  sectors : Sparse Sector := []
  tenants : Sparse TenantState := []
  /-- Device memory at home by 40-bit stack address, and the bytes the stacks hold, decrypted: cells that are not zero
  (log 4). -/
  mem : List Host.Cell := []
  stack : List Host.Cell := []
  /-- The encrypted granules of the stacks, by physical address divided by 64 (R373). -/
  cipher : Sparse (BitVec 512) := []
  /-- Flat granules whose home bytes the stack does not hold yet (R277). -/
  dirty : List Nat := []
  /-- Host memory by host physical address; dirty host granules with their writers (R290, R418, R419). -/
  hostMem : List Host.Cell := []
  hostDirty : List HostDirty := []
  grans : List (Gran × GranRec) := []
  poison : List Gran := []
  /-- Poisoned granules that the stacks and the host's own memory hold. -/
  stackPoison : List Nat := []
  net : List Pkt := []
  replies : List Reply := []
  time : Nat := 0
  /-- Parts of a nanosecond, in units of 1/21 ns (the model's own). -/
  timeFrac : Nat := 0
  svc : BitVec 2 := 0
  keyOwner : Sparse (BitVec 7) := []
  keys : Sparse (BitVec 512) := []
  kslot : BitVec 12 := 0
  kcmd : BitVec 2 := 0
  keyReg : BitVec 512 := 0
  modnum : BitVec 16 := 0
  lstat : Sparse (BitVec 64) := []
  log : List LogEntry := []
  logHead : Nat := 0
  logOvr : Nat := 0
  /-- The MSI-X events raised, by function, oldest first (R401). -/
  msix : List (BitVec 7 × Nat) := []
  /-- The MSI-X table of BAR2 and its pending bits, by vector + 64 × function, and the messages sent: address and data (R433). An
  unlisted entry is masked. -/
  msixTable : Sparse (BitVec 128) := []
  msixPend : List Nat := []
  msixOut : List (Word × BitVec 32) := []
  /-- The device pages that the physical function has mapped into the HDM range (R435), by tenant and leaf. -/
  hdm : List (Tenant × Nat) := []
  /-- The packets sent to other modules: the scale link, the module and the packet (R436, R437). -/
  scaleOut : List (Nat × BitVec 16 × ScalePacket) := []
  /-- The tag table by Page Request Group Index, and page requests sent (R399, R431). -/
  tagTable : Sparse TagEntry := []
  /-- The functions whose PRI is off; it is on at every function at reset (log 45). -/
  priOff : List Tenant := []
  priSent : List PageRequest := []
  /-- Invalidate Requests by ITAG with the host frames they removed, until nothing in flight uses them, and the names of these
  frames that are forgotten then: tenant, page and frame. The tags of those that have completed (R430). -/
  invWait : List (Nat × List Nat × List (Tenant × Nat × Nat)) := []
  invDone : List Nat := []
  linkUp : Bool := true
  linkDownAt : Option Nat := none
  retention : List Retained := []
  /-- Contexts held at their home for a host-homed line while the link is down (R419). -/
  heldHost : List (CoreId × CtxNum × Nat) := []
  linksDown : List Nat := []
  removed : Bool := false
  /-- A key load in progress: its slot and its keys (R433). -/
  keyLoad : Option (BitVec 12 × BitVec 512) := none
  /-- SPDM responses sent (R379), oldest first. -/
  spdmOut : List SpdmReply := []
  /-- What the loader has reported, oldest first (R87). -/
  loads : List (LoadCode × Nat) := []
  /-- Virtual functions whose function-level reset has begun and not ended (R432). -/
  flrWait : List Tenant := []
  /-- Writes the host has done over CXL that completed with an error (R435). -/
  hostErrors : Nat := 0
  banks : List (Storage × Banks) := []
  deriving DecidableEq, Repr

/-- The machine right after reset (R22, R91, R101, R103, R170, R197, R211, R301, R366, R370, R388, R391, R393, R437,
R438, R444). Values the spec does not give are named in log 3 to 5. -/
def State.reset : State := {}

end Sys2Proof.Machine
end

