-- ==== Sys2Proof/Machine/Operands.lean ====
section
/-! DEFINITION. Operand forms: reading sources with their modifiers, writing destinations, format M addresses (R58 to
R71), and the tables of what an instruction reads, how long its result takes and where it may stand. -/

namespace Sys2Proof

/-! ## Tags and lanes (R89, R90) -/

/-- The lane count of a tag (R91). -/
def Tag.lanes : Tag → Nat
  | .q4 => 32
  | .bf16 | .fp16 | .i16 => 8
  | .fp32 | .i32 => 4
  | .i64 => 2
  | .b128 | .i8 | .t6 | .t8 => 16

/-- The element bits of a tag (R91). -/
def Tag.width : Tag → Nat
  | .b128 | .i8 | .t8 => 8
  | .q4 => 4
  | .t6 => 6
  | .bf16 | .fp16 | .i16 => 16
  | .fp32 | .i32 => 32
  | .i64 => 64

end Sys2Proof

namespace Sys2Proof.Machine

/-! ## Registers of a context (R12, R59, R71) -/

/-- s0 reads zero. -/
def Ctx.getS (c : Ctx) (r : BitVec 6) : Word := if r = 0 then 0 else sparseGet 0 c.s r.toNat

/-- A write to s0 is discarded. -/
def Ctx.setS (c : Ctx) (r : BitVec 6) (x : Word) : Ctx :=
  if r = 0 then c else { c with s := sparseAssign 0 c.s r.toNat x }

def Ctx.getV (c : Ctx) (r : BitVec 5) : VVal := sparseGet {} c.v r.toNat

def Ctx.setV (c : Ctx) (r : BitVec 5) (x : VVal) : Ctx := { c with v := sparseAssign {} c.v r.toNat x }

/-- k0 reads one. -/
def Ctx.getK (c : Ctx) (r : BitVec 3) : Bool := if r = 0 then true else c.k.getLsbD r.toNat

/-- A write to k0 is discarded. -/
def Ctx.setK (c : Ctx) (r : BitVec 3) (x : Bool) : Ctx :=
  if r = 0 then c
  else { c with k := if x then c.k ||| (1#8 <<< r.toNat) else c.k &&& ~~~(1#8 <<< r.toNat) }

/-- The bits of lane i (R91). -/
def lane (x : VVal) (i : Nat) : Nat := (x.bits.toNat >>> (x.tag.width * i)) % 2 ^ x.tag.width

/-- A register of a tag from its lane bits, lowest lane first; bits beyond the lanes are zero (R90). -/
def packLanes (t : Tag) (ls : List Nat) : VVal :=
  { bits := BitVec.ofNat 128 (ls.foldr (fun b acc => b % 2 ^ t.width + acc * 2 ^ t.width) 0), tag := t }

/-- All lane bits of a register, lowest lane first. -/
def lanesOf (x : VVal) : List Nat := (List.range x.tag.lanes).map (lane x)

/-! ## Source modifiers (R68, R71) -/

/-- The lane that lane i reads in a segment of n lanes under a class and distance (R71). -/
def modLane (cls n d i : Nat) : Nat :=
  let b := i - i % n
  let j := i % n
  if cls = 1 then b + (j + d) % n else if cls = 2 then b + (j ^^^ (d % n)) else b + d % n

/-- A modifier applied to a register. A segment below one element leaves every lane unchanged (R147). The T6 lanes
count over the byte positions of the register (R71); bits 127:96 of a T6 register keep their place. -/
def applyModifier (x : VVal) (m : BitVec 12) : VVal :=
  let cls := (m.extractLsb' 10 2).toNat
  let seg := (m.extractLsb' 7 3).toNat
  let d := (m.extractLsb' 0 7).toNat
  let n := x.tag.lanes * 2 ^ seg / 16
  if cls = 0 ∨ n < 1 then x
  else
    let y := packLanes x.tag ((List.range x.tag.lanes).map (fun i => lane x (modLane cls n d i)))
    if x.tag = .t6 then { y with bits := y.bits ||| ((x.bits >>> 96) <<< 96) } else y

/-! ## Sources and destinations (R71) -/

def readS (c : Ctx) (a : SReg) : Word := c.getS a.r
def readSC (c : Ctx) : SCon → Word
  | .reg r _ => c.getS r
  | .con k => k.signExtend 64
def readV (c : Ctx) (a : VReg) : VVal := c.getV a.r
def readVM (c : Ctx) (a : VSrc) : VVal := applyModifier (c.getV a.r) a.mod
def readK (c : Ctx) (a : KReg) : Bool := c.getK a.r

/-- BASE + (IDX << SCL) + sext(DISP), modulo 2^64 (R71). -/
def mAddress (c : Ctx) (a : Addr) : Word :=
  c.getS a.base.r + (c.getS a.idx.r <<< a.scl.toNat) + a.disp.signExtend 64

/-- (k[G0] xor G0N) and (k[G1] xor G1N) (R56). -/
def guardsPass (h : Header) (c : Ctx) : Bool := (c.getK h.g0 ^^ h.g0n) && (c.getK h.g1 ^^ h.g1n)

/-- The bytes of a size (R296). -/
def sizeBytes : Size → Nat
  | .b => 1 | .h => 2 | .w => 4 | .d => 8

/-! ## What an instruction names -/

/-- One register operand: the lowest bit of its slot (0 for a register no slot names), its code, its binding mark
and whether it is read and written. -/
structure Operand where
  pos : Nat
  code : RegCode
  early : Bool := false
  src : Bool := true
  dst : Bool := false
  deriving DecidableEq, Repr

end Sys2Proof.Machine

namespace Sys2Proof

open Sys2Proof.Machine

def sCode (r : BitVec 6) : RegCode := (0 : BitVec 2) ++ r
def vCode (r : BitVec 5) : RegCode := (2 : BitVec 3) ++ r
def kCode (r : BitVec 3) : RegCode := (0x0C : BitVec 5) ++ r
def mCode (r : BitVec 2) : RegCode := (0x1A : BitVec 6) ++ r

def SReg.ops (a : SReg) (pos : Nat) (src dst : Bool) : List Operand := [⟨pos, sCode a.r, a.early, src, dst⟩]
def VReg.ops (a : VReg) (pos : Nat) (src dst : Bool) : List Operand := [⟨pos, vCode a.r, a.early, src, dst⟩]
def VSrc.ops (a : VSrc) (pos : Nat) (src dst : Bool) : List Operand := [⟨pos, vCode a.r, a.early, src, dst⟩]
def KReg.ops (a : KReg) (pos : Nat) (src dst : Bool) : List Operand := [⟨pos, kCode a.r, a.early, src, dst⟩]
def MReg.ops (a : MReg) (pos : Nat) (src dst : Bool) : List Operand := [⟨pos, mCode a.r, a.early, src, dst⟩]
def SCon.ops (a : SCon) (pos : Nat) (src dst : Bool) : List Operand :=
  match a with
  | .reg r e => [⟨pos, sCode r, e, src, dst⟩]
  | .con _ => []

/-- The two argument registers of `amsg` (R206). -/
def SReg.pairOps (a : SReg) (pos : Nat) : List Operand :=
  [⟨pos, sCode a.r, a.early, true, false⟩, ⟨pos, sCode (a.r + 1), a.early, true, false⟩]

/-- The index registers of `gath` (R315). -/
def VReg.manyOps (a : VReg) (pos : Nat) (cnt : BitVec 2) : List Operand :=
  (List.range (cnt.toNat + 1)).map (fun i => ⟨pos, vCode (a.r + BitVec.ofNat 5 i), a.early, true, false⟩)

def MovOps.operands : MovOps → List Operand
  | .s d a => d.ops 32 false true ++ a.ops 50 true false
  | .v d a => d.ops 32 false true ++ a.ops 50 true false
  | .k d a => d.ops 32 false true ++ a.ops 50 true false

/-- BASE and IDX of format M. -/
def Addr.ops (a : Addr) : List Operand := a.base.ops 41 true false ++ a.idx.ops 50 true false

def implicitDst (r : BitVec 6) : Operand := ⟨0, sCode r, false, false, true⟩
def implicitSrc (r : BitVec 6) : Operand := ⟨0, sCode r, false, true, false⟩
def implicitSrcs (rs : List (BitVec 6)) : List Operand := rs.map implicitSrc

/-- The register operands of an instruction: every slot it uses, with the lowest bit of the slot (R70), and the
registers it reads or writes without a slot, at bit 0 (R137, R138, R240, R247). -/
def Instr.operands (i : Instr) : List Operand :=
  match i with
  | .nop _ => []
  | .br _ _ => []
  | .brl _ _ => [implicitDst 63]
  | .ret _ => [implicitSrc 63]
  | .jt _ i b _ _ => i.ops 32 true false ++ b.ops 41 true false
  | .land _ _ _ => []
  | .loop _ c _ => c.ops 32 true true
  | .trap _ _ => []
  | .eret _ => []
  | .add _ d a b => d.ops 32 false true ++ a.ops 50 true false ++ b.ops 59 true false
  | .sub _ d a b => d.ops 32 false true ++ a.ops 50 true false ++ b.ops 59 true false
  | .and _ d a b => d.ops 32 false true ++ a.ops 50 true false ++ b.ops 59 true false
  | .or _ d a b => d.ops 32 false true ++ a.ops 50 true false ++ b.ops 59 true false
  | .xor _ d a b => d.ops 32 false true ++ a.ops 50 true false ++ b.ops 59 true false
  | .andn _ d a b => d.ops 32 false true ++ a.ops 50 true false ++ b.ops 59 true false
  | .shl _ d a b => d.ops 32 false true ++ a.ops 50 true false ++ b.ops 59 true false
  | .shr _ d a b => d.ops 32 false true ++ a.ops 50 true false ++ b.ops 59 true false
  | .sra _ d a b => d.ops 32 false true ++ a.ops 50 true false ++ b.ops 59 true false
  | .rol _ d a b => d.ops 32 false true ++ a.ops 50 true false ++ b.ops 59 true false
  | .min _ d a b => d.ops 32 false true ++ a.ops 50 true false ++ b.ops 59 true false
  | .max _ d a b => d.ops 32 false true ++ a.ops 50 true false ++ b.ops 59 true false
  | .minu _ d a b => d.ops 32 false true ++ a.ops 50 true false ++ b.ops 59 true false
  | .maxu _ d a b => d.ops 32 false true ++ a.ops 50 true false ++ b.ops 59 true false
  | .addImm _ d a _ => d.ops 32 false true ++ a.ops 41 true false
  | .subImm _ d a _ => d.ops 32 false true ++ a.ops 41 true false
  | .andImm _ d a _ => d.ops 32 false true ++ a.ops 41 true false
  | .orImm _ d a _ => d.ops 32 false true ++ a.ops 41 true false
  | .xorImm _ d a _ => d.ops 32 false true ++ a.ops 41 true false
  | .andnImm _ d a _ => d.ops 32 false true ++ a.ops 41 true false
  | .shlImm _ d a _ => d.ops 32 false true ++ a.ops 41 true false
  | .shrImm _ d a _ => d.ops 32 false true ++ a.ops 41 true false
  | .sraImm _ d a _ => d.ops 32 false true ++ a.ops 41 true false
  | .rolImm _ d a _ => d.ops 32 false true ++ a.ops 41 true false
  | .minImm _ d a _ => d.ops 32 false true ++ a.ops 41 true false
  | .maxImm _ d a _ => d.ops 32 false true ++ a.ops 41 true false
  | .minuImm _ d a _ => d.ops 32 false true ++ a.ops 41 true false
  | .maxuImm _ d a _ => d.ops 32 false true ++ a.ops 41 true false
  | .mul _ d a b => d.ops 32 false true ++ a.ops 50 true false ++ b.ops 59 true false
  | .mulh _ d a b => d.ops 32 false true ++ a.ops 50 true false ++ b.ops 59 true false
  | .mulhu _ d a b => d.ops 32 false true ++ a.ops 50 true false ++ b.ops 59 true false
  | .div _ d a b => d.ops 32 false true ++ a.ops 50 true false ++ b.ops 59 true false
  | .divu _ d a b => d.ops 32 false true ++ a.ops 50 true false ++ b.ops 59 true false
  | .rem _ d a b => d.ops 32 false true ++ a.ops 50 true false ++ b.ops 59 true false
  | .remu _ d a b => d.ops 32 false true ++ a.ops 50 true false ++ b.ops 59 true false
  | .clz _ d a => d.ops 32 false true ++ a.ops 50 true false
  | .ctz _ d a => d.ops 32 false true ++ a.ops 50 true false
  | .popc _ d a => d.ops 32 false true ++ a.ops 50 true false
  | .sext _ d a w => d.ops 32 false true ++ a.ops 50 true false ++ w.ops 59 true false
  | .zext _ d a w => d.ops 32 false true ++ a.ops 50 true false ++ w.ops 59 true false
  | .bext _ d a p _ => d.ops 32 false true ++ a.ops 50 true false ++ p.ops 59 true false
  | .bins _ d a f p _ => d.ops 32 false true ++ a.ops 50 true false ++ f.ops 59 true false ++ p.ops 68 true false
  | .cmpEq _ kt kf a b => kt.ops 32 false true ++ kf.ops 41 false true ++ a.ops 50 true false ++ b.ops 59 true false
  | .cmpNe _ kt kf a b => kt.ops 32 false true ++ kf.ops 41 false true ++ a.ops 50 true false ++ b.ops 59 true false
  | .cmpLt _ kt kf a b => kt.ops 32 false true ++ kf.ops 41 false true ++ a.ops 50 true false ++ b.ops 59 true false
  | .cmpGe _ kt kf a b => kt.ops 32 false true ++ kf.ops 41 false true ++ a.ops 50 true false ++ b.ops 59 true false
  | .cmpLtu _ kt kf a b => kt.ops 32 false true ++ kf.ops 41 false true ++ a.ops 50 true false ++ b.ops 59 true false
  | .cmpGeu _ kt kf a b => kt.ops 32 false true ++ kf.ops 41 false true ++ a.ops 50 true false ++ b.ops 59 true false
  | .cmpEqImm _ kt kf a _ => kt.ops 32 false true ++ a.ops 41 true false ++ kf.ops 50 false true
  | .cmpNeImm _ kt kf a _ => kt.ops 32 false true ++ a.ops 41 true false ++ kf.ops 50 false true
  | .cmpLtImm _ kt kf a _ => kt.ops 32 false true ++ a.ops 41 true false ++ kf.ops 50 false true
  | .cmpGeImm _ kt kf a _ => kt.ops 32 false true ++ a.ops 41 true false ++ kf.ops 50 false true
  | .cmpLtuImm _ kt kf a _ => kt.ops 32 false true ++ a.ops 41 true false ++ kf.ops 50 false true
  | .cmpGeuImm _ kt kf a _ => kt.ops 32 false true ++ a.ops 41 true false ++ kf.ops 50 false true
  | .sel _ d k a b => d.ops 32 false true ++ k.ops 50 true false ++ a.ops 59 true false ++ b.ops 68 true false
  | .plogAnd _ d a b => d.ops 32 false true ++ a.ops 50 true false ++ b.ops 59 true false
  | .plogOr _ d a b => d.ops 32 false true ++ a.ops 50 true false ++ b.ops 59 true false
  | .plogXor _ d a b => d.ops 32 false true ++ a.ops 50 true false ++ b.ops 59 true false
  | .plogAndn _ d a b => d.ops 32 false true ++ a.ops 50 true false ++ b.ops 59 true false
  | .movi _ d _ => d.ops 32 false true
  | .mov _ ops => ops.operands
  | .lea _ d ea => d.ops 32 false true ++ ea.ops
  | .gaddr _ d e o => d.ops 32 false true ++ e.ops 50 true false ++ o.ops 59 true false
  | .dtset _ e x => e.ops 50 true false ++ x.ops 59 true false
  | .fadd _ r a b _ => r.ops 32 false true ++ a.ops 50 true false ++ b.ops 59 true false
  | .fsub _ r a b _ => r.ops 32 false true ++ a.ops 50 true false ++ b.ops 59 true false
  | .fmul _ r a b _ => r.ops 32 false true ++ a.ops 50 true false ++ b.ops 59 true false
  | .fdiv _ r a b _ => r.ops 32 false true ++ a.ops 50 true false ++ b.ops 59 true false
  | .fmin _ r a b _ => r.ops 32 false true ++ a.ops 50 true false ++ b.ops 59 true false
  | .fmax _ r a b _ => r.ops 32 false true ++ a.ops 50 true false ++ b.ops 59 true false
  | .fsqrt _ r a _ => r.ops 32 false true ++ a.ops 50 true false
  | .fma _ r a b c _ => r.ops 32 false true ++ a.ops 50 true false ++ b.ops 59 true false ++ c.ops 68 true false
  | .fms _ r a b c _ => r.ops 32 false true ++ a.ops 50 true false ++ b.ops 59 true false ++ c.ops 68 true false
  | .fnma _ r a b c _ => r.ops 32 false true ++ a.ops 50 true false ++ b.ops 59 true false ++ c.ops 68 true false
  | .fcmpEq _ kt kf a b _ => kt.ops 32 false true ++ kf.ops 41 false true ++ a.ops 50 true false ++ b.ops 59 true false
  | .fcmpNe _ kt kf a b _ => kt.ops 32 false true ++ kf.ops 41 false true ++ a.ops 50 true false ++ b.ops 59 true false
  | .fcmpLt _ kt kf a b _ => kt.ops 32 false true ++ kf.ops 41 false true ++ a.ops 50 true false ++ b.ops 59 true false
  | .fcmpGe _ kt kf a b _ => kt.ops 32 false true ++ kf.ops 41 false true ++ a.ops 50 true false ++ b.ops 59 true false
  | .fcmpUn _ kt kf a b _ => kt.ops 32 false true ++ kf.ops 41 false true ++ a.ops 50 true false ++ b.ops 59 true false
  | .fcvt _ r a _ _ _ => r.ops 32 false true ++ a.ops 50 true false
  | .fclass _ r a _ => r.ops 32 false true ++ a.ops 50 true false
  | .vadd _ d a b => d.ops 32 false true ++ a.ops 50 true false ++ b.ops 59 true false
  | .vsub _ d a b => d.ops 32 false true ++ a.ops 50 true false ++ b.ops 59 true false
  | .vmul _ d a b => d.ops 32 false true ++ a.ops 50 true false ++ b.ops 59 true false
  | .vmin _ d a b => d.ops 32 false true ++ a.ops 50 true false ++ b.ops 59 true false
  | .vmax _ d a b => d.ops 32 false true ++ a.ops 50 true false ++ b.ops 59 true false
  | .vand _ d a b => d.ops 32 false true ++ a.ops 50 true false ++ b.ops 59 true false
  | .vor _ d a b => d.ops 32 false true ++ a.ops 50 true false ++ b.ops 59 true false
  | .vxor _ d a b => d.ops 32 false true ++ a.ops 50 true false ++ b.ops 59 true false
  | .vandn _ d a b => d.ops 32 false true ++ a.ops 50 true false ++ b.ops 59 true false
  | .vshl _ d a b => d.ops 32 false true ++ a.ops 50 true false ++ b.ops 59 true false
  | .vshr _ d a b => d.ops 32 false true ++ a.ops 50 true false ++ b.ops 59 true false
  | .vsra _ d a b => d.ops 32 false true ++ a.ops 50 true false ++ b.ops 59 true false
  | .vfma _ d a b c => d.ops 32 false true ++ a.ops 50 true false ++ b.ops 59 true false ++ c.ops 68 true false
  | .vfms _ d a b c => d.ops 32 false true ++ a.ops 50 true false ++ b.ops 59 true false ++ c.ops 68 true false
  | .vfnma _ d a b c => d.ops 32 false true ++ a.ops 50 true false ++ b.ops 59 true false ++ c.ops 68 true false
  | .vcmpEq _ d a b => d.ops 32 false true ++ a.ops 50 true false ++ b.ops 59 true false
  | .vcmpNe _ d a b => d.ops 32 false true ++ a.ops 50 true false ++ b.ops 59 true false
  | .vcmpLt _ d a b => d.ops 32 false true ++ a.ops 50 true false ++ b.ops 59 true false
  | .vcmpGe _ d a b => d.ops 32 false true ++ a.ops 50 true false ++ b.ops 59 true false
  | .vcmpLtu _ d a b => d.ops 32 false true ++ a.ops 50 true false ++ b.ops 59 true false
  | .vcmpGeu _ d a b => d.ops 32 false true ++ a.ops 50 true false ++ b.ops 59 true false
  | .vcmpUn _ d a b => d.ops 32 false true ++ a.ops 50 true false ++ b.ops 59 true false
  | .vsel _ d k a b => d.ops 32 false true ++ k.ops 50 true false ++ a.ops 59 true false ++ b.ops 68 true false
  | .vabs _ d a => d.ops 32 false true ++ a.ops 50 true false
  | .vneg _ d a => d.ops 32 false true ++ a.ops 50 true false
  | .vdot _ d a b _ => d.ops 32 false true ++ a.ops 50 true false ++ b.ops 59 true false
  | .vsum _ d a _ => d.ops 32 false true ++ a.ops 50 true false
  | .vcvt _ d a _ _ _ => d.ops 32 false true ++ a.ops 50 true false
  | .vtag _ d a _ => d.ops 32 false true ++ a.ops 50 true false
  | .vgtag _ d a => d.ops 32 false true ++ a.ops 50 true false
  | .vsplat _ d a _ => d.ops 32 false true ++ a.ops 50 true false
  | .vext _ d a l => d.ops 32 false true ++ a.ops 50 true false ++ l.ops 59 true false
  | .vins _ d a x l => d.ops 32 false true ++ a.ops 50 true false ++ x.ops 59 true false ++ l.ops 68 true false
  | .vperm _ d a b => d.ops 32 false true ++ a.ops 50 true false ++ b.ops 59 true false
  | .vpack _ d a b _ => d.ops 32 false true ++ a.ops 50 true false ++ b.ops 59 true false
  | .vunpkLo _ d a _ => d.ops 32 false true ++ a.ops 50 true false
  | .vunpkHi _ d a _ => d.ops 32 false true ++ a.ops 50 true false
  | .vsfnExp2 _ d a => d.ops 32 false true ++ a.ops 50 true false
  | .vsfnLog2 _ d a => d.ops 32 false true ++ a.ops 50 true false
  | .vsfnRcp _ d a => d.ops 32 false true ++ a.ops 50 true false
  | .vsfnRsqrt _ d a => d.ops 32 false true ++ a.ops 50 true false
  | .vsfnTanh _ d a => d.ops 32 false true ++ a.ops 50 true false
  | .vsfnSigm _ d a => d.ops 32 false true ++ a.ops 50 true false
  | .vsfnSilu _ d a => d.ops 32 false true ++ a.ops 50 true false
  | .vsfnErf _ d a => d.ops 32 false true ++ a.ops 50 true false
  | .mzero _ m => m.ops 32 false true
  | .mma _ m a b _ _ _ => m.ops 32 true true ++ a.ops 41 true false ++ b.ops 50 true false
  | .mload _ m a => m.ops 32 false true ++ a.ops 41 true false
  | .mstore _ a m => a.ops 41 true false ++ m.ops 50 true false
  | .mcvt _ m t _ => m.ops 41 true false ++ t.ops 50 true false
  | .mmvGet _ d m p => d.ops 32 false true ++ m.ops 50 true false ++ p.ops 59 true false
  | .mmvPut _ m a p => m.ops 32 false true ++ a.ops 50 true false ++ p.ops 59 true false
  | .mwait _ m => m.ops 50 true false
  | .gemv _ a n res _ _ _ mem => a.ops 41 true false ++ n.ops 50 true false ++ (if mem then res.ops 59 true false else [])
  | .mspill _ a => a.ops 41 true false
  | .mrest _ a => a.ops 41 true false
  | .ld _ d ea _ => d.ops 32 false true ++ ea.ops
  | .ldSx _ d ea _ => d.ops 32 false true ++ ea.ops
  | .st _ x ea _ => x.ops 32 true false ++ ea.ops
  | .ldv _ d ea _ => d.ops 32 false true ++ ea.ops
  | .stv _ x ea _ => x.ops 32 true false ++ ea.ops
  | .ldc _ d ea _ => d.ops 32 false true ++ ea.ops
  | .ldcSx _ d ea _ => d.ops 32 false true ++ ea.ops
  | .ldt _ d n o _ _ => d.ops 32 false true ++ n.ops 41 true false ++ o.ops 50 true false
  | .stt _ n o x _ => n.ops 41 true false ++ o.ops 50 true false ++ x.ops 59 true false
  | .pref _ ea => ea.ops
  | .prefi _ ea _ => ea.ops
  | .rdef _ base lg n _ => base.ops 41 true false ++ lg.ops 50 true false ++ n.ops 59 true false
  | .racq _ d _ => d.ops 32 false true
  | .racqFree _ d _ => d.ops 32 false true
  | .rrel _ a _ => a.ops 41 true false
  | .rres _ _ => []
  | .rpub _ a _ => a.ops 41 true false
  | .send _ a c n _ => a.ops 41 true false ++ c.ops 50 true false ++ n.ops 59 true false
  | .cpy _ a => a.ops 41 true false
  | .seal _ d => d.ops 32 false true
  | .bwait _ n => n.ops 41 true false
  | .tsub _ f n _ _ => f.ops 41 true false ++ n.ops 50 true false
  | .tdrain _ f n _ _ => f.ops 41 true false ++ n.ops 50 true false
  | .gath _ d i _ cnt => d.ops 32 false true ++ i.manyOps 41 cnt
  | .tfind _ k n _ => k.ops 32 false true ++ n.ops 41 true false
  | .tnear _ n dims _ => n.ops 41 true false ++ dims.ops 50 true false
  | .thalo _ n die _ => n.ops 41 true false ++ die.ops 50 true false
  | .tdrop _ _ => []
  | .tflush _ _ => []
  | .tdef _ t a => t.ops 41 true false ++ a.ops 50 true false
  | .tget _ t a => t.ops 41 true false ++ a.ops 50 true false
  | .tkill _ t => t.ops 41 true false
  | .amo _ d ea _ x _ _ _ => d.ops 32 false true ++ ea.ops ++ x.ops 99 true false
  | .red _ ea _ x _ _ _ => ea.ops ++ x.ops 99 true false
  | .cas _ d ea _ x _ _ => d.ops 32 true true ++ ea.ops ++ x.ops 99 true false
  | .lda _ d ea _ _ => d.ops 32 false true ++ ea.ops
  | .stl _ x ea _ _ => x.ops 32 true false ++ ea.ops
  | .fence _ _ => []
  | .xfence _ _ _ => []
  | .tilset _ t a => t.ops 50 true false ++ a.ops 59 true false
  | .tilget _ d t => d.ops 32 false true ++ t.ops 50 true false
  | .tilarm _ t => t.ops 50 true false
  | .start _ d p a b => d.ops 32 false true ++ p.ops 50 true false ++ a.ops 59 true false ++ b.ops 68 true false
  | .startTry _ d k p a b => d.ops 32 false true ++ k.ops 41 false true ++ p.ops 50 true false ++ a.ops 59 true false ++ b.ops 68 true false
  | .amsg _ c p sn => c.ops 50 true false ++ p.ops 59 true false ++ sn.pairOps 68
  | .amsgTry _ k c p sn => k.ops 32 false true ++ c.ops 50 true false ++ p.ops 59 true false ++ sn.pairOps 68
  | .exit _ => []
  | .yield _ => []
  | .wait _ d m => d.ops 32 false true ++ m.ops 50 true false
  | .sig _ c b => c.ops 50 true false ++ b.ops 59 true false
  | .bar _ => []
  | .barX _ => []
  | .arrive _ => []
  | .xsend _ a ch => a.ops 50 true false ++ ch.ops 59 true false
  | .xsel _ d ch => d.ops 32 false true ++ ch.ops 50 true false
  | .dom _ x => x.ops 50 true false
  | .park _ ev live => ev.ops 50 true false ++ live.ops 59 true false
  | .parkTry _ k ev live => k.ops 32 false true ++ ev.ops 50 true false ++ live.ops 59 true false
  | .enq _ stg a => stg.ops 50 true false ++ a.ops 59 true false
  | .enqTry _ k stg a => k.ops 32 false true ++ stg.ops 50 true false ++ a.ops 59 true false
  | .jinit _ d n a => d.ops 32 false true ++ n.ops 50 true false ++ a.ops 59 true false
  | .jinitTry _ d k n a => d.ops 32 false true ++ k.ops 41 false true ++ n.ops 50 true false ++ a.ops 59 true false
  | .jdone _ c => c.ops 50 true false
  | .stdecl _ stg a => stg.ops 50 true false ++ a.ops 59 true false
  | .dist _ stg first last _ => stg.ops 50 true false ++ first.ops 59 true false ++ last.ops 68 true false
  | .scall _ _ _ => implicitSrcs [1, 2, 3, 4, 5, 6]
  | .scallSc _ _ _ => implicitSrcs [1, 2, 3, 4, 5, 6]
  | .fold _ dh ds e _ => dh.ops 32 false true ++ ds.ops 41 false true ++ e.ops 50 true false ++ implicitSrcs [1, 2, 3, 4, 5, 6, 7, 8]
  | .callh _ x => x.ops 50 true false ++ [implicitDst 63]
  | .relh _ x => x.ops 50 true false
  | .hstat _ d x => d.ops 32 false true ++ x.ops 50 true false
  | .mfc _ d _ => d.ops 32 false true
  | .mtc _ x _ => x.ops 50 true false
  | .mtcLmcfg _ x => x.ops 50 true false
  | .mtcMxcnt _ x => x.ops 50 true false
  | .mtcStatus _ x => x.ops 50 true false
  | .csave _ c => c.ops 50 true false
  | .crest _ c => c.ops 50 true false
  | .nispl _ c => c.ops 50 true false
  | .jrnl _ da dd e => da.ops 32 false true ++ dd.ops 41 false true ++ e.ops 50 true false
  | .tlbi _ a => a.ops 50 true false
  | .tlbiAll _ => []
  | .time _ d => d.ops 32 false true
  | .unassignedOp _ => []
  | .activeMessageArrival => []
  | .signalArrival => []
  | .watchdog => []
  | .barrierArrival => []
  | .barrierEpisodeComplete => []
  | .engineInstrComplete => []
  | .mmaPairStep => []
  | .mcvtTilePublish => []
  | .gemvResultDelivery => []
  | .sendDelivery => []
  | .copyComplete => []
  | .loaderTilePush => []
  | .storerTileWrite => []
  | .postedWritePerformed => []
  | .postedWriteRefused => []
  | .pageModeWindow => []
  | .purseWindow => []
  | .purseAdmit => []
  | .stageBalance => []
  | .recordDispatch => []
  | .parkEventComplete => []
  | .joinDecrement => []
  | .distChunkDeal => []
  | .distChunkComplete => []
  | .replyPublish => []
  | .protect => []
  | .freeze => []
  | .unfreeze => []
  | .todev => []
  | .tohost => []
  | .pageFlipComplete => []
  | .query => []
  | .unmap => []
  | .map => []
  | .quota => []
  | .assign => []
  | .setquota => []
  | .setpurse => []
  | .keyassign => []
  | .arena => []
  | .foldRequestServe => []
  | .handlerEntry => []
  | .asyncTrapTake => []
  | .preempt => []
  | .trapMessageCollect => []
  | .trapMessageMerge => []
  | .faultAnswer => []
  | .prgResponse => []
  | .translationCompletion => []
  | .invalidateRequest => []
  | .ifetchLookup => []
  | .icacheFill => []
  | .imageLoad => []
  | .patrolScrub => []
  | .bankRebuildRow => []
  | .cxlLinkDown => []
  | .cxlLinkRetrain => []
  | .retentionTimeout => []
  | .dieFence => []
  | .filidPacketArrival => []
  | .filidPacketDeliver => []
  | .launch => []
  | .kcmd => []
  | .fenceRegister => []
  | .scaleRouteWrite => []
  | .barRegisterWrite => []
  | .functionLevelReset => []
  | .hostCxlWrite => []
  | .scalePacketArrival => []
  | .getVersion => []
  | .getCapabilities => []
  | .negotiateAlgorithms => []
  | .getDigests => []
  | .getCertificate => []
  | .challenge => []
  | .getMeasurements => []
  | .serviceLevelChange => []
  | .supplySag => []
  | .clockRecover => []
  | .reset => []
  | .tileOperationComplete => []
  | .keyLoadDone => []
  | .priEnable => []
  | .softError => []

/-- The header of an instruction; an event and an unassigned word have none that acts. -/
def Instr.header (i : Instr) : Header :=
  match i with
  | .nop h => h
  | .br h _ => h
  | .brl h _ => h
  | .ret h => h
  | .jt h _ _ _ _ => h
  | .land h _ _ => h
  | .loop h _ _ => h
  | .trap h _ => h
  | .eret h => h
  | .add h _ _ _ => h
  | .sub h _ _ _ => h
  | .and h _ _ _ => h
  | .or h _ _ _ => h
  | .xor h _ _ _ => h
  | .andn h _ _ _ => h
  | .shl h _ _ _ => h
  | .shr h _ _ _ => h
  | .sra h _ _ _ => h
  | .rol h _ _ _ => h
  | .min h _ _ _ => h
  | .max h _ _ _ => h
  | .minu h _ _ _ => h
  | .maxu h _ _ _ => h
  | .addImm h _ _ _ => h
  | .subImm h _ _ _ => h
  | .andImm h _ _ _ => h
  | .orImm h _ _ _ => h
  | .xorImm h _ _ _ => h
  | .andnImm h _ _ _ => h
  | .shlImm h _ _ _ => h
  | .shrImm h _ _ _ => h
  | .sraImm h _ _ _ => h
  | .rolImm h _ _ _ => h
  | .minImm h _ _ _ => h
  | .maxImm h _ _ _ => h
  | .minuImm h _ _ _ => h
  | .maxuImm h _ _ _ => h
  | .mul h _ _ _ => h
  | .mulh h _ _ _ => h
  | .mulhu h _ _ _ => h
  | .div h _ _ _ => h
  | .divu h _ _ _ => h
  | .rem h _ _ _ => h
  | .remu h _ _ _ => h
  | .clz h _ _ => h
  | .ctz h _ _ => h
  | .popc h _ _ => h
  | .sext h _ _ _ => h
  | .zext h _ _ _ => h
  | .bext h _ _ _ _ => h
  | .bins h _ _ _ _ _ => h
  | .cmpEq h _ _ _ _ => h
  | .cmpNe h _ _ _ _ => h
  | .cmpLt h _ _ _ _ => h
  | .cmpGe h _ _ _ _ => h
  | .cmpLtu h _ _ _ _ => h
  | .cmpGeu h _ _ _ _ => h
  | .cmpEqImm h _ _ _ _ => h
  | .cmpNeImm h _ _ _ _ => h
  | .cmpLtImm h _ _ _ _ => h
  | .cmpGeImm h _ _ _ _ => h
  | .cmpLtuImm h _ _ _ _ => h
  | .cmpGeuImm h _ _ _ _ => h
  | .sel h _ _ _ _ => h
  | .plogAnd h _ _ _ => h
  | .plogOr h _ _ _ => h
  | .plogXor h _ _ _ => h
  | .plogAndn h _ _ _ => h
  | .movi h _ _ => h
  | .mov h _ => h
  | .lea h _ _ => h
  | .gaddr h _ _ _ => h
  | .dtset h _ _ => h
  | .fadd h _ _ _ _ => h
  | .fsub h _ _ _ _ => h
  | .fmul h _ _ _ _ => h
  | .fdiv h _ _ _ _ => h
  | .fmin h _ _ _ _ => h
  | .fmax h _ _ _ _ => h
  | .fsqrt h _ _ _ => h
  | .fma h _ _ _ _ _ => h
  | .fms h _ _ _ _ _ => h
  | .fnma h _ _ _ _ _ => h
  | .fcmpEq h _ _ _ _ _ => h
  | .fcmpNe h _ _ _ _ _ => h
  | .fcmpLt h _ _ _ _ _ => h
  | .fcmpGe h _ _ _ _ _ => h
  | .fcmpUn h _ _ _ _ _ => h
  | .fcvt h _ _ _ _ _ => h
  | .fclass h _ _ _ => h
  | .vadd h _ _ _ => h
  | .vsub h _ _ _ => h
  | .vmul h _ _ _ => h
  | .vmin h _ _ _ => h
  | .vmax h _ _ _ => h
  | .vand h _ _ _ => h
  | .vor h _ _ _ => h
  | .vxor h _ _ _ => h
  | .vandn h _ _ _ => h
  | .vshl h _ _ _ => h
  | .vshr h _ _ _ => h
  | .vsra h _ _ _ => h
  | .vfma h _ _ _ _ => h
  | .vfms h _ _ _ _ => h
  | .vfnma h _ _ _ _ => h
  | .vcmpEq h _ _ _ => h
  | .vcmpNe h _ _ _ => h
  | .vcmpLt h _ _ _ => h
  | .vcmpGe h _ _ _ => h
  | .vcmpLtu h _ _ _ => h
  | .vcmpGeu h _ _ _ => h
  | .vcmpUn h _ _ _ => h
  | .vsel h _ _ _ _ => h
  | .vabs h _ _ => h
  | .vneg h _ _ => h
  | .vdot h _ _ _ _ => h
  | .vsum h _ _ _ => h
  | .vcvt h _ _ _ _ _ => h
  | .vtag h _ _ _ => h
  | .vgtag h _ _ => h
  | .vsplat h _ _ _ => h
  | .vext h _ _ _ => h
  | .vins h _ _ _ _ => h
  | .vperm h _ _ _ => h
  | .vpack h _ _ _ _ => h
  | .vunpkLo h _ _ _ => h
  | .vunpkHi h _ _ _ => h
  | .vsfnExp2 h _ _ => h
  | .vsfnLog2 h _ _ => h
  | .vsfnRcp h _ _ => h
  | .vsfnRsqrt h _ _ => h
  | .vsfnTanh h _ _ => h
  | .vsfnSigm h _ _ => h
  | .vsfnSilu h _ _ => h
  | .vsfnErf h _ _ => h
  | .mzero h _ => h
  | .mma h _ _ _ _ _ _ => h
  | .mload h _ _ => h
  | .mstore h _ _ => h
  | .mcvt h _ _ _ => h
  | .mmvGet h _ _ _ => h
  | .mmvPut h _ _ _ => h
  | .mwait h _ => h
  | .gemv h _ _ _ _ _ _ _ => h
  | .mspill h _ => h
  | .mrest h _ => h
  | .ld h _ _ _ => h
  | .ldSx h _ _ _ => h
  | .st h _ _ _ => h
  | .ldv h _ _ _ => h
  | .stv h _ _ _ => h
  | .ldc h _ _ _ => h
  | .ldcSx h _ _ _ => h
  | .ldt h _ _ _ _ _ => h
  | .stt h _ _ _ _ => h
  | .pref h _ => h
  | .prefi h _ _ => h
  | .rdef h _ _ _ _ => h
  | .racq h _ _ => h
  | .racqFree h _ _ => h
  | .rrel h _ _ => h
  | .rres h _ => h
  | .rpub h _ _ => h
  | .send h _ _ _ _ => h
  | .cpy h _ => h
  | .seal h _ => h
  | .bwait h _ => h
  | .tsub h _ _ _ _ => h
  | .tdrain h _ _ _ _ => h
  | .gath h _ _ _ _ => h
  | .tfind h _ _ _ => h
  | .tnear h _ _ _ => h
  | .thalo h _ _ _ => h
  | .tdrop h _ => h
  | .tflush h _ => h
  | .tdef h _ _ => h
  | .tget h _ _ => h
  | .tkill h _ => h
  | .amo h _ _ _ _ _ _ _ => h
  | .red h _ _ _ _ _ _ => h
  | .cas h _ _ _ _ _ _ => h
  | .lda h _ _ _ _ => h
  | .stl h _ _ _ _ => h
  | .fence h _ => h
  | .xfence h _ _ => h
  | .tilset h _ _ => h
  | .tilget h _ _ => h
  | .tilarm h _ => h
  | .start h _ _ _ _ => h
  | .startTry h _ _ _ _ _ => h
  | .amsg h _ _ _ => h
  | .amsgTry h _ _ _ _ => h
  | .exit h => h
  | .yield h => h
  | .wait h _ _ => h
  | .sig h _ _ => h
  | .bar h => h
  | .barX h => h
  | .arrive h => h
  | .xsend h _ _ => h
  | .xsel h _ _ => h
  | .dom h _ => h
  | .park h _ _ => h
  | .parkTry h _ _ _ => h
  | .enq h _ _ => h
  | .enqTry h _ _ _ => h
  | .jinit h _ _ _ => h
  | .jinitTry h _ _ _ _ => h
  | .jdone h _ => h
  | .stdecl h _ _ => h
  | .dist h _ _ _ _ => h
  | .scall h _ _ => h
  | .scallSc h _ _ => h
  | .fold h _ _ _ _ => h
  | .callh h _ => h
  | .relh h _ => h
  | .hstat h _ _ => h
  | .mfc h _ _ => h
  | .mtc h _ _ => h
  | .mtcLmcfg h _ => h
  | .mtcMxcnt h _ => h
  | .mtcStatus h _ => h
  | .csave h _ => h
  | .crest h _ => h
  | .nispl h _ => h
  | .jrnl h _ _ _ => h
  | .tlbi h _ => h
  | .tlbiAll h => h
  | .time h _ => h
  | .unassignedOp _ => {}
  | .activeMessageArrival => {}
  | .signalArrival => {}
  | .watchdog => {}
  | .barrierArrival => {}
  | .barrierEpisodeComplete => {}
  | .engineInstrComplete => {}
  | .mmaPairStep => {}
  | .mcvtTilePublish => {}
  | .gemvResultDelivery => {}
  | .sendDelivery => {}
  | .copyComplete => {}
  | .loaderTilePush => {}
  | .storerTileWrite => {}
  | .postedWritePerformed => {}
  | .postedWriteRefused => {}
  | .pageModeWindow => {}
  | .purseWindow => {}
  | .purseAdmit => {}
  | .stageBalance => {}
  | .recordDispatch => {}
  | .parkEventComplete => {}
  | .joinDecrement => {}
  | .distChunkDeal => {}
  | .distChunkComplete => {}
  | .replyPublish => {}
  | .protect => {}
  | .freeze => {}
  | .unfreeze => {}
  | .todev => {}
  | .tohost => {}
  | .pageFlipComplete => {}
  | .query => {}
  | .unmap => {}
  | .map => {}
  | .quota => {}
  | .assign => {}
  | .setquota => {}
  | .setpurse => {}
  | .keyassign => {}
  | .arena => {}
  | .foldRequestServe => {}
  | .handlerEntry => {}
  | .asyncTrapTake => {}
  | .preempt => {}
  | .trapMessageCollect => {}
  | .trapMessageMerge => {}
  | .faultAnswer => {}
  | .prgResponse => {}
  | .translationCompletion => {}
  | .invalidateRequest => {}
  | .ifetchLookup => {}
  | .icacheFill => {}
  | .imageLoad => {}
  | .patrolScrub => {}
  | .bankRebuildRow => {}
  | .cxlLinkDown => {}
  | .cxlLinkRetrain => {}
  | .retentionTimeout => {}
  | .dieFence => {}
  | .filidPacketArrival => {}
  | .filidPacketDeliver => {}
  | .launch => {}
  | .kcmd => {}
  | .fenceRegister => {}
  | .scaleRouteWrite => {}
  | .barRegisterWrite => {}
  | .functionLevelReset => {}
  | .hostCxlWrite => {}
  | .scalePacketArrival => {}
  | .getVersion => {}
  | .getCapabilities => {}
  | .negotiateAlgorithms => {}
  | .getDigests => {}
  | .getCertificate => {}
  | .challenge => {}
  | .getMeasurements => {}
  | .serviceLevelChange => {}
  | .supplySag => {}
  | .clockRecover => {}
  | .reset => {}
  | .tileOperationComplete => {}
  | .keyLoadDone => {}
  | .priEnable => {}
  | .softError => {}

/-- The latency of an instruction whose latency is one number (R109, R148, R219, R220, R394), and 1 for `brl` and `loop`, whose row has
none (DESIGN CHOICE, log 63); the division, the
loads and the held instructions give theirs in their own meanings. -/
def Instr.latency (i : Instr) : Nat :=
  match i with
  | .nop _ => 1
  | .br _ _ => 1
  | .brl _ _ => 1
  | .ret _ => 1
  | .jt _ _ _ _ _ => 1
  | .land _ _ _ => 1
  | .loop _ _ _ => 1
  | .trap _ _ => 1
  | .eret _ => 1
  | .add _ _ _ _ => 1
  | .sub _ _ _ _ => 1
  | .and _ _ _ _ => 1
  | .or _ _ _ _ => 1
  | .xor _ _ _ _ => 1
  | .andn _ _ _ _ => 1
  | .shl _ _ _ _ => 1
  | .shr _ _ _ _ => 1
  | .sra _ _ _ _ => 1
  | .rol _ _ _ _ => 1
  | .min _ _ _ _ => 1
  | .max _ _ _ _ => 1
  | .minu _ _ _ _ => 1
  | .maxu _ _ _ _ => 1
  | .addImm _ _ _ _ => 1
  | .subImm _ _ _ _ => 1
  | .andImm _ _ _ _ => 1
  | .orImm _ _ _ _ => 1
  | .xorImm _ _ _ _ => 1
  | .andnImm _ _ _ _ => 1
  | .shlImm _ _ _ _ => 1
  | .shrImm _ _ _ _ => 1
  | .sraImm _ _ _ _ => 1
  | .rolImm _ _ _ _ => 1
  | .minImm _ _ _ _ => 1
  | .maxImm _ _ _ _ => 1
  | .minuImm _ _ _ _ => 1
  | .maxuImm _ _ _ _ => 1
  | .mul _ _ _ _ => 3
  | .mulh _ _ _ _ => 3
  | .mulhu _ _ _ _ => 3
  | .div _ _ _ _ => 1
  | .divu _ _ _ _ => 1
  | .rem _ _ _ _ => 1
  | .remu _ _ _ _ => 1
  | .clz _ _ _ => 1
  | .ctz _ _ _ => 1
  | .popc _ _ _ => 1
  | .sext _ _ _ _ => 1
  | .zext _ _ _ _ => 1
  | .bext _ _ _ _ _ => 1
  | .bins _ _ _ _ _ _ => 1
  | .cmpEq _ _ _ _ _ => 1
  | .cmpNe _ _ _ _ _ => 1
  | .cmpLt _ _ _ _ _ => 1
  | .cmpGe _ _ _ _ _ => 1
  | .cmpLtu _ _ _ _ _ => 1
  | .cmpGeu _ _ _ _ _ => 1
  | .cmpEqImm _ _ _ _ _ => 1
  | .cmpNeImm _ _ _ _ _ => 1
  | .cmpLtImm _ _ _ _ _ => 1
  | .cmpGeImm _ _ _ _ _ => 1
  | .cmpLtuImm _ _ _ _ _ => 1
  | .cmpGeuImm _ _ _ _ _ => 1
  | .sel _ _ _ _ _ => 1
  | .plogAnd _ _ _ _ => 1
  | .plogOr _ _ _ _ => 1
  | .plogXor _ _ _ _ => 1
  | .plogAndn _ _ _ _ => 1
  | .movi _ _ _ => 1
  | .mov _ _ => 1
  | .lea _ _ _ => 1
  | .gaddr _ _ _ _ => 1
  | .dtset _ _ _ => 1
  | .fadd _ _ _ _ _ => 3
  | .fsub _ _ _ _ _ => 3
  | .fmul _ _ _ _ _ => 4
  | .fdiv _ _ _ _ d => (if d then 24 else 12)
  | .fmin _ _ _ _ _ => 3
  | .fmax _ _ _ _ _ => 3
  | .fsqrt _ _ _ d => (if d then 24 else 12)
  | .fma _ _ _ _ _ _ => 4
  | .fms _ _ _ _ _ _ => 4
  | .fnma _ _ _ _ _ _ => 4
  | .fcmpEq _ _ _ _ _ _ => 3
  | .fcmpNe _ _ _ _ _ _ => 3
  | .fcmpLt _ _ _ _ _ _ => 3
  | .fcmpGe _ _ _ _ _ _ => 3
  | .fcmpUn _ _ _ _ _ _ => 3
  | .fcvt _ _ _ _ _ _ => 3
  | .fclass _ _ _ _ => 3
  | .vadd _ _ _ _ => 3
  | .vsub _ _ _ _ => 3
  | .vmul _ _ _ _ => 4
  | .vmin _ _ _ _ => 3
  | .vmax _ _ _ _ => 3
  | .vand _ _ _ _ => 1
  | .vor _ _ _ _ => 1
  | .vxor _ _ _ _ => 1
  | .vandn _ _ _ _ => 1
  | .vshl _ _ _ _ => 1
  | .vshr _ _ _ _ => 1
  | .vsra _ _ _ _ => 1
  | .vfma _ _ _ _ _ => 4
  | .vfms _ _ _ _ _ => 4
  | .vfnma _ _ _ _ _ => 4
  | .vcmpEq _ _ _ _ => 3
  | .vcmpNe _ _ _ _ => 3
  | .vcmpLt _ _ _ _ => 3
  | .vcmpGe _ _ _ _ => 3
  | .vcmpLtu _ _ _ _ => 3
  | .vcmpGeu _ _ _ _ => 3
  | .vcmpUn _ _ _ _ => 3
  | .vsel _ _ _ _ _ => 1
  | .vabs _ _ _ => 3
  | .vneg _ _ _ => 3
  | .vdot _ _ _ _ _ => 6
  | .vsum _ _ _ _ => 6
  | .vcvt _ _ _ _ _ _ => 3
  | .vtag _ _ _ _ => 1
  | .vgtag _ _ _ => 1
  | .vsplat _ _ _ _ => 1
  | .vext _ _ _ _ => 1
  | .vins _ _ _ _ _ => 1
  | .vperm _ _ _ _ => 1
  | .vpack _ _ _ _ _ => 3
  | .vunpkLo _ _ _ _ => 3
  | .vunpkHi _ _ _ _ => 3
  | .vsfnExp2 _ _ _ => 8
  | .vsfnLog2 _ _ _ => 8
  | .vsfnRcp _ _ _ => 8
  | .vsfnRsqrt _ _ _ => 8
  | .vsfnTanh _ _ _ => 8
  | .vsfnSigm _ _ _ => 8
  | .vsfnSilu _ _ _ => 8
  | .vsfnErf _ _ _ => 8
  | .mzero _ _ => 1
  | .mma _ _ _ _ _ _ _ => 1
  | .mload _ _ _ => 1
  | .mstore _ _ _ => 1
  | .mcvt _ _ _ _ => 1
  | .mmvGet _ _ _ _ => 2
  | .mmvPut _ _ _ _ => 2
  | .mwait _ _ => 1
  | .gemv _ _ _ _ _ _ _ _ => 1
  | .mspill _ _ => 1
  | .mrest _ _ => 1
  | .ld _ _ _ _ => 1
  | .ldSx _ _ _ _ => 1
  | .st _ _ _ _ => 1
  | .ldv _ _ _ _ => 1
  | .stv _ _ _ _ => 1
  | .ldc _ _ _ _ => 1
  | .ldcSx _ _ _ _ => 1
  | .ldt _ _ _ _ _ _ => 1
  | .stt _ _ _ _ _ => 1
  | .pref _ _ => 1
  | .prefi _ _ _ => 1
  | .rdef _ _ _ _ _ => 1
  | .racq _ _ _ => 1
  | .racqFree _ _ _ => 1
  | .rrel _ _ _ => 1
  | .rres _ _ => 1
  | .rpub _ _ _ => 1
  | .send _ _ _ _ _ => 1
  | .cpy _ _ => 1
  | .seal _ _ => 1
  | .bwait _ _ => 1
  | .tsub _ _ _ _ _ => 1
  | .tdrain _ _ _ _ _ => 1
  | .gath _ _ _ _ _ => 1
  | .tfind _ _ _ _ => 1
  | .tnear _ _ _ _ => 1
  | .thalo _ _ _ _ => 1
  | .tdrop _ _ => 1
  | .tflush _ _ => 1
  | .tdef _ _ _ => 1
  | .tget _ _ _ => 1
  | .tkill _ _ => 1
  | .amo _ _ _ _ _ _ _ _ => 1
  | .red _ _ _ _ _ _ _ => 1
  | .cas _ _ _ _ _ _ _ => 1
  | .lda _ _ _ _ _ => 1
  | .stl _ _ _ _ _ => 1
  | .fence _ _ => 1
  | .xfence _ _ _ => 1
  | .tilset _ _ _ => 1
  | .tilget _ _ _ => 1
  | .tilarm _ _ => 1
  | .start _ _ _ _ _ => 1
  | .startTry _ _ _ _ _ _ => 1
  | .amsg _ _ _ _ => 1
  | .amsgTry _ _ _ _ _ => 1
  | .exit _ => 1
  | .yield _ => 1
  | .wait _ _ _ => 1
  | .sig _ _ _ => 1
  | .bar _ => 1
  | .barX _ => 1
  | .arrive _ => 1
  | .xsend _ _ _ => 1
  | .xsel _ _ _ => 1
  | .dom _ _ => 1
  | .park _ _ _ => 1
  | .parkTry _ _ _ _ => 1
  | .enq _ _ _ => 1
  | .enqTry _ _ _ _ => 1
  | .jinit _ _ _ _ => 1
  | .jinitTry _ _ _ _ _ => 1
  | .jdone _ _ => 1
  | .stdecl _ _ _ => 1
  | .dist _ _ _ _ _ => 1
  | .scall _ _ _ => 1
  | .scallSc _ _ _ => 1
  | .fold _ _ _ _ _ => 1
  | .callh _ _ => 1
  | .relh _ _ => 1
  | .hstat _ _ _ => 1
  | .mfc _ _ _ => 1
  | .mtc _ _ _ => 1
  | .mtcLmcfg _ _ => 1
  | .mtcMxcnt _ _ => 1
  | .mtcStatus _ _ => 1
  | .csave _ _ => 1
  | .crest _ _ => 1
  | .nispl _ _ => 1
  | .jrnl _ _ _ _ => 1
  | .tlbi _ _ => 1
  | .tlbiAll _ => 1
  | .time _ _ => 1
  | .unassignedOp _ => 1
  | .activeMessageArrival => 1
  | .signalArrival => 1
  | .watchdog => 1
  | .barrierArrival => 1
  | .barrierEpisodeComplete => 1
  | .engineInstrComplete => 1
  | .mmaPairStep => 1
  | .mcvtTilePublish => 1
  | .gemvResultDelivery => 1
  | .sendDelivery => 1
  | .copyComplete => 1
  | .loaderTilePush => 1
  | .storerTileWrite => 1
  | .postedWritePerformed => 1
  | .postedWriteRefused => 1
  | .pageModeWindow => 1
  | .purseWindow => 1
  | .purseAdmit => 1
  | .stageBalance => 1
  | .recordDispatch => 1
  | .parkEventComplete => 1
  | .joinDecrement => 1
  | .distChunkDeal => 1
  | .distChunkComplete => 1
  | .replyPublish => 1
  | .protect => 1
  | .freeze => 1
  | .unfreeze => 1
  | .todev => 1
  | .tohost => 1
  | .pageFlipComplete => 1
  | .query => 1
  | .unmap => 1
  | .map => 1
  | .quota => 1
  | .assign => 1
  | .setquota => 1
  | .setpurse => 1
  | .keyassign => 1
  | .arena => 1
  | .foldRequestServe => 1
  | .handlerEntry => 1
  | .asyncTrapTake => 1
  | .preempt => 1
  | .trapMessageCollect => 1
  | .trapMessageMerge => 1
  | .faultAnswer => 1
  | .prgResponse => 1
  | .translationCompletion => 1
  | .invalidateRequest => 1
  | .ifetchLookup => 1
  | .icacheFill => 1
  | .imageLoad => 1
  | .patrolScrub => 1
  | .bankRebuildRow => 1
  | .cxlLinkDown => 1
  | .cxlLinkRetrain => 1
  | .retentionTimeout => 1
  | .dieFence => 1
  | .filidPacketArrival => 1
  | .filidPacketDeliver => 1
  | .launch => 1
  | .kcmd => 1
  | .fenceRegister => 1
  | .scaleRouteWrite => 1
  | .barRegisterWrite => 1
  | .functionLevelReset => 1
  | .hostCxlWrite => 1
  | .scalePacketArrival => 1
  | .getVersion => 1
  | .getCapabilities => 1
  | .negotiateAlgorithms => 1
  | .getDigests => 1
  | .getCertificate => 1
  | .challenge => 1
  | .getMeasurements => 1
  | .serviceLevelChange => 1
  | .supplySag => 1
  | .clockRecover => 1
  | .reset => 1
  | .tileOperationComplete => 1
  | .keyLoadDone => 1
  | .priEnable => 1
  | .softError => 1

/-- Whether R109, R148, R175, R218, R221, R244, R266 and R294 let an instruction stand in an exchange phase; the
local loads and stores are further checked by their address (R294). -/
def Instr.inExchange (i : Instr) : Bool :=
  match i with
  | .nop _ => true
  | .br _ _ => false
  | .brl _ _ => false
  | .ret _ => false
  | .jt _ _ _ _ _ => false
  | .land _ _ _ => false
  | .loop _ _ _ => false
  | .trap _ _ => false
  | .eret _ => false
  | .add _ _ _ _ => true
  | .sub _ _ _ _ => true
  | .and _ _ _ _ => true
  | .or _ _ _ _ => true
  | .xor _ _ _ _ => true
  | .andn _ _ _ _ => true
  | .shl _ _ _ _ => true
  | .shr _ _ _ _ => true
  | .sra _ _ _ _ => true
  | .rol _ _ _ _ => true
  | .min _ _ _ _ => true
  | .max _ _ _ _ => true
  | .minu _ _ _ _ => true
  | .maxu _ _ _ _ => true
  | .addImm _ _ _ _ => true
  | .subImm _ _ _ _ => true
  | .andImm _ _ _ _ => true
  | .orImm _ _ _ _ => true
  | .xorImm _ _ _ _ => true
  | .andnImm _ _ _ _ => true
  | .shlImm _ _ _ _ => true
  | .shrImm _ _ _ _ => true
  | .sraImm _ _ _ _ => true
  | .rolImm _ _ _ _ => true
  | .minImm _ _ _ _ => true
  | .maxImm _ _ _ _ => true
  | .minuImm _ _ _ _ => true
  | .maxuImm _ _ _ _ => true
  | .mul _ _ _ _ => true
  | .mulh _ _ _ _ => true
  | .mulhu _ _ _ _ => true
  | .div _ _ _ _ => false
  | .divu _ _ _ _ => false
  | .rem _ _ _ _ => false
  | .remu _ _ _ _ => false
  | .clz _ _ _ => true
  | .ctz _ _ _ => true
  | .popc _ _ _ => true
  | .sext _ _ _ _ => true
  | .zext _ _ _ _ => true
  | .bext _ _ _ _ _ => true
  | .bins _ _ _ _ _ _ => true
  | .cmpEq _ _ _ _ _ => true
  | .cmpNe _ _ _ _ _ => true
  | .cmpLt _ _ _ _ _ => true
  | .cmpGe _ _ _ _ _ => true
  | .cmpLtu _ _ _ _ _ => true
  | .cmpGeu _ _ _ _ _ => true
  | .cmpEqImm _ _ _ _ _ => true
  | .cmpNeImm _ _ _ _ _ => true
  | .cmpLtImm _ _ _ _ _ => true
  | .cmpGeImm _ _ _ _ _ => true
  | .cmpLtuImm _ _ _ _ _ => true
  | .cmpGeuImm _ _ _ _ _ => true
  | .sel _ _ _ _ _ => true
  | .plogAnd _ _ _ _ => true
  | .plogOr _ _ _ _ => true
  | .plogXor _ _ _ _ => true
  | .plogAndn _ _ _ _ => true
  | .movi _ _ _ => true
  | .mov _ _ => true
  | .lea _ _ _ => true
  | .gaddr _ _ _ _ => true
  | .dtset _ _ _ => false
  | .fadd _ _ _ _ _ => true
  | .fsub _ _ _ _ _ => true
  | .fmul _ _ _ _ _ => true
  | .fdiv _ _ _ _ _ => true
  | .fmin _ _ _ _ _ => true
  | .fmax _ _ _ _ _ => true
  | .fsqrt _ _ _ _ => true
  | .fma _ _ _ _ _ _ => true
  | .fms _ _ _ _ _ _ => true
  | .fnma _ _ _ _ _ _ => true
  | .fcmpEq _ _ _ _ _ _ => true
  | .fcmpNe _ _ _ _ _ _ => true
  | .fcmpLt _ _ _ _ _ _ => true
  | .fcmpGe _ _ _ _ _ _ => true
  | .fcmpUn _ _ _ _ _ _ => true
  | .fcvt _ _ _ _ _ _ => true
  | .fclass _ _ _ _ => true
  | .vadd _ _ _ _ => true
  | .vsub _ _ _ _ => true
  | .vmul _ _ _ _ => true
  | .vmin _ _ _ _ => true
  | .vmax _ _ _ _ => true
  | .vand _ _ _ _ => true
  | .vor _ _ _ _ => true
  | .vxor _ _ _ _ => true
  | .vandn _ _ _ _ => true
  | .vshl _ _ _ _ => true
  | .vshr _ _ _ _ => true
  | .vsra _ _ _ _ => true
  | .vfma _ _ _ _ _ => true
  | .vfms _ _ _ _ _ => true
  | .vfnma _ _ _ _ _ => true
  | .vcmpEq _ _ _ _ => true
  | .vcmpNe _ _ _ _ => true
  | .vcmpLt _ _ _ _ => true
  | .vcmpGe _ _ _ _ => true
  | .vcmpLtu _ _ _ _ => true
  | .vcmpGeu _ _ _ _ => true
  | .vcmpUn _ _ _ _ => true
  | .vsel _ _ _ _ _ => true
  | .vabs _ _ _ => true
  | .vneg _ _ _ => true
  | .vdot _ _ _ _ _ => true
  | .vsum _ _ _ _ => true
  | .vcvt _ _ _ _ _ _ => true
  | .vtag _ _ _ _ => true
  | .vgtag _ _ _ => true
  | .vsplat _ _ _ _ => true
  | .vext _ _ _ _ => true
  | .vins _ _ _ _ _ => true
  | .vperm _ _ _ _ => true
  | .vpack _ _ _ _ _ => true
  | .vunpkLo _ _ _ _ => true
  | .vunpkHi _ _ _ _ => true
  | .vsfnExp2 _ _ _ => true
  | .vsfnLog2 _ _ _ => true
  | .vsfnRcp _ _ _ => true
  | .vsfnRsqrt _ _ _ => true
  | .vsfnTanh _ _ _ => true
  | .vsfnSigm _ _ _ => true
  | .vsfnSilu _ _ _ => true
  | .vsfnErf _ _ _ => true
  | .mzero _ _ => false
  | .mma _ _ _ _ _ _ _ => false
  | .mload _ _ _ => false
  | .mstore _ _ _ => false
  | .mcvt _ _ _ _ => false
  | .mmvGet _ _ _ _ => false
  | .mmvPut _ _ _ _ => false
  | .mwait _ _ => false
  | .gemv _ _ _ _ _ _ _ _ => false
  | .mspill _ _ => false
  | .mrest _ _ => false
  | .ld _ _ _ _ => true
  | .ldSx _ _ _ _ => true
  | .st _ _ _ _ => true
  | .ldv _ _ _ _ => true
  | .stv _ _ _ _ => true
  | .ldc _ _ _ _ => false
  | .ldcSx _ _ _ _ => false
  | .ldt _ _ _ _ _ _ => false
  | .stt _ _ _ _ _ => false
  | .pref _ _ => false
  | .prefi _ _ _ => false
  | .rdef _ _ _ _ _ => false
  | .racq _ _ _ => false
  | .racqFree _ _ _ => false
  | .rrel _ _ _ => false
  | .rres _ _ => false
  | .rpub _ _ _ => false
  | .send _ _ _ _ _ => false
  | .cpy _ _ => false
  | .seal _ _ => false
  | .bwait _ _ => false
  | .tsub _ _ _ _ _ => false
  | .tdrain _ _ _ _ _ => false
  | .gath _ _ _ _ _ => false
  | .tfind _ _ _ _ => false
  | .tnear _ _ _ _ => false
  | .thalo _ _ _ _ => false
  | .tdrop _ _ => false
  | .tflush _ _ => false
  | .tdef _ _ _ => false
  | .tget _ _ _ => false
  | .tkill _ _ => false
  | .amo _ _ _ _ _ _ _ _ => false
  | .red _ _ _ _ _ _ _ => false
  | .cas _ _ _ _ _ _ _ => false
  | .lda _ _ _ _ _ => false
  | .stl _ _ _ _ _ => false
  | .fence _ _ => false
  | .xfence _ _ _ => false
  | .tilset _ _ _ => false
  | .tilget _ _ _ => false
  | .tilarm _ _ => false
  | .start _ _ _ _ _ => false
  | .startTry _ _ _ _ _ _ => false
  | .amsg _ _ _ _ => false
  | .amsgTry _ _ _ _ _ => false
  | .exit _ => false
  | .yield _ => false
  | .wait _ _ _ => false
  | .sig _ _ _ => false
  | .bar _ => true
  | .barX _ => false
  | .arrive _ => false
  | .xsend _ _ _ => true
  | .xsel _ _ _ => true
  | .dom _ _ => false
  | .park _ _ _ => false
  | .parkTry _ _ _ _ => false
  | .enq _ _ _ => false
  | .enqTry _ _ _ _ => false
  | .jinit _ _ _ _ => false
  | .jinitTry _ _ _ _ _ => false
  | .jdone _ _ => false
  | .stdecl _ _ _ => false
  | .dist _ _ _ _ _ => false
  | .scall _ _ _ => false
  | .scallSc _ _ _ => false
  | .fold _ _ _ _ _ => false
  | .callh _ _ => false
  | .relh _ _ => false
  | .hstat _ _ _ => false
  | .mfc _ _ _ => false
  | .mtc _ _ _ => false
  | .mtcLmcfg _ _ => false
  | .mtcMxcnt _ _ => false
  | .mtcStatus _ _ => false
  | .csave _ _ => false
  | .crest _ _ => false
  | .nispl _ _ => false
  | .jrnl _ _ _ _ => false
  | .tlbi _ _ => false
  | .tlbiAll _ => false
  | .time _ _ => false
  | .unassignedOp _ => false
  | .activeMessageArrival => false
  | .signalArrival => false
  | .watchdog => false
  | .barrierArrival => false
  | .barrierEpisodeComplete => false
  | .engineInstrComplete => false
  | .mmaPairStep => false
  | .mcvtTilePublish => false
  | .gemvResultDelivery => false
  | .sendDelivery => false
  | .copyComplete => false
  | .loaderTilePush => false
  | .storerTileWrite => false
  | .postedWritePerformed => false
  | .postedWriteRefused => false
  | .pageModeWindow => false
  | .purseWindow => false
  | .purseAdmit => false
  | .stageBalance => false
  | .recordDispatch => false
  | .parkEventComplete => false
  | .joinDecrement => false
  | .distChunkDeal => false
  | .distChunkComplete => false
  | .replyPublish => false
  | .protect => false
  | .freeze => false
  | .unfreeze => false
  | .todev => false
  | .tohost => false
  | .pageFlipComplete => false
  | .query => false
  | .unmap => false
  | .map => false
  | .quota => false
  | .assign => false
  | .setquota => false
  | .setpurse => false
  | .keyassign => false
  | .arena => false
  | .foldRequestServe => false
  | .handlerEntry => false
  | .asyncTrapTake => false
  | .preempt => false
  | .trapMessageCollect => false
  | .trapMessageMerge => false
  | .faultAnswer => false
  | .prgResponse => false
  | .translationCompletion => false
  | .invalidateRequest => false
  | .ifetchLookup => false
  | .icacheFill => false
  | .imageLoad => false
  | .patrolScrub => false
  | .bankRebuildRow => false
  | .cxlLinkDown => false
  | .cxlLinkRetrain => false
  | .retentionTimeout => false
  | .dieFence => false
  | .filidPacketArrival => false
  | .filidPacketDeliver => false
  | .launch => false
  | .kcmd => false
  | .fenceRegister => false
  | .scaleRouteWrite => false
  | .barRegisterWrite => false
  | .functionLevelReset => false
  | .hostCxlWrite => false
  | .scalePacketArrival => false
  | .getVersion => false
  | .getCapabilities => false
  | .negotiateAlgorithms => false
  | .getDigests => false
  | .getCertificate => false
  | .challenge => false
  | .getMeasurements => false
  | .serviceLevelChange => false
  | .supplySag => false
  | .clockRecover => false
  | .reset => false
  | .tileOperationComplete => false
  | .keyLoadDone => false
  | .priEnable => false
  | .softError => false

end Sys2Proof
end

