-- ==== Sys2Proof/Machine/Ops.lean ====
section
/-! DEFINITION. The named operations every meaning is written over: reaching a core, a context, a die; bytes of a
memory; release and acquire tables; starting and ending a context; taking a trap and a handler fault; issuing,
holding and retiring one instruction. -/

namespace Sys2Proof.Machine

/-! ## Reaching the parts of the state -/

def State.core (s : State) (c : CoreId) : Core := sparseGet {} s.cores c.toNat
def State.setCore (s : State) (c : CoreId) (x : Core) : State := { s with cores := sparsePut s.cores c.toNat x }
def Core.ctx (k : Core) (n : CtxNum) : Ctx := sparseGet {} k.ctxs n.toNat
def Core.setCtx (k : Core) (n : CtxNum) (x : Ctx) : Core := { k with ctxs := sparsePut k.ctxs n.toNat x }
def State.ctx (s : State) (c : CoreId) (n : CtxNum) : Ctx := (s.core c).ctx n
def State.setCtx (s : State) (c : CoreId) (n : CtxNum) (x : Ctx) : State := s.setCore c ((s.core c).setCtx n x)
def State.cluster (s : State) (c : ClusterId) : Cluster := sparseGet {} s.clusters c.toNat
def State.setCluster (s : State) (c : ClusterId) (x : Cluster) : State :=
  { s with clusters := sparsePut s.clusters c.toNat x }
def State.die (s : State) (d : Die) : DieState := sparseGet {} s.dies d.toNat
def State.setDie (s : State) (d : Die) (x : DieState) : State := { s with dies := sparsePut s.dies d.toNat x }
def State.sector (s : State) (d : Die) : Sector := sparseGet {} s.sectors d.toNat
def State.setSector (s : State) (d : Die) (x : Sector) : State := { s with sectors := sparsePut s.sectors d.toNat x }
def State.tenantSt (s : State) (t : Tenant) : TenantState := sparseGet {} s.tenants t.toNat
def State.setTenantSt (s : State) (t : Tenant) (x : TenantState) : State :=
  { s with tenants := sparsePut s.tenants t.toNat x }

/-- The core and the context that issue. -/
def State.myCore (s : State) : Core := s.core s.curCore
def State.me (s : State) : Ctx := s.ctx s.curCore s.curCtx
def State.setMyCore (s : State) (x : Core) : State := s.setCore s.curCore x
def State.setMe (s : State) (x : Ctx) : State := s.setCtx s.curCore s.curCtx x

/-- The cycle count of a core's die (R393). -/
def State.cycleAt (s : State) (c : CoreId) : Nat := (s.die (coreDie c)).cycle

/-- The time of the whole machine in units of 1/21 ns (the model's own). -/
def State.clock (s : State) : Nat := 21 * s.time + s.timeFrac

/-- The cycle count of the issuing core's die. -/
def State.now (s : State) : Nat := s.cycleAt s.curCore

/-- The tenant a core acts for (R366). -/
def State.tenantOf (s : State) (c : CoreId) : Tenant := (s.cluster (coreCluster c)).tenant

/-- The tenant of the issuing context. -/
def State.myTenant (s : State) : Tenant := s.tenantOf s.curCore

/-- The service level puts a die in service: none at 0, die.0 at 1, all at 2 and 3 (R438); a fenced die is not. -/
def State.inService (s : State) (d : Die) : Bool :=
  !(s.die d).fenced && !s.removed && (decide (2 ≤ s.svc.toNat) || (s.svc == 1 && d == 0))

/-! ## Ring records and journal entries of a core -/

def Core.ring (k : Core) (r : BitVec 4) : Ring := sparseGet {} k.rings r.toNat
def Core.setRing (k : Core) (r : BitVec 4) (x : Ring) : Core := { k with rings := sparsePut k.rings r.toNat x }
def Core.jentry (k : Core) (e : Nat) : JEntry := sparseGet {} k.journal e
def Core.setJentry (k : Core) (e : Nat) (x : JEntry) : Core := { k with journal := sparseAssign {} k.journal e x }

/-- The scratchpad size in bytes (R270). -/
def Core.scratch (k : Core) : Nat := k.sp.toNat * 16384

/-- The bytes of slot i of a ring lie at base + i·2^lg. -/
def Ring.slotBase (r : Ring) (i : Nat) : Nat := r.base.toNat + i * 2 ^ r.lg

/-- An `mtc` to `ctl.lmcfg` is held: arriving deliveries wait (R271). -/
def Core.splitting (k : Core) : Bool := (k.ctx 0).pend == .splitting

/-! ## Handles (R10, R198) -/

/-- A context handle: incarnation, core and context number. -/
def mkHandle (c : CoreId) (n : CtxNum) (inc : BitVec 8) : BitVec 28 := inc ++ (c ++ n)

def handleCore (h : BitVec 28) : CoreId := h.extractLsb' 4 16
def handleCtx (h : BitVec 28) : CtxNum := h.extractLsb' 0 4
def handleInc (h : BitVec 28) : BitVec 8 := h.extractLsb' 20 8

def State.handle (s : State) (c : CoreId) (n : CtxNum) : BitVec 28 := mkHandle c n (s.ctx c n).inc
def State.myHandle (s : State) : BitVec 28 := s.handle s.curCore s.curCtx

/-- The context a handle names is still the one it was addressed to (R205). -/
def State.handleLive (s : State) (h : BitVec 28) : Bool :=
  let c := s.ctx (handleCore h) (handleCtx h)
  c.run != .idle && c.inc == handleInc h

/-! ## Bytes of a memory -/

/-- One byte; an unlisted address reads zero (log 4). -/
def memByte (m : List Host.Cell) (a : Nat) : Byte := sparseGet 0 m a

/-- Writes one byte and keeps the canonical form. -/
def memSet (m : List Host.Cell) (a : Nat) (b : Byte) : List Host.Cell := sparseAssign 0 m a b

/-- The n bytes from an address, lowest first. -/
def memBytes (m : List Host.Cell) (a n : Nat) : List Byte := (List.range n).map (fun i => memByte m (a + i))

/-- Writes bytes from an address upward. -/
def memWrite (m : List Host.Cell) (a : Nat) : List Byte → List Host.Cell
  | [] => m
  | b :: bs => memWrite (memSet m a b) (a + 1) bs

/-- The canonical form of a memory: addresses strictly rising and no zero byte listed. -/
def memWf (m : List Host.Cell) : Bool := sparseWf 0 m

/-- The number of little-endian bytes (R6). -/
def bytesNat (bs : List Byte) : Nat := bs.foldr (fun b acc => b.toNat + 256 * acc) 0

/-- The n little-endian bytes of a number (R6). -/
def natBytes (n x : Nat) : List Byte := (List.range n).map (fun i => BitVec.ofNat 8 (x / 256 ^ i))

/-- A doubleword of local memory. -/
def Core.local64 (k : Core) (a : Nat) : Word := BitVec.ofNat 64 (bytesNat (memBytes k.mem a 8))

/-- The 64-bit word that starts at byte i of a list of bytes. -/
def wordAt (bs : List Byte) (i : Nat) : Word := BitVec.ofNat 64 (bytesNat ((bs.drop i).take 8))

/-! ## Release and acquire tables (R344, R346) -/

/-- a is later than b, modulo 2^w with a half window (R345). -/
def afterMod (w a b : Nat) : Bool := a % 2 ^ w != b % 2 ^ w && decide ((a + 2 ^ w - b % 2 ^ w) % 2 ^ w < 2 ^ (w - 1))

/-- The table entry of a party. -/
def acqFind (t : List AcqEntry) (till : Bool) (who : BitVec 28) : Option AcqEntry :=
  t.find? (fun e => e.till == till && e.who == who)

/-- Two entries of one party: the higher count is kept (R346). -/
def acqLater (a b : AcqEntry) : AcqEntry := if afterMod 24 a.count.toNat b.count.toNat then a else b

/-- Puts one entry into a table with no limit on its length. -/
def acqAdd (t : List AcqEntry) (e : AcqEntry) : List AcqEntry :=
  if t.any (fun x => x.till == e.till && x.who == e.who) then
    t.map (fun x => if x.till == e.till && x.who == e.who then acqLater e x else x)
  else t ++ [e]

/-- The entry with the lowest count. -/
def acqLowest : List AcqEntry → Option AcqEntry
  | [] => none
  | e :: t => match acqLowest t with
    | none => some e
    | some m => if m.count.toNat < e.count.toNat then some m else some e

/-- Merges a table into a context: beyond 16 entries the one with the lowest count goes and OVF is set (R344). -/
def Ctx.acquire (c : Ctx) (t : List AcqEntry) : Ctx :=
  t.foldl (fun c e =>
    let m := acqAdd c.acq e
    if m.length ≤ 16 then { c with acq := m }
    else match acqLowest m with
      | some l => { c with acq := m.erase l, mmOvf := true }
      | none => { c with acq := m }) c

/-- What a release of a context hands over: its table and its own entry with the count RC + 1 (R346). -/
def relTable (s : State) (core : CoreId) (n : CtxNum) : List AcqEntry :=
  let c := s.ctx core n
  acqAdd c.acq { till := false, who := s.handle core n, count := c.rc + 1 }

/-- RC rises by 1 when a release is performed (R344). -/
def bumpRc (s : State) (core : CoreId) (n : CtxNum) : State :=
  let c := s.ctx core n
  s.setCtx core n { c with rc := c.rc + 1 }

/-! ## Trap causes (R389, R390) -/

/-- The cause code (R390). -/
def Cause.code : Cause → BitVec 8
  | .illegal => 0x01 | .priv => 0x02 | .tag => 0x03 | .align => 0x04 | .divzero => 0x05 | .jtbound => 0x06
  | .land => 0x07 | .link => 0x08 | .watchdog => 0x09 | .exchange => 0x0A
  | .xlateMiss => 0x10 | .xlatePerm => 0x11 | .xlateHost => 0x12 | .pageMigrating => 0x13 | .fetch => 0x14
  | .race => 0x20 | .unproven => 0x21 | .frozenStore => 0x22 | .ring => 0x23
  | .tdtRank => 0x30 | .tdtAlign => 0x31 | .tdtTile => 0x32 | .tdtOverlap => 0x33 | .tdtFormat => 0x34
  | .tidInvalid => 0x35 | .quota => 0x40 | .tenant => 0x41 | .foldEntry => 0x50 | .foldBind => 0x51
  | .handleStale => 0x52 | .foldTrap => 0x53 | .storeRefused => 0x60 | .causalLoss => 0x61
  | .uncorrectable => 0x62 | .hostlinkDown => 0x63 | .software => 0x7F | .preempt => 0x80 | .message => 0x81

/-- The causes that end the context (R380). -/
def Cause.fatal : Cause → Bool
  | .causalLoss | .uncorrectable | .hostlinkDown => true
  | _ => false

/-- `ctl.cause`: CODE, FATAL, ASYNC and CTX (R389). -/
def causeWord (c : Cause) (n : CtxNum) (async : Bool) : Word :=
  (n ++ (0 : BitVec 2) ++ BitVec.ofBool async ++ BitVec.ofBool c.fatal ++ c.code).setWidth 64

/-- The low bit of `ctl.cause` that marks a fatal cause. -/
def causeIsFatal (w : Word) : Bool := w.getLsbD 8

/-! ## Orphans and MSI-X -/

/-- Adds 1 to the orphan count of a core, saturating at 65,535 (R205, R388). -/
def orphan (s : State) (core : CoreId) : State :=
  let k := s.core core
  s.setCore core { k with orph := if k.orph = 0xFFFF then k.orph else k.orph + 1 }

/-- An orphan counted at the issuing core; a drop whose issuing core has been fenced is counted nowhere (R205). -/
def orphanAtIssuer (s : State) (core : CoreId) : State :=
  if (s.die (coreDie core)).fenced then s else orphan s core

/-- The MSI-X vectors of a function: 64 of the physical function, 31 of a virtual one (R401, R432). -/
def msixVectors (f : BitVec 7) : Nat := if f = 0 then 64 else 31

/-- The place of a vector of a function among the entries of all MSI-X tables. -/
def msixPlace (f : BitVec 7) (v : Nat) : Nat := 64 * f.toNat + v

/-- An MSI-X table entry: address, data and vector control; bit 96 is the mask, which is set at reset (PRESUMED, log 69). -/
def State.msixEntry (s : State) (i : Nat) : BitVec 128 := sparseGet (1#128 <<< 96) s.msixTable i

/-- Sends an MSI-X event of a function: event k uses vector k (R401). A masked vector keeps it as its pending bit (R433, PRESUMED,
log 69). -/
def sendMsix (s : State) (f : BitVec 7) (event : Nat) : State :=
  if event < msixVectors f then
    let i := msixPlace f event
    let e := s.msixEntry i
    let s := { s with msix := s.msix ++ [(f, event)] }
    if e.getLsbD 96 then { s with msixPend := if s.msixPend.contains i then s.msixPend else s.msixPend ++ [i] }
    else { s with msixOut := s.msixOut ++ [(e.extractLsb' 0 64, e.extractLsb' 64 32)] }
  else s

/-! ## Ring slots given up (R275, R304) -/

/-- The lowest byte and the end of what elements at strides from an address cover. -/
def strideReach (a : Word) (esz : Nat) (ext : List Nat) (str : List Int) : Int × Int :=
  (ext.zip str).foldl (fun r e =>
    let m : Int := ((e.1 - 1 : Nat) : Int) * e.2
    (r.1 + min 0 m, r.2 + max 0 m)) ((a.toNat : Int), (a.toNat : Int) + esz)

/-- A range of local memory lies in bytes that something covers. -/
def reaches (r : Int × Int) (a n : Nat) : Bool := decide (r.1 < (a + n : Nat)) && decide ((a : Int) < r.2)

/-- Accepted work of a context still writes, or still reads, bytes of its local memory over CP or MX (R275). -/
def Core.workTouches (k : Core) (h : BitVec 28) (write : Bool) (a n : Nat) : Bool :=
  let here (x : Word) : Bool := x.extractLsb' 17 47 == 0
  k.ops.any (fun o => o.owner == h && (match o.op with
      | .copy src dst esz ext sstr dstr toRing =>
        if write then toRing.isNone && here dst && reaches (strideReach dst (2 ^ esz) ext dstr) a n
        else here src && reaches (strideReach src (2 ^ esz) ext sstr) a n
      | _ => false))
    || k.engine.any (fun e => e.owner == h && e.op == (if write then .mstore else .mload)
      && decide (e.ops1.toNat < a + n) && decide (a < e.ops1.toNat + 2048))

/-- A slot after a context gave it up, which becomes free as an `rrel` would make it: once accepted work has read it. -/
def Core.slotLeft (k : Core) (h : BitVec 28) (r : Ring) (i : Nat) : Slot :=
  if k.workTouches h false (r.slotBase i) (2 ^ r.lg) then .leaving h else .free

/-- The slots of a ring after a context gave up the ones it holds. -/
def Core.dropHolder (k : Core) (h : BitVec 28) (r : Ring) : List Slot :=
  r.slots.zipIdx.map (fun x => match x.1 with
    | .reserved g => if g == .ctx h then .free else x.1
    | .taken g => if g == .ctx h then k.slotLeft h r x.2 else x.1
    | _ => x.1)

/-- Work of a context has completed: the slots it had given up and that nothing reads any more are free. -/
def Core.settleLeft (k : Core) (h : BitVec 28) : Core :=
  { k with rings := k.rings.map (fun e => (e.1, { e.2 with slots := e.2.slots.zipIdx.map (fun x =>
      if x.1 == .leaving h then k.slotLeft h e.2 x.2 else x.1) })) }

/-- Every slot a context holds becomes free, and it waits on no ring. -/
def Core.giveUp (k : Core) (n : CtxNum) (h : BitVec 28) : Core :=
  { k with rings := k.rings.map (fun e => (e.1, { e.2 with
      slots := k.dropHolder h e.2
      waitFree := e.2.waitFree.erase (.ctx n)
      waitFill := e.2.waitFill.erase (.ctx n) })) }

/-! ## Tickets at purses (R372) -/

def State.purse (s : State) (t : Tenant) (fab : Bool) (d : Die) : Purse :=
  let ts := s.tenantSt t
  sparseGet {} (if fab then ts.fab else ts.mem) d.toNat
def State.setPurse (s : State) (t : Tenant) (fab : Bool) (d : Die) (p : Purse) : State :=
  let ts := s.tenantSt t
  s.setTenantSt t (if fab then { ts with fab := sparsePut ts.fab d.toNat p } else { ts with mem := sparsePut ts.mem d.toNat p })

/-- What has ended waits at no purse of its die any more. -/
def forgetTicket (s : State) (t : Tenant) (d : Die) (w : Ticket) : State :=
  [false, true].foldl (fun s fab =>
    let p := s.purse t fab d
    if p.held.any (fun e => e.1 == w) then s.setPurse t fab d { p with held := p.held.filter (fun e => e.1 != w) } else s) s

/-- The request of a context that does not go on with it leaves the purses (R372). -/
def leavePurses (s : State) (core : CoreId) (n : CtxNum) : State :=
  forgetTicket s (s.tenantOf core) (coreDie core) (.ctx core n)

/-! ## Pins of residual code (R263, R264) -/

/-- The home die of a handle slot: slot mod 8 (R262). -/
def handleSlotOf (h : Word) : Nat := (h.extractLsb' 32 9).toNat

/-! ## Starting and ending a context (R197, R200, R304, R383, R384) -/

/-- A context's state right after a start (R197). -/
def startedCtx (old : Ctx) (pc a1 a2 : Word) (tbl : List AcqEntry) (now : Nat) : Ctx :=
  let c : Ctx := { run := .live, inc := old.inc + 1, pc := pc, nextIssue := now }
  ((c.setS 1 a1).setS 2 a2).acquire tbl

/-- Starts a context of a core. What was owed to an earlier one of its handle is over. -/
def startCtx (s : State) (core : CoreId) (n : CtxNum) (pc a1 a2 : Word) (tbl : List AcqEntry) : State :=
  let c := startedCtx (s.ctx core n) pc a1 a2 tbl (s.cycleAt core)
  { s.setCtx core n c with owed := if s.owed.isEmpty then [] else sparseErase s.owed (mkHandle core n c.inc).toNat }

/-- The oldest waiting message that names an idle context starts it (R207). -/
def startWaiting (s : State) (core : CoreId) (n : CtxNum) : State :=
  let k := s.core core
  match k.msgs.find? (fun m => m.target == n) with
  | some m => startCtx (s.setCore core { k with msgs := k.msgs.erase m }) core n m.pc m.a1 m.a2 m.rel
  | none => s

/-- Puts a delivery into the handler's queue: a PREEMPT before every other, the rest in order of arrival, those of
one cycle by context number (R383). -/
def queueDelivery (k : Core) (now : Nat) (d : Delivery) : Core :=
  let num (x : Delivery) : Nat := match x with
    | .preempt _ => 0
    | .trap c => 1 + c.toNat
    | .message .. => 1 + 15
  let before (e : Nat × Delivery) : Bool := match d, e.2 with
    | .preempt _, .preempt _ => true
    | .preempt _, _ => false
    | _, .preempt _ => true
    | _, x => decide (e.1 < now) || (e.1 == now && decide (num x ≤ num d))
  { k with hqueue := k.hqueue.takeWhile before ++ [(now, d)] ++ k.hqueue.dropWhile before }

/-- Reclaims a released handle slot with no pins: its arena goes back, its generation advances (R264). -/
def reclaim (s : State) (t : Tenant) (slot : Nat) : State :=
  let ts := s.tenantSt t
  let h := sparseGet ({} : HandleSlot) ts.handles slot
  if h.used && h.released && h.pins == 0 then
    s.setTenantSt t { ts with
      handles := sparsePut ts.handles slot { gen := if h.gen = 0xFFFF then 1 else h.gen + 1 }
      counts := sparsePut (sparsePut ts.counts 6 (sparseGet 0 ts.counts 6 - 1)) 7 (sparseGet 0 ts.counts 7 - h.bytes) }
  else s

/-- Drops one pin of the handle whose residual code a context leaves (R263, R269). -/
def dropPin (s : State) (handle : Word) : State :=
  let t : Tenant := handle.extractLsb' 41 7
  let slot := (handle.extractLsb' 0 12).toNat
  let ts := s.tenantSt t
  let h := sparseGet ({} : HandleSlot) ts.handles slot
  if h.used && h.gen == handle.extractLsb' 48 16 then
    reclaim (s.setTenantSt t { ts with handles := sparsePut ts.handles slot { h with pins := h.pins - 1 } }) t slot
  else s

/-- The handle that a context pins: that of the residual code it runs, or of its sent `callh` (R263). -/
def Ctx.pinned (c : Ctx) : Option Word := (c.resid.map (·.handle)).or c.callPin

/-- The helpers of a core. -/
def helpers : List CtxNum := [1, 2, 3, 4, 5, 6, 7, 8, 9, 10]

/-- The core has an idle helper. -/
def Core.hasIdle (k : Core) : Bool := helpers.any (fun n => (k.ctx n).run == .idle)

/-- Makes a context idle: its slots are given up, its waits end, its pin is dropped, its queued traps go, and the
oldest message that waits for it starts it (R200, R207, R304, R384). -/
def becomeIdle (s : State) (core : CoreId) (n : CtxNum) : State :=
  let c := s.ctx core n
  let h := s.handle core n
  -- a saved context takes its pin with it (R263)
  let s := match c.pinned, c.run with
    | some _, .saved => s
    | some h, _ => dropPin s h
    | none, _ => s
  let s := leavePurses s core n
  let k := (s.core core).giveUp n h
  let k := { k with
    engWait := k.engWait.erase n, copyWait := k.copyWait.erase n, foldWait := k.foldWait.erase n
    asked := if k.hasIdle then k.asked else s.clock
    hqueue := k.hqueue.filter (fun e => e.2 != Delivery.trap n) }
  let k := k.setCtx n { inc := c.inc, lineage := none }
  -- a core that has left flowing mode leaves its pool and its stage once its helpers are idle (R235)
  let gone := !k.dom.getLsbD 3 && helpers.all (fun n => (k.ctx n).run == .idle)
  startWaiting (s.setCore core { k with stage := if gone then none else k.stage, leaving := k.leaving && !gone }) core n

/-- Ends a context without waiting: its refused journal entries are freed, the rest go on (R384). -/
def tearDown (s : State) (core : CoreId) (n : CtxNum) (event : Nat) : State :=
  let k := s.core core
  let inc := (k.ctx n).inc
  let k := { k with journal := k.journal.filter (fun e => !(e.2.state == 2 && e.2.ctx == n && e.2.inc == inc)) }
  let s := sendMsix (s.setCore core k) (s.tenantOf core) event
  becomeIdle s core n

/-- The handler ends its handling and is idle; its registers persist (R382, R384). Residual code it stood in ends with the
handling, since the next entry starts at an address of its own (R263, R383). -/
def handlerIdle (s : State) (core : CoreId) : State :=
  let s := match (s.ctx core 15).resid with
    | some p => dropPin s p.handle
    | none => s
  let k := s.core core
  let h := k.ctx 15
  s.setCore core { (k.setCtx 15 { h with run := .idle, pend := .none, pageWait := none, fline := none, resid := none }) with
    handling := none }

/-- A handler fault (R385): the context being handled is torn down, HFLT is set, event 0 is sent. -/
def handlerFault (s : State) (core : CoreId) : State :=
  let k := s.core core
  let s := match k.handling with
    | some (.trap c) => becomeIdle (s.setCore core { k with
        journal := k.journal.filter (fun e => !(e.2.state == 2 && e.2.ctx == c && e.2.inc == (k.ctx c).inc)) }) core c
    | _ => s
  let s := leavePurses s core 15
  let k := s.core core
  handlerIdle (sendMsix (s.setCore core { k with hflt := true }) (s.tenantOf core) 0) core

/-! ## Taking an exception -/

/-- What of a held instruction outlives a trap: a request that is never issued again (R403, R410). -/
def Pend.answer : Pend → Pend
  | .awaiting v d => .awaiting v d
  | .reply v => .reply v
  | _ => .none

/-- TAKING A TRAP (R380, R381, R383, R385, R389): the cause, the saved address and `ctl.einfo` of the context are
written, the context is trapped and issues nothing, and the handler's queue receives it. A trap of the handler
context is a handler fault. A control context that traps in an exchange phase leaves its timetable (R218). -/
def takeTrap (s : State) (core : CoreId) (n : CtxNum) (cause : Cause) (einfo epc : Word) (async : Bool) : State :=
  if n = 15 then handlerFault s core
  else
    let k := s.core core
    let c := k.ctx n
    let c' := { c with
      run := .trapped, cause := causeWord cause n async, einfo := einfo, epc := epc
      pend := c.pend.answer, pageWait := none, fline := none, epcWritten := false }
    let k := k.setCtx n c'
    let k := { k with
      engWait := k.engWait.erase n, copyWait := k.copyWait.erase n, foldWait := k.foldWait.erase n
      rings := k.rings.map (fun e => (e.1, { e.2 with
        waitFree := e.2.waitFree.erase (.ctx n), waitFill := e.2.waitFill.erase (.ctx n) }))
      exchLeft := k.exchLeft || (n == 0 && k.exch.isSome) }
    leavePurses (s.setCore core (queueDelivery k (s.cycleAt core) (.trap n))) core n

/-- A context has used its core's issue slot: the passes of those the round robin left out are used (R201, R203). -/
def Core.usedSlot (k : Core) (n : CtxNum) : Core := { k with issued := true, lastCtx := n, spent := k.passed.erase n, passed := [] }

/-- A precise trap of the issuing context at its own instruction. The instruction issued: its slot is used, and so is its own
pass-over where it was chosen among contexts that had all yielded (R203). -/
def trapMe (s : State) (cause : Cause) (einfo : Word) : State :=
  let s := takeTrap s s.curCore s.curCtx cause einfo s.me.pc false
  s.setMyCore { (s.myCore.usedSlot s.curCtx) with spent := s.myCore.passed }

/-! ## Issue, hold and retirement -/

/-- What an instruction's own meaning comes to. -/
inductive Eff where
  /-- It retires and the next instruction follows. -/
  | done (s : State)
  /-- It retires and continues at another address. -/
  | goto (s : State) (pc : Word)
  /-- It retires and its context does not go on at a next address. -/
  | gone (s : State)
  /-- It raises a precise trap and has no effect. -/
  | trap (cause : Cause) (einfo : Word)
  /-- It raises a precise trap after an effect that stays: a write of `ctl.foldpc` (R252). -/
  | trapWith (s : State) (cause : Cause) (einfo : Word)
  /-- It is held (R201); the state keeps its progress. -/
  | hold (s : State)
  /-- It reaches storage that does not exist. -/
  | stop (f : Fault)

/-- The context is in an exchange phase: the control context, until it leaves the timetable (R217, R218). -/
def inPhase (k : Core) (n : CtxNum) : Bool := k.exch.isSome && n == 0 && !k.exchLeft

/-- The register code of a source is ready at a cycle (R109). -/
def codeReady (c : Ctx) (now : Nat) (code : RegCode) : Bool := decide (sparseGet 0 c.ready code.toNat ≤ now)

/-- Every source, guard predicates included, has been written (R56, R109). Accumulators are no such source. -/
def sourcesReady (i : Instr) (c : Ctx) (now : Nat) : Bool :=
  i.operands.all (fun o => !o.src || decide (0x68 ≤ o.code.toNat) || codeReady c now o.code)
    && codeReady c now (kCode i.header.g0) && codeReady c now (kCode i.header.g1)

/-- A load or store whose address leaves local memory (R294). -/
def globalAccess (i : Instr) (c : Ctx) : Bool :=
  match i with
  | .ld _ _ ea _ | .ldSx _ _ ea _ | .st _ _ ea _ | .ldv _ _ ea _ | .stv _ _ ea _ =>
    (mAddress c ea).extractLsb' 17 47 != 0
  | _ => false

/-- `xsend` or `xsel` (R218). -/
def isPiste : Instr → Bool
  | .xsend .. | .xsel .. => true
  | _ => false

/-- The EXCHANGE code an instruction raises, the lowest that applies (R218). -/
def exchangeFault (i : Instr) (s : State) : Option Word :=
  let k := s.myCore
  let c := s.me
  if inPhase k s.curCtx then
    if !i.inExchange || globalAccess i c then some 0
    else if decide (65536 ≤ s.now - k.exch.getD 0) then some 2
    else if !sourcesReady i c s.now then some 3
    else none
  else if isPiste i then some 1
  else match i with
    | .barX _ => if k.dom.getLsbD 3 then some 4 else none
    | _ => none

/-- COUNT of `ctl.wdog` rises by one at every instruction issued outside an exchange phase; with LIMIT 0 it stops at
2^41 − 1 (R204). -/
def countIssue (s : State) : State :=
  let c := s.me
  if inPhase s.myCore s.curCtx || c.wdogCount = BitVec.allOnes 41 then s
  else s.setMe { c with wdogCount := c.wdogCount + 1 }

/-- The issuing context is held: it takes no issue slot, and the core tries its other contexts (R201, R202). -/
def holdMe (s : State) : State :=
  let k := s.myCore
  s.setMyCore { k with tried := s.curCtx :: k.tried }

/-- A destination whose write is discarded: s0 and k0, which are constants and no sources (R12, R56). -/
def constCode (code : RegCode) : Bool := code == 0x00 || code == 0x60

/-- The ready cycles after an instruction whose results take `lat` cycles (R109): a register that is written twice is ready when its
last writer says so (DESIGN CHOICE, log 63). -/
def setReady (i : Instr) (now lat : Nat) (c : Ctx) : Ctx :=
  let ds := i.operands.filter (fun o => o.dst && decide (o.code.toNat < 0x68) && !constCode o.code)
  { c with ready := ds.foldl (fun r o => sparseAssign 0 r o.code.toNat (now + lat)) c.ready }

/-- The issuing context goes on (R57, R203): the next address, DLY and YLD. -/
def advance (h : Header) (pc : Word) (jump : Bool) (s : State) : State :=
  let k := s.myCore
  let c := s.me
  let yields := h.yld && !inPhase k s.curCtx
  let c := { c with
    pc := pc, pend := .none, sent := false, nextIssue := s.now + 1 + h.dly.toNat
    fline := if jump then none else c.fline
    wdogCount := if yields then 0 else c.wdogCount
    passOver := (c.passOver && !k.passed.contains s.curCtx) || yields }
  s.setMyCore ((k.setCtx s.curCtx c).usedSlot s.curCtx)

/-- Retirement (R57, R109): the ready cycles of the destinations, and the context goes on. -/
def retire (i : Instr) (lat : Nat) (pc : Word) (jump : Bool) (s : State) : State :=
  advance i.header pc jump (s.setMe (setReady i s.now lat s.me))

/-- The core has used its issue slot for a context that does not go on. -/
def retireGone (s : State) : State := s.setMyCore (s.myCore.usedSlot s.curCtx)

/-- ISSUE OF ONE INSTRUCTION (R56, R57, R71, R109, R201, R204, R218) with the latency of its result: the exchange
checks, the hold for sources, the guards, the instruction's own meaning, and retirement, trap or hold. -/
def issueLat (i : Instr) (lat : State → Nat) (body : State → Eff) (s : State) : Host.Outcome State Fault Refusal :=
  match exchangeFault i s with
  | some code => .next (trapMe (countIssue s) .exchange code)
  | none =>
    if !sourcesReady i s.me s.now then .next (holdMe s)
    else
      let s1 := countIssue s
      if guardsPass i.header s.me then
        match body s1 with
        | .done t => .next (retire i (lat s1) (s.me.pc + 16) false t)
        | .goto t pc => .next (retire i (lat s1) pc true t)
        | .gone t => .next (retireGone t)
        | .trap c e => .next (trapMe s1 c e)
        | .trapWith t c e => .next (trapMe t c e)
        | .hold t =>
          .next (holdMe (t.setMe { t.me with wdogCount := s.me.wdogCount }))
        | .stop f => .fault f
      else .next (advance i.header (s.me.pc + 16) false s1)

/-- Issue with the latency of the instruction's row. -/
def issue (i : Instr) (body : State → Eff) (s : State) : Host.Outcome State Fault Refusal :=
  issueLat i (fun _ => i.latency) body s

/-- Writes an s register of the issuing context. -/
def wrS (s : State) (d : SReg) (x : Word) : State := s.setMe (s.me.setS d.r x)
def wrV (s : State) (d : VReg) (x : VVal) : State := s.setMe (s.me.setV d.r x)
def wrK (s : State) (d : KReg) (x : Bool) : State := s.setMe (s.me.setK d.r x)

/-- ORs flags into `ctl.flags` of the issuing context (R102). -/
def mergeFlags (s : State) (f : BitVec 7) : State := s.setMe { s.me with flags := s.me.flags ||| f }

end Sys2Proof.Machine
end

