-- ==== Sys2Proof/Machine/Numbers.lean ====
section
/-! DEFINITION. Number formats (R89 to R100): values as exact dyadic rationals or specials, their decoding from
element bits, the roundings, and the exact arithmetic that instructions round once. -/

namespace Sys2Proof.Machine

/-! ## Values -/

/-- A value of a number format. `fin neg m e` is (−1)^neg · m · 2^e; m = 0 is a signed zero. -/
inductive Num where
  | fin (neg : Bool) (m : Nat) (e : Int)
  | inf (neg : Bool)
  | nan (signalling : Bool)
  | nar
  deriving DecidableEq, Repr

/-- The sticky flags (R101). -/
def flagNV : BitVec 7 := 0x01
def flagDZ : BitVec 7 := 0x02
def flagOF : BitVec 7 := 0x04
def flagUF : BitVec 7 := 0x08
def flagNX : BitVec 7 := 0x10
def flagSAT : BitVec 7 := 0x20
def flagNR : BitVec 7 := 0x40

/-- The IEEE 754 formats by exponent and fraction bits (R98). -/
structure Ieee where
  eb : Nat
  fb : Nat
  deriving DecidableEq, Repr

def fmtBF16 : Ieee := ⟨8, 7⟩
def fmtFP16 : Ieee := ⟨5, 10⟩
def fmtFP32 : Ieee := ⟨8, 23⟩
def fmtFP64 : Ieee := ⟨11, 52⟩

def Ieee.bias (f : Ieee) : Int := 2 ^ (f.eb - 1) - 1

/-- The canonical quiet NaN of a format (R98). -/
def Ieee.qnan (f : Ieee) : Nat := (2 ^ f.eb - 1) * 2 ^ f.fb + 2 ^ (f.fb - 1)

/-- The infinity of a sign. -/
def Ieee.infBits (f : Ieee) (neg : Bool) : Nat := neg.toNat * 2 ^ (f.eb + f.fb) + (2 ^ f.eb - 1) * 2 ^ f.fb

def Num.isNan : Num → Bool
  | .nan _ => true
  | _ => false

def Num.isNanNar : Num → Bool
  | .nan _ | .nar => true
  | _ => false

def Num.isSig : Num → Bool
  | .nan s => s
  | _ => false

def Num.isZero : Num → Bool
  | .fin _ m _ => m == 0
  | _ => false

def Num.sign : Num → Bool
  | .fin n _ _ => n
  | .inf n => n
  | _ => false

/-- The value of an IEEE 754 bit pattern (R98). -/
def decodeIeee (f : Ieee) (b : Nat) : Num :=
  let neg := b / 2 ^ (f.eb + f.fb) % 2 == 1
  let ex := b / 2 ^ f.fb % 2 ^ f.eb
  let fr := b % 2 ^ f.fb
  if ex == 2 ^ f.eb - 1 then
    if fr == 0 then .inf neg else .nan (decide (fr < 2 ^ (f.fb - 1)))
  else if ex == 0 then .fin neg fr (1 - f.bias - f.fb)
  else .fin neg (fr + 2 ^ f.fb) ((ex : Int) - f.bias - f.fb)

/-- A run of bits equal to the top bit of an nb-bit field, counted from the top (R94). -/
def regimeRun (x nb : Nat) : Nat :=
  let r := x.testBit (nb - 1)
  ((List.range nb).map (fun i => x.testBit (nb - 1 - i))).takeWhile (· == r) |>.length

/-- `decode_taper` (R94, R96): nb magnitude bits, es exponent bits, scale base sb. -/
def decodeTaper (b nb es : Nat) (sb : Int) : Num :=
  if b == 0 then .fin false 0 0
  else if b == 2 ^ nb then .nar
  else
    let x := b % 2 ^ nb
    let m := regimeRun x nb
    let k : Int := if x.testBit (nb - 1) then (m : Int) - 1 else -(m : Int)
    let rest := nb - 1 - m
    let e := if es == 1 && decide (1 ≤ rest) then (x.testBit (rest - 1)).toNat else 0
    let rest' := if es == 1 && decide (1 ≤ rest) then rest - 1 else rest
    .fin (b.testBit nb) (2 ^ rest' + x % 2 ^ rest') (k * 2 ^ es + e + sb - rest')

/-- Two's complement of an n-bit field as an integer. -/
def signedOf (n b : Nat) : Int := if b.testBit (n - 1) then (b : Int) - 2 ^ n else b

/-- An exact integer as a value. -/
def numOfInt (x : Int) (e : Int) : Num := .fin (decide (x < 0)) x.natAbs e

/-- The value of an element of a tag at a scale base (R92, R94 to R98). B128 has no value; it reads as zero here and
every instruction that needs one raises TAG before. -/
def elemVal (t : Tag) (sb : Int) (b : Nat) : Num :=
  match t with
  | .t8 => decodeTaper b 7 1 sb
  | .t6 => decodeTaper b 5 0 sb
  | .q4 => numOfInt (signedOf 4 b) sb
  | .i8 => numOfInt (signedOf 8 b) 0
  | .i16 => numOfInt (signedOf 16 b) 0
  | .i32 => numOfInt (signedOf 32 b) 0
  | .i64 => numOfInt (signedOf 64 b) 0
  | .bf16 => decodeIeee fmtBF16 b
  | .fp16 => decodeIeee fmtFP16 b
  | .fp32 => decodeIeee fmtFP32 b
  | .b128 => .fin false 0 0

/-! ## Rounding (R99) -/

/-- m · 2^−sh rounded to nearest, ties to even, with whether it was inexact; a negative sh is exact. -/
def shiftRne (m : Nat) (sh : Int) : Nat × Bool :=
  if sh ≤ 0 then (m * 2 ^ sh.natAbs, false)
  else
    let d := 2 ^ sh.toNat
    let n := m / d
    let r := m % d
    (if d < 2 * r || (d == 2 * r && n % 2 == 1) then n + 1 else n, r != 0)

/-- The number of bits of a positive number. -/
def bitLen (m : Nat) : Nat := if m = 0 then 0 else m.log2 + 1

/-- `round_ieee` of a finite value (R99): the bits and the flags. Tininess is found after rounding with an unbounded
exponent. A zero keeps its sign. -/
def roundIeee (f : Ieee) (neg : Bool) (m : Nat) (e : Int) : Nat × BitVec 7 :=
  let top := neg.toNat * 2 ^ (f.eb + f.fb)
  if m = 0 then (top, 0)
  else
    let qu : Int := (bitLen m : Int) - 1 + e - f.fb
    let nu := (shiftRne m (qu - e)).1
    let lead : Int := (bitLen nu : Int) - 1 + qu
    if f.bias < lead then (f.infBits neg, flagOF ||| flagNX)
    else
      let emin : Int := 1 - f.bias
      let q : Int := max qu (emin - f.fb)
      let (n, inexact) := shiftRne m (q - e)
      let fl := if inexact then (if lead < emin then flagUF ||| flagNX else flagNX) else 0
      let (n, q) := if 2 ^ (f.fb + 1) ≤ n then (n / 2, q + 1) else (n, q)
      if 2 ^ f.fb ≤ n then (top + ((q + f.fb + f.bias).toNat * 2 ^ f.fb + (n - 2 ^ f.fb)), fl) else (top + n, fl)

/-- A value in an IEEE format: `fp_result` (R126), with the specials of R100 for NaN and NaR. -/
def putIeee (f : Ieee) (x : Num) : Nat × BitVec 7 :=
  match x with
  | .fin n m e => roundIeee f n m e
  | .inf n => (f.infBits n, 0)
  | .nan _ | .nar => (f.qnan, 0)

/-- m · 2^e rounded to an integer by a mode, with whether it was inexact (R99, R131). -/
def roundInt (r : Rnd) (neg : Bool) (m : Nat) (e : Int) : Int × Bool :=
  let sgn (n : Nat) : Int := if neg then -(n : Int) else n
  if 0 ≤ e then (sgn (m * 2 ^ e.toNat), false)
  else
    let d := 2 ^ e.natAbs
    let n := m / d
    let rem := m % d
    let up : Bool := match r with
      | .rne => decide (d < 2 * rem) || (d == 2 * rem && n % 2 == 1)
      | .rz => false
      | .rdn => neg && rem != 0
      | .rup => !neg && rem != 0
    (sgn (if up then n + 1 else n), rem != 0)

/-- Nearest integer, ties away from zero (R99). -/
def roundAway (neg : Bool) (m : Nat) (e : Int) : Int × Bool :=
  let sgn (n : Nat) : Int := if neg then -(n : Int) else n
  if 0 ≤ e then (sgn (m * 2 ^ e.toNat), false)
  else
    let d := 2 ^ e.natAbs
    (sgn (if d ≤ 2 * (m % d) then m / d + 1 else m / d), m % d != 0)

/-- Compares m1 · 2^e1 with m2 · 2^e2: whether the first is below or equal. -/
def magLe (m1 : Nat) (e1 : Int) (m2 : Nat) (e2 : Int) : Bool :=
  let e := min e1 e2
  decide (m1 * 2 ^ (e1 - e).toNat ≤ m2 * 2 ^ (e2 - e).toNat)

/-- The magnitude of a taper code at SB = 0 as m · 2^e. -/
def taperMag (nb es c : Nat) : Nat × Int :=
  match decodeTaper c nb es 0 with
  | .fin _ m e => (m, e)
  | _ => (0, 0)

/-- The largest code from 1 to top whose magnitude is not above m · 2^e, found from the top bit down; 0 if none. -/
def taperBelow (nb es m : Nat) (e : Int) : Nat :=
  ((List.range nb).reverse).foldl (fun c i =>
    let c' := c + 2 ^ i
    let (mm, me) := taperMag nb es c'
    if magLe mm me m e then c' else c) 0

/-- `encode_narrow` for a taper format (R99): x is not zero. -/
def encodeTaper (nb es : Nat) (neg : Bool) (m : Nat) (e : Int) (sb : Int) : Nat × BitVec 7 :=
  let e := e - sb
  let top := 2 ^ nb - 1
  let sgn := neg.toNat * 2 ^ nb
  let c := taperBelow nb es m e
  if c = 0 then (sgn + 1, flagUF ||| flagNX)
  else
    let (lm, le) := taperMag nb es c
    if magLe m e lm le then (sgn + c, 0)
    else if c = top then (sgn + top, flagSAT ||| flagNX)
    else
      let (hm, he) := taperMag nb es (c + 1)
      -- a − lo < hi − a exactly when 2a < lo + hi
      let b := min le he
      let sum := lm * 2 ^ (le - b).toNat + hm * 2 ^ (he - b).toNat
      (sgn + (if magLe sum b (2 * m) e then c + 1 else c), flagNX)

/-- A signed value clamped to n bits, as its bit pattern, with the flags of saturation (R99). -/
def clampBits (n : Nat) (x : Int) (inexact : Bool) : Nat × BitVec 7 :=
  let lo : Int := -(2 ^ (n - 1))
  let hi : Int := 2 ^ (n - 1) - 1
  let y := if x < lo then lo else if hi < x then hi else x
  ((y % 2 ^ n).toNat, (if y = x then 0 else flagSAT) ||| (if inexact || y ≠ x then flagNX else 0))

/-- The encoding of a value in the format of a tag at a scale base, with its flags (R99, R100, R150). NaN, infinity
and NaR go as the table of R100 says. -/
def encodeElem (t : Tag) (sb : Int) (x : Num) : Nat × BitVec 7 :=
  match t with
  | .bf16 | .fp16 | .fp32 =>
    let f := match t with
      | .bf16 => fmtBF16
      | .fp16 => fmtFP16
      | _ => fmtFP32
    let (b, fl) := putIeee f x
    (b, fl ||| (if x.isSig || x == .nar then flagNV else 0))
  | .t8 | .t6 =>
    let (nb, es) := if t = .t8 then (7, 1) else (5, 0)
    match x with
    | .fin n m e => if m = 0 then (0, 0) else encodeTaper nb es n m e sb
    | .inf _ => (2 ^ nb, flagNR)
    | .nan s => (2 ^ nb, flagNR ||| (if s then flagNV else 0))
    | .nar => (2 ^ nb, 0)
  | .q4 | .i8 =>
    let n := t.width
    let lo := 2 ^ (n - 1)
    let hi := 2 ^ (n - 1) - 1
    match x with
    | .fin ng m e =>
      let (y, inx) := roundAway ng m (if t = .q4 then e - sb else e)
      clampBits n y inx
    | .inf ng => (if ng then lo else hi, flagSAT)
    | .nan _ | .nar => (0, flagNV)
  | .i16 | .i32 | .i64 =>
    let n := t.width
    match x with
    | .fin ng m e =>
      let (y, inx) := roundInt .rne ng m e
      clampBits n y inx
    | .inf ng => (if ng then 2 ^ (n - 1) else 2 ^ (n - 1) - 1, flagSAT)
    | .nan _ | .nar => (0, flagNV)
  | .b128 => (0, 0)

/-! ## Exact arithmetic and its specials (R126 to R130) -/

/-- {invalid} for a signalling NaN operand (R126). -/
def sigFlags (xs : List Num) : BitVec 7 := if xs.any Num.isSig then flagNV else 0

def Num.neg : Num → Num
  | .fin n m e => .fin (!n) m e
  | .inf n => .inf (!n)
  | x => x

def Num.abs : Num → Num
  | .fin _ m e => .fin false m e
  | .inf _ => .inf false
  | x => x

/-- An exact sum of two finite values; an exact zero sum is +0 unless both terms are −0 (R127). -/
def addFin (n1 : Bool) (m1 : Nat) (e1 : Int) (n2 : Bool) (m2 : Nat) (e2 : Int) : Num :=
  let e := min e1 e2
  let a : Int := (m1 * 2 ^ (e1 - e).toNat : Nat)
  let b : Int := (m2 * 2 ^ (e2 - e).toNat : Nat)
  let x := (if n1 then -a else a) + (if n2 then -b else b)
  if x = 0 then .fin (m1 = 0 && m2 = 0 && n1 && n2) 0 0 else .fin (decide (x < 0)) x.natAbs e

/-- a + b exactly, with the flags of its operands and of an invalid operation (R127). -/
def numAdd (a b : Num) : Num × BitVec 7 :=
  let fl := sigFlags [a, b]
  match a, b with
  | .nan _, _ | .nar, _ | _, .nan _ | _, .nar => (.nan false, fl)
  | .inf n, .inf k => if n == k then (a, fl) else (.nan false, fl ||| flagNV)
  | .inf _, _ => (a, fl)
  | _, .inf _ => (b, fl)
  | .fin n1 m1 e1, .fin n2 m2 e2 => (addFin n1 m1 e1 n2 m2 e2, fl)

def numSub (a b : Num) : Num × BitVec 7 := numAdd a b.neg

/-- a × b exactly; 0 × ∞ is invalid (R127). -/
def numMul (a b : Num) : Num × BitVec 7 :=
  let fl := sigFlags [a, b]
  let s := a.sign ^^ b.sign
  match a, b with
  | .nan _, _ | .nar, _ | _, .nan _ | _, .nar => (.nan false, fl)
  | .inf _, .inf _ => (.inf s, fl)
  | .inf _, .fin _ m _ => if m = 0 then (.nan false, fl ||| flagNV) else (.inf s, fl)
  | .fin _ m _, .inf _ => if m = 0 then (.nan false, fl ||| flagNV) else (.inf s, fl)
  | .fin _ m1 e1, .fin _ m2 e2 => (.fin s (m1 * m2) (e1 + e2), fl)

/-- (±a × b) ± c exactly (R128): a product of 0 × ∞ is invalid even when c is a quiet NaN. -/
def numFma (negProd negAdd : Bool) (a b c : Num) : Num × BitVec 7 :=
  let fl := sigFlags [a, b, c]
  if a.isNanNar || b.isNanNar then (.nan false, fl)
  else
    let (p, f2) := numMul a b
    if p.isNan then (.nan false, fl ||| f2)
    else if c.isNanNar then (.nan false, fl)
    else
      let (r, f3) := numAdd (if negProd then p.neg else p) (if negAdd then c.neg else c)
      (r, fl ||| f3)

/-- The bits a quotient or root is formed to before its one rounding: more than any target's, with a last bit that
is set when the result is inexact. -/
def workBits : Nat := 72

/-- a ÷ b (R127), exact or with its last bit set to show what lies below. -/
def numDiv (a b : Num) : Num × BitVec 7 :=
  let fl := sigFlags [a, b]
  let s := a.sign ^^ b.sign
  match a, b with
  | .nan _, _ | .nar, _ | _, .nan _ | _, .nar => (.nan false, fl)
  | .inf _, .inf _ => (.nan false, fl ||| flagNV)
  | .inf _, _ => (.inf s, fl)
  | _, .inf _ => (.fin s 0 0, fl)
  | .fin _ m1 e1, .fin _ m2 e2 =>
    if m2 = 0 then (if m1 = 0 then (.nan false, fl ||| flagNV) else (.inf s, fl ||| flagDZ))
    else if m1 = 0 then (.fin s 0 0, fl)
    else
      let k := workBits + bitLen m2
      let q := m1 * 2 ^ k / m2
      let r := m1 * 2 ^ k % m2
      (.fin s (2 * q + (if r = 0 then 0 else 1)) (e1 - e2 - k - 1), fl)

/-- The integer square root of a number of at most 2n bits, bit by bit. -/
def isqrt (n x : Nat) : Nat :=
  ((List.range n).reverse).foldl (fun r i => if (r + 2 ^ i) * (r + 2 ^ i) ≤ x then r + 2 ^ i else r) 0

/-- √a (R127). -/
def numSqrt (a : Num) : Num × BitVec 7 :=
  let fl := sigFlags [a]
  match a with
  | .nan _ | .nar => (.nan false, fl)
  | .inf n => if n then (.nan false, fl ||| flagNV) else (a, fl)
  | .fin n m e =>
    if m = 0 then (a, fl)
    else if n then (.nan false, fl ||| flagNV)
    else
      let (m, e) := if e % 2 = 0 then (m, e) else (2 * m, e - 1)
      let x := m * 2 ^ (2 * workBits)
      let r := isqrt (bitLen x / 2 + 1) x
      (.fin false (2 * r + (if r * r = x then 0 else 1)) (e / 2 - workBits - 1), fl)

/-- Order of two values that are not NaN: −0 equals +0. -/
def numLt (a b : Num) : Bool :=
  match a, b with
  | .inf n, .inf k => n && !k
  | .inf n, .fin .. => n
  | .fin .., .inf k => !k
  | .fin n1 m1 e1, .fin n2 m2 e2 =>
    let e := min e1 e2
    let x : Int := (m1 * 2 ^ (e1 - e).toNat : Nat)
    let y : Int := (m2 * 2 ^ (e2 - e).toNat : Nat)
    decide ((if n1 then -x else x) < (if n2 then -y else y))
  | _, _ => false

/-- Equality of two values that are not NaN. -/
def numEq (a b : Num) : Bool := !a.isNanNar && !b.isNanNar && !numLt a b && !numLt b a

/-- The order with −0 below +0 (R129). -/
def numLtZ (a b : Num) : Bool := numLt a b || (a.isZero && b.isZero && a.sign && !b.sign)

/-- `fp_max` and `fp_min` (R129): a number beats a NaN. -/
def numMinMax (max : Bool) (a b : Num) : Num × BitVec 7 :=
  let fl := sigFlags [a, b]
  if a.isNan && b.isNan then (.nan false, fl)
  else if a.isNan then (b, fl)
  else if b.isNan then (a, fl)
  else if max then (if numLtZ a b then b else a, fl)
  else (if numLtZ b a then b else a, fl)

/-- FP32 bits of a + b on FP32 bit patterns, one rounding. -/
def fp32Add (a b : Nat) : Nat × BitVec 7 :=
  let (x, f) := numAdd (decodeIeee fmtFP32 a) (decodeIeee fmtFP32 b)
  let (r, g) := putIeee fmtFP32 x
  (r, f ||| g)

/-- `tree_sum` (R106) over a list whose length is 2^fuel: neighbours are added level by level. -/
def treeSum {α : Type} (add : α → α → α) (d : α) : Nat → List α → α
  | 0, p => p.headD d
  | n + 1, p => treeSum add d n (pairUp p)
where
  pairUp : List α → List α
    | a :: b :: t => add a b :: pairUp t
    | l => l

/-- The FP32 magnitude of a value for the amax register (R104); none for NaN and NaR. -/
def amaxMag (x : Num) : Option Nat :=
  if x.isNanNar then none else some (putIeee fmtFP32 x.abs).1

/-- The amax contribution of source values: NS in bit 32 and the largest magnitude (R104). -/
def amaxOf (xs : List Num) : BitVec 33 :=
  let ns := xs.any Num.isNanNar
  let mag := (xs.filterMap amaxMag).foldl max 0
  BitVec.ofNat 33 (ns.toNat * 2 ^ 32 + mag)

/-- A merge into `ctl.amax`: NS is ORed, MAG is the maximum (R104). -/
def amaxMerge (a b : BitVec 33) : BitVec 33 :=
  (a.extractLsb' 32 1 ||| b.extractLsb' 32 1)
    ++ (if (a.extractLsb' 0 32).toNat < (b.extractLsb' 0 32).toNat then b.extractLsb' 0 32 else a.extractLsb' 0 32)

end Sys2Proof.Machine
end

