-- ==== Sys2Proof/Machine/Flags.lean ====
section
/-! DEFINITION. Flags and outcomes: the two predicates of a comparison, the flag sets of `ctl.flags`, the merge of
flags and of source magnitudes into a context at retirement (R101 to R105, R116, R130). -/

namespace Sys2Proof.Machine

/-- Writes the outcome of a comparison and its complement (R116). -/
def wrOutcome (s : State) (kt kf : KReg) (x : Bool) : State := wrK (wrK s kt x) kf (!x)

/-- ORs source magnitudes into `ctl.amax` of the issuing context (R104). -/
def mergeAmax (s : State) (a : BitVec 33) : State := s.setMe { s.me with amax := amaxMerge s.me.amax a }

/-- Writes an s register and merges flags. -/
def wrSF (s : State) (d : SReg) (x : Word) (f : BitVec 7) : State := mergeFlags (wrS s d x) f

/-- Writes a v register and merges flags. -/
def wrVF (s : State) (d : VReg) (x : VVal) (f : BitVec 7) : State := mergeFlags (wrV s d x) f

/-- The union of flag sets. -/
def orFlags (fs : List (BitVec 7)) : BitVec 7 := fs.foldl (· ||| ·) 0

/-- Which outcome a floating-point comparison tests (R130). -/
inductive FCmp where
  | eq | ne | lt | ge | un
  deriving DecidableEq, Repr

/-- The outcome of a comparison of two values and its flags (R130): a signalling NaN is always invalid, a quiet NaN
only for an ordering. -/
def fcmpOutcome (c : FCmp) (a b : Num) : Bool × BitVec 7 :=
  let un := a.isNanNar || b.isNanNar
  let fl := sigFlags [a, b]
  match c with
  | .eq => (!un && numEq a b, fl)
  | .ne => (un || !numEq a b, fl)
  | .lt => (!un && numLt a b, if un then flagNV else fl)
  | .ge => (!un && !numLt a b, if un then flagNV else fl)
  | .un => (un, fl)

end Sys2Proof.Machine
end

