-- ==== Sys2Proof/Config.lean ====
section
/-! DEFINITION. What the spec leaves to an implementation or leaves open: free constants with no body. -/

namespace Sys2Proof.Config

/-- The set of a cache slice (128 sets, R25) that an entry with a given 64-bit tag (R277) maps to.
R25 gives no index function. DESIGN CHOICE (log 7): a free value. -/
opaque sliceSet : BitVec 64 → BitVec 7

/-- The SHA-384 digest of a byte string (R379), 384 bits, as a function of the bytes. Free value (log 9). -/
opaque sha384 : List (BitVec 8) → BitVec 384

/-- The ECDSA P-384 signature of a byte string under the module's identity key (R379). Free value (log 9). -/
opaque ecdsaSign : List (BitVec 8) → BitVec 768

/-- The certificate chain of the module (R379): its bytes are not in the spec. Free value (log 9). -/
opaque certificate : List (BitVec 8)

/-- The firmware and kernel images that the measurements of R379 cover. Free value (log 9). -/
opaque measurementBlock : Nat → List (BitVec 8)

/-- The bytes of the tables of measurements 4 and 5 (R379), whose layout the spec does not give, from their numbers in
order. Free value (log 9). -/
opaque measurementTable : List Nat → List (BitVec 8)

/-- AES-256-XTS (R373): what a 64-byte granule becomes under a key pair with a tweak, and its inverse, which decrypts.
The cipher itself is not in the spec. Free value (log 10). -/
opaque xts : BitVec 512 → Nat → (BitVec 512 ≃ BitVec 512)

end Sys2Proof.Config
end

