-- ==== Sys2Proof/Machine/Tracking.lean ====
section
/-! DEFINITION. Ordering and race detection: the parties of accesses, the records of granules, sync records, releases
and acquires (R326, R327, R338 to R349). -/

namespace Sys2Proof.Machine

/-! ## Parties (R343, R344) -/

/-- What the check knows of an accessing context. -/
structure Party where
  who : BitVec 28
  rc  : BitVec 24
  bar : BitVec 13
  ep  : BitVec 16
  table : List AcqEntry
  ovf : Bool
  off : Bool
  deriving DecidableEq, Repr

/-- The lowest die named by a mask. -/
def lowestDie (m : BitVec 8) : Nat := (((List.range 8).filter (fun d => m.getLsbD d)).headD 0)

/-- The home sector of a core's domain (R212). -/
def domHome (core : CoreId) (dom : Word) : Nat :=
  if (dom.extractLsb' 0 3) = 3 then lowestDie (dom.extractLsb' 24 8) else (coreDie core).toNat

/-- A core's barrier: home sector and BARN (R343). -/
def coreBar (core : CoreId) (dom : Word) : BitVec 13 := BitVec.ofNat 3 (domHome core dom) ++ dom.extractLsb' 32 10

/-- A context as a party. -/
def partyOf (s : State) (core : CoreId) (n : CtxNum) : Party :=
  let k := s.core core
  let c := k.ctx n
  { who := s.handle core n, rc := c.rc, bar := coreBar core k.dom, ep := k.ep
    table := c.acq, ovf := c.mmOvf, off := c.mmOff }

/-! ## The check (R345) -/

def notBefore (w a b : Nat) : Bool := a % 2 ^ w == b % 2 ^ w || afterMod w a b

/-- `ordered` (R345). -/
def Party.ordered (c : Party) (who : BitVec 28) (n : BitVec 24) (bar : BitVec 13) (ep : BitVec 16) : Bool :=
  who == c.who || (bar == c.bar && afterMod 16 c.ep.toNat ep.toNat) ||
    (match acqFind c.table false who with
     | some e => afterMod 24 e.count.toNat n.toNat
     | none => false)

/-- `till_ordered` (R345). -/
def Party.tillOrdered (c : Party) (g : GranRec) : Bool :=
  g.wtv && (match acqFind c.table true (g.wtill.setWidth 28) with
    | some e => notBefore 8 e.count.toNat g.warm.toNat
    | none => false)

/-- The barrier value that stands for readers of different barriers (R343). -/
def mixedBar : BitVec 13 := BitVec.allOnes 13

/-- The later of two episode counts. -/
def laterEp (a b : BitVec 16) : BitVec 16 := if afterMod 16 b.toNat a.toNat then b else a

/-- The tills that count a write, with their arm numbers; the lowest is first (R333, R343). -/
abbrev TillHits := List (BitVec 13 × BitVec 24)

/-- A record's till part. -/
def GranRec.withTills (g : GranRec) (h : TillHits) : GranRec :=
  match h with
  | [] => { g with wtv := false, wtill := 0, warm := 0, wtm := false }
  | (t, a) :: rest => { g with wtv := true, wtill := t, warm := a.setWidth 8, wtm := !rest.isEmpty }

/-- A record after a write of a party: the writer part is the party's, the reader part is cleared. -/
def GranRec.wrote (g : GranRec) (c : Party) (sync : Bool) (h : TillHits) : GranRec :=
  ({ g with wv := true, wat := sync, wctx := c.who, wrc := c.rc, wbar := c.bar, wep := c.ep
            rv := false, multi := false, rctx := 0, rrc := 0, rbar := 0, rep := 0 }).withTills h

/-- Every reader the record stands for is before the party. -/
def GranRec.readersBefore (g : GranRec) (c : Party) : Bool :=
  if g.multi then g.rbar == c.bar && afterMod 16 c.ep.toNat g.rep.toNat
  else !g.rv || c.ordered g.rctx g.rrc g.rbar g.rep

/-- A record after a read of a party (R345). -/
def GranRec.sawRead (g : GranRec) (c : Party) : GranRec :=
  if g.readersBefore c then
    { g with rv := true, multi := false, rctx := c.who, rrc := c.rc, rbar := c.bar, rep := c.ep }
  else { g with multi := true, rep := laterEp g.rep c.ep, rbar := if g.rbar = c.bar then g.rbar else mixedBar }

/-- `check` (R345): the cause it raises, or the record as it stands after the access. -/
def raceCheck (c : Party) (g : GranRec) (write sync : Bool) (h : TillHits) : Except Cause GranRec :=
  let wok := !g.wv || (sync && g.wat) || c.ordered g.wctx g.wrc g.wbar g.wep || c.tillOrdered g
  let rok := !write || !g.rv || sync
    || (!g.multi && c.ordered g.rctx g.rrc g.rbar g.rep)
    || (g.multi && g.rbar == c.bar && afterMod 16 c.ep.toNat g.rep.toNat)
  if !wok || !rok then
    .error (if c.ovf || g.lost || (!rok && g.multi) || (!wok && g.wtv && g.wtm) then .unproven else .race)
  else .ok (if write then g.wrote c sync h else g.sawRead c)

/-! ## The records of the machine -/

def State.gran (s : State) (g : Gran) : GranRec :=
  match s.grans.find? (fun e => e.1 == g) with
  | some e => e.2
  | none => {}

def State.setGran (s : State) (g : Gran) (r : GranRec) : State :=
  { s with grans := (g, r) :: s.grans.filter (fun e => e.1 != g) }

/-- Checks an access to several granules and, if every check passes, records it in each (R345, R347). -/
def checkGrans (s : State) (c : Party) (gs : List Gran) (write sync : Bool) (h : TillHits) : Except Cause State :=
  if c.off then .ok s
  else gs.foldl (fun acc g => match acc with
    | .error e => .error e
    | .ok t => match raceCheck c (s.gran g) write sync h with
      | .error e => .error e
      | .ok r => .ok (t.setGran g r)) (.ok s)

/-- Records a write that is never checked: by an engine for a context (R348). -/
def recordGrans (s : State) (c : Party) (gs : List Gran) (h : TillHits) : State :=
  gs.foldl (fun t g => t.setGran g ((t.gran g).wrote c false h)) s

/-- A write from the host or another module clears the writer part and sets the till part (R348). -/
def foreignGrans (s : State) (gs : List Gran) (h : TillHits) : State :=
  gs.foldl (fun t g => t.setGran g (({ t.gran g with
    wv := false, wat := false, wctx := 0, wrc := 0, wbar := 0, wep := 0 }).withTills h)) s

/-! ## Scopes (R327) -/

/-- A scope of a party covers another core. -/
def scopeCovers (sc : Scope) (a b : CoreId) : Bool :=
  match sc with
  | .core => a == b
  | .clu => coreCluster a == coreCluster b
  | .die => coreDie a == coreDie b
  | .mod | .sys => true

/-! ## Acquires and sync records (R344, R346) -/

/-- Merges a table into a context, entry by entry (R346). -/
def acquireInto (s : State) (core : CoreId) (n : CtxNum) (t : List AcqEntry) : State :=
  s.setCtx core n ((s.ctx core n).acquire t)

/-- The records that a new one of the same releaser and scope makes useless: it covers every byte they still stand for. -/
def SyncRec.replaces (r x : SyncRec) : Bool :=
  x.gran == r.gran && x.who == r.who && x.scope == r.scope && x.mask &&& ~~~r.mask == 0

/-- A release stands beside a granule of a slice, most recent last. A 129th record takes the place of the least recently used one,
whose granule is LOST (R346). -/
def putSync (s : State) (cl : ClusterId) (r : SyncRec) : State :=
  let k := s.cluster cl
  let old := k.syncs.filter (fun x => !r.replaces x)
  let all := old.filter (fun x => x.gran != r.gran) ++ old.filter (fun x => x.gran == r.gran) ++ [r]
  if 128 < all.length then
    match all with
    | v :: rest =>
      let s := s.setCluster cl { k with syncs := rest }
      s.setGran v.gran { s.gran v.gran with lost := true }
    | [] => s
  else s.setCluster cl { k with syncs := all }

/-- A new release of a granule: no older one is LOST for those who read it (R346). -/
def keepSync (s : State) (cl : ClusterId) (r : SyncRec) : State := putSync (s.setGran r.gran { s.gran r.gran with lost := false }) cl r

/-- A sync record of a flat granule within n bytes from a physical address. -/
def SyncRec.within (r : SyncRec) (p n : Nat) : Bool :=
  match r.gran with
  | .flat g => decide (p ≤ 64 * g) && decide (64 * g < p + n)
  | .tensor .. | .own _ => false

/-- The releases of the granules of some bytes are kept no more: the bytes have gone from there (R338). -/
def dropSyncs (s : State) (p n : Nat) : State :=
  { s with clusters := s.clusters.map (fun e =>
      if e.2.syncs.any (fun r => r.within p n) then (e.1, { e.2 with syncs := e.2.syncs.filter (fun r => !r.within p n) }) else e) }

/-- The bytes of a mask carry no release any more. -/
def endMask (l : List SyncRec) (g : Gran) (mask : BitVec 64) : List SyncRec :=
  (l.map (fun x => if x.gran == g then { x with mask := x.mask &&& ~~~mask } else x)).filter (fun x => x.mask != 0)

/-- A write that is no atomic ends the releases of the bytes it covers (R338). -/
def endSync (s : State) (cl : ClusterId) (g : Gran) (mask : BitVec 64) : State :=
  let k := s.cluster cl
  if k.syncs.any (fun x => x.gran == g) then
    s.setCluster cl { k with syncs := endMask k.syncs g mask }
  else s

/-- The releases that an acquire of a context reads, each scope covering the other's party (R327, R338). -/
def mergeSyncs (s : State) (core : CoreId) (n : CtxNum) (sc : Scope) (mask : BitVec 64) (l : List SyncRec) : State :=
  l.foldl (fun s r =>
    if r.mask &&& mask != 0 && scopeCovers r.scope r.src core && scopeCovers sc core r.src then
      acquireInto s core n r.table
    else s) s

/-- An acquire of a context that reads bytes of a granule (R338, R346). -/
def acquireSync (s : State) (core : CoreId) (n : CtxNum) (sc : Scope) (cl : ClusterId) (g : Gran) (mask : BitVec 64) : State :=
  let k := s.cluster cl
  let mine := k.syncs.filter (fun x => x.gran == g)
  let s := if mine.isEmpty then s
    else s.setCluster cl { k with syncs := k.syncs.filter (fun x => x.gran != g) ++ mine }
  let s := if (s.gran g).lost then s.setCtx core n { s.ctx core n with mmOvf := true } else s
  mergeSyncs s core n sc mask mine

/-- The mask of n bytes from byte a within its granule. -/
def granMask (g a n : Nat) : BitVec 64 :=
  let lo := max a (64 * g) - 64 * g
  let hi := min (a + n) (64 * g + 64) - 64 * g
  BitVec.ofNat 64 (2 ^ hi - 2 ^ lo)

/-- A write of local bytes ends the releases they carried, unless it is an atomic (R338, R346). -/
def Core.endLocal (k : Core) (a n : Nat) : Core :=
  if k.syncs.isEmpty then k
  else { k with syncs := ((List.range ((a + n + 63) / 64 - a / 64)).map (a / 64 + ·)).foldl (fun l g => endMask l (.own g) (granMask g a n)) k.syncs }

/-- A release of the issuing context that wrote n bytes of its local memory, at most one granule (R338). -/
def keepLocal (s : State) (a n : Nat) (sc : Scope) : State :=
  let k := s.myCore
  let g := a / 64
  let r : SyncRec := { gran := .own g, table := relTable s s.curCore s.curCtx, scope := sc, src := s.curCore, who := s.myHandle
                       mask := granMask g a n }
  bumpRc (s.setMyCore { k with syncs := k.syncs.filter (fun x => !r.replaces x) ++ [r] }) s.curCore s.curCtx

/-- An acquire of the issuing context that read n bytes of its local memory. -/
def acquireLocal (s : State) (a n : Nat) (sc : Scope) : State :=
  mergeSyncs s s.curCore s.curCtx sc (granMask (a / 64) a n) (s.myCore.syncs.filter (fun x => x.gran == .own (a / 64)))

/-! ## What a release waits for (R326, R328, R381) -/

/-- The context has a posted write that has not been acknowledged. -/
def journalBusy (k : Core) (n : CtxNum) (inc : BitVec 8) : Bool :=
  k.journal.any (fun e => e.2.state == 1 && e.2.ctx == n && e.2.inc == inc)

/-- Journal entries of the context of any state. -/
def journalHolds (k : Core) (n : CtxNum) (inc : BitVec 8) : Bool :=
  k.journal.any (fun e => e.2.state != 0 && e.2.ctx == n && e.2.inc == inc)

/-- A packet the context sent across dies has not been delivered or dropped. -/
def crossPending (s : State) (h : BitVec 28) : Bool :=
  s.net.any (fun p => p.hasSrc && p.owner == h && p.srcDie != p.dst && p.phase != .delivered)

/-- Every report owed for the earlier accesses of the issuing context has arrived and been taken (R381). -/
def reportsSettled (s : State) : Bool :=
  !journalBusy s.myCore s.curCtx s.me.inc && !crossPending s s.myHandle && s.me.reports.isEmpty

/-- A release of the issuing context: the table it hands over, and RC raised (R344, R346). -/
def releaseMine (s : State) : List AcqEntry × State := (relTable s s.curCore s.curCtx, bumpRc s s.curCore s.curCtx)

end Sys2Proof.Machine
end

