-- ==== Sys2Proof/Machine/Queues.lean ====
section
/-! DEFINITION. Continuation records, stage queues, quotas, and packets: the operations that tasks, tills and homes
share (R222 to R230, R368, R369, R26). -/

namespace Sys2Proof.Machine

/-! ## Continuation records (R222, R223) -/

/-- The bits of a mask, ascending. -/
def maskBits (m : Word) : List Nat := (List.range 64).filter (fun i => m.getLsbD i)

/-- A live mask with more than 16 bits breaks R223. -/
def maskBad (m : Word) : Bool := decide (16 < (maskBits m).length)

/-- The 16-byte slot at a byte offset of a record. -/
def vecAt (bs : List Byte) (i : Nat) : Vec := BitVec.ofNat 128 (bytesNat ((bs.drop i).take 16))

/-- The record that stands in 320 bytes (R222). -/
def recOfBytes (bs : List Byte) : Rec :=
  let hdr := wordAt bs 0
  { pri := hdr.extractLsb' 0 2, stage := hdr.extractLsb' 2 6, tenant := hdr.extractLsb' 8 7
    pc := wordAt bs 8, evval := wordAt bs 16, mask := wordAt bs 24, join := wordAt bs 32, vtags := wordAt bs 40
    regs := (List.range 16).map (fun i => vecAt bs (64 + 16 * i)) }

/-- The number of s slots and of v slots that a mask names. -/
def maskS (m : Word) : List Nat := (maskBits m).filter (· < 32)
def maskV (m : Word) : List Nat := ((maskBits m).filter (32 ≤ ·)).map (· - 32)

/-- The offset of the first failing 8 bytes of a record in memory, the content checks of R229. TENANT must be zero,
and STAGE too unless the record may name it. Bytes R222 fixes as zero are reserved. -/
def recFault (anyStage : Bool) (bs : List Byte) : Option Nat :=
  let hdr := wordAt bs 0
  let m := wordAt bs 24
  let ns := (maskS m).length
  let n := (maskBits m).length
  let bad (i : Nat) : Bool :=
    let x := wordAt bs (8 * i)
    if i = 0 then hdr.extractLsb' 15 49 != 0 || hdr.extractLsb' 8 7 != 0 || (!anyStage && hdr.extractLsb' 2 6 != 0)
    else if i = 1 then x.extractLsb' 0 4 != 0
    else if i = 3 then maskBad x
    else if i = 5 then (List.range 16).any (fun j => x.extractLsb' (4 * j) 4 != 0 && (j < ns || n ≤ j || 10 < (x.extractLsb' (4 * j) 4).toNat))
    else if i = 6 || i = 7 then x != 0
    else if 8 ≤ i then
      let slot := (i - 8) / 2
      if n ≤ slot then x != 0 else slot < ns && i % 2 == 1 && x != 0
    else false
  ((List.range 40).find? bad).map (8 * ·)

/-- The tag of a code; reserved codes read as B128. -/
def tagOfCode (c : Nat) : Tag :=
  match c with
  | 1 => .i8 | 2 => .q4 | 3 => .t6 | 4 => .t8 | 5 => .bf16 | 6 => .fp16 | 7 => .fp32 | 8 => .i16 | 9 => .i32 | 10 => .i64
  | _ => .b128

/-- The registers of a context in the order of a mask, with the tags word (R222). -/
def packLive (c : Ctx) (m : Word) : List Vec × Word :=
  let ss := (maskS m).map (fun i => ((c.getS (BitVec.ofNat 6 (32 + i))).setWidth 128, (0 : Nat)))
  let vs := (maskV m).map (fun i => let x := c.getV (BitVec.ofNat 5 i)
                                    (x.bits, x.tag.bits.toNat))
  let all := ss ++ vs
  (all.map (·.1) ++ List.replicate (16 - all.length) 0,
   BitVec.ofNat 64 ((all.map (·.2)).zipIdx.foldl (fun a e => a + e.1 * 16 ^ e.2) 0))

/-- Loads the live registers of a record (R224). -/
def loadLive (c : Ctx) (r : Rec) : Ctx :=
  let ss := maskS r.mask
  let vs := maskV r.mask
  let c := ss.zipIdx.foldl (fun c e => c.setS (BitVec.ofNat 6 (32 + e.1)) ((r.regs.getD e.2 0).setWidth 64)) c
  vs.zipIdx.foldl (fun c e =>
    let slot := ss.length + e.2
    c.setV (BitVec.ofNat 5 e.1) { bits := r.regs.getD slot 0, tag := tagOfCode (r.vtags.extractLsb' (4 * slot) 4).toNat }) c

/-! ## Stages of a tenant -/

def TenantState.stage (t : TenantState) (n : BitVec 6) : Stage := sparseGet {} t.stages n.toNat
def State.stage (s : State) (t : Tenant) (n : BitVec 6) : Stage := (s.tenantSt t).stage n
def State.setStage (s : State) (t : Tenant) (n : BitVec 6) (x : Stage) : State :=
  let ts := s.tenantSt t
  s.setTenantSt t { ts with stages := sparsePut ts.stages n.toNat x }

/-- Records that count against CAP: queued, parked, parents, and records stored beside tills (R226, R231, R332). -/
def Stage.occupancy (x : Stage) : Nat := x.queue.length + x.parked.length + x.parents + x.stored

/-- The stage's capacity is full. -/
def Stage.full (x : Stage) : Bool := decide (x.cap ≤ x.occupancy)

/-- A record enters the queue of its stage: ordered by the cycle of entry, then by the identifier of the sending
core (R227). -/
def enterQueue (s : State) (t : Tenant) (n : BitVec 6) (e : RecEntry) : State :=
  let x := s.stage t n
  let e := { e with entry := (s.die x.home).cycle }
  let before (y : RecEntry) : Bool := decide (y.entry < e.entry) || (y.entry == e.entry && decide (y.src.toNat ≤ e.src.toNat))
  s.setStage t n { x with queue := x.queue.takeWhile before ++ [e] ++ x.queue.dropWhile before }

/-! ## Quotas (R368, R369) -/

/-- The limits of tenant 0 before any service call, which are also the largest limits that service 0x804 accepts; the
other tenants start with 0 (R444). -/
def largestLimit (kind : Nat) : Nat :=
  match kind with
  | 0 => 3200 | 1 => 262144 | 2 => 1048576 | 3 => 1048576 | 4 => 1024 | 5 => 1023 | 6 => 4096 | 7 => 2 ^ 30 | 8 => 4096
  | _ => 0

/-- The key of a count: kind, or a sector for the tills. -/
def countKey (kind : Nat) (sector : Die) : Nat := if kind = 4 then 16 + sector.toNat else kind

/-- The limit of a kind; that of tills is each sector's own. -/
def TenantState.limit (ts : TenantState) (t : Tenant) (kind : Nat) (sector : Die) : Nat :=
  (sparseFind ts.limits (countKey kind sector)).getD (if t = 0 then largestLimit kind else 0)

def TenantState.count (ts : TenantState) (key : Nat) : Nat := sparseGet 0 ts.counts key

/-- The clusters and the key slots a tenant holds; those not listed are tenant 0's (R444). -/
def clustersOf (s : State) (t : Tenant) : Nat :=
  if t = 0 then 3200 - (s.clusters.filter (fun e => e.2.tenant != 0)).length
  else (s.clusters.filter (fun e => e.2.tenant == t)).length
def keysOf (s : State) (t : Tenant) : Nat :=
  if t = 0 then 4096 - (s.keyOwner.filter (fun e => e.2 != 0)).length
  else (s.keyOwner.filter (fun e => e.2 == t)).length

/-- The count of a kind (R368). -/
def quotaCount (s : State) (t : Tenant) (kind : Nat) (sector : Die) : Nat :=
  if kind = 0 then clustersOf s t else if kind = 8 then keysOf s t else (s.tenantSt t).count (countKey kind sector)

/-- n more units stay within the limit. -/
def quotaFits (s : State) (t : Tenant) (kind : Nat) (sector : Die) (n : Nat) : Bool :=
  decide (quotaCount s t kind sector + n ≤ (s.tenantSt t).limit t kind sector)

def quotaTake (s : State) (t : Tenant) (kind : Nat) (sector : Die) (n : Nat) : State :=
  let ts := s.tenantSt t
  let k := countKey kind sector
  s.setTenantSt t { ts with counts := sparseAssign 0 ts.counts k (ts.count k + n) }

def quotaReturn (s : State) (t : Tenant) (kind : Nat) (sector : Die) (n : Nat) : State :=
  let ts := s.tenantSt t
  let k := countKey kind sector
  s.setTenantSt t { ts with counts := sparseAssign 0 ts.counts k (ts.count k - n) }

/-! ## Packets and their causal stamps (R26, R350, R351) -/

/-- Entry i, j of an 8 by 8 matrix. -/
def matAt (m : List (BitVec 12)) (i j : Nat) : BitVec 12 := m.getD (8 * i + j) 0

/-- `mod_ge` and `mod_max`. -/
def modGe (a b : BitVec 12) : Bool := decide ((a - b).toNat < 2048)
def modMax (a b : BitVec 12) : BitVec 12 := if modGe a b then a else b

/-- The STAMP of a packet to a die: the column of the destination. -/
def DieState.stampTo (x : DieState) (dst : Die) : List (BitVec 12) := (List.range 8).map (fun k => matAt x.know k dst.toNat)

/-- A die has sent a packet to another. -/
def DieState.sentTo (x : DieState) (src dst : Die) : DieState :=
  let i := 8 * src.toNat + dst.toNat
  { x with know := x.know.set i (x.know.getD i 0 + 1) }

/-- `deliverable`: the next from its source, and everything it depends on has been delivered. -/
def DieState.accepts (x : DieState) (src : Die) (stamp : List (BitVec 12)) : Bool :=
  (List.range 8).all (fun k =>
    let st := stamp.getD k 0
    let dl := x.deliv.getD k 0
    if k = src.toNat then st == dl else modGe dl st)

/-- `deliver` at a die: the counter, the knowledge matrix, and the matrix of a sync packet. -/
def DieState.received (x : DieState) (src dst : Die) (matrix : Option (List (BitVec 12))) : DieState :=
  let dl := x.deliv.getD src.toNat 0 + 1
  let i := 8 * src.toNat + dst.toNat
  let know := x.know.set i (modMax (x.know.getD i 0) dl)
  let know := match matrix with
    | some m => (know.zip m).map (fun e => modMax e.1 e.2)
    | none => know
  { x with deliv := x.deliv.set src.toNat dl, know := know }

/-- A die has 2,047 packets undelivered to another (R351). -/
def linkFull (s : State) (a b : Die) : Bool :=
  a != b && decide (2047 ≤ (s.net.filter (fun p => p.srcDie == a && p.dst == b && (p.phase == .link || p.phase == .early))).length)

/-- A packet leaves its die: it is stamped, and a sync packet takes the matrix. -/
def inject (s : State) (p : Pkt) (sync : Bool) : State × Pkt :=
  let d := s.die p.srcDie
  let stamp := d.stampTo p.dst
  let d := d.sentTo p.srcDie p.dst
  (s.setDie p.srcDie d, { p with phase := .link, gen := d.gen, stamp := stamp, matrix := if sync then some d.know else none })

/-- A new packet. One to another die is held while the link to it is full or older packets wait for it. -/
def sendPkt (s : State) (p : Pkt) (sync : Bool) : State :=
  let id := s.nextId
  let p := { p with id := id, time := s.time }
  let put (s : State) (p : Pkt) : State := { s with net := s.net ++ [p], nextId := id + 1 }
  if p.srcDie = p.dst then put s p
  else if linkFull s p.srcDie p.dst || s.net.any (fun q => q.phase == .held && q.srcDie == p.srcDie && q.dst == p.dst) then
    put s { p with phase := .held, matrix := if sync then some [] else none }
  else
    let (s, p) := inject s p sync
    put s p

/-- The path from a die to another is in service (R438); links that are down are not. -/
def reachable (s : State) (a b : Die) : Bool := s.inService b && (a == b || s.inService a)

/-- Sends a packet of a context, or drops it and counts an orphan when its die is not in service (R205). -/
def sendFrom (s : State) (core : CoreId) (owner : BitVec 28) (dst : Die) (msg : Msg) (rel : List AcqEntry) (sync : Bool)
    (opId : Option Nat := none) : State :=
  let srcDie := coreDie core
  if reachable s srcDie dst then
    let p : Pkt := { id := 0, src := core, owner := owner, srcDie := srcDie, dst := dst, msg := msg, rel := rel, opId := opId
                     tenant := s.tenantOf core }
    sendPkt s { p with epc := (s.ctx core (handleCtx owner)).pc } sync
  else orphanAtIssuer s core

/-- Sends a packet of a home, which no context issued, for a tenant. -/
def sendHome (s : State) (t : Tenant) (die dst : Die) (msg : Msg) (rel : List AcqEntry) (sync : Bool) : State :=
  if reachable s die dst then
    sendPkt s { id := 0, src := 0, hasSrc := false, srcDie := die, dst := dst, msg := msg, rel := rel, tenant := t } sync
  else s

/-- A die holds a packet in its early buffer that it can deliver: it comes before a packet that arrives now (R352). -/
def earlierWaits (s : State) (b : Die) : Bool :=
  s.net.any (fun q => q.phase == .early && q.dst == b && (s.die b).accepts q.srcDie q.stamp)

/-- A packet that is sent and delivered in one step, if it can be (R351), behind those that the die can deliver already (R352). -/
def crossing (s : State) (a b : Die) (sync : Bool) : Option State :=
  if a = b || !reachable s a b then some s
  else
    let x := s.die a
    if (s.die b).accepts a (x.stampTo b) && !earlierWaits s b then
      let x := x.sentTo a b
      let s := s.setDie a x
      some (s.setDie b ((s.die b).received a b (if sync then some x.know else none)))
    else none

/-- A request and its reply, each sent and delivered in one step. -/
def exchange (s : State) (a b : Die) (sync : Bool) : Option State := (crossing s a b sync).bind (fun s => crossing s b a false)

/-- A transfer between two dies whose effect stands with the operation it belongs to: its packet and the reply are delivered in the
step, or the packet travels, in its order, with what is on its way already (R351; DESIGN CHOICE, log 74). -/
def carry (s : State) (t : Tenant) (a b : Die) (sync : Bool) : State :=
  (exchange s a b sync).getD (sendHome s t a b (.echo false) [] sync)

/-! ## Paths (R16, R421) -/

def dieCol (d : Nat) : Nat := d % 4
def dieRow (d : Nat) : Nat := d / 4

/-- The dies of a row between two columns, both included. -/
def rowSpan (row a b : Nat) : List Nat := (List.range 4).filterMap (fun c => if min a b ≤ c ∧ c ≤ max a b then some (4 * row + c) else none)

/-- The dies of the two paths of R421, ends included. -/
def pathOne (a b : Nat) : List Nat := rowSpan (dieRow a) (dieCol a) (dieCol b) ++ [b]
def pathTwo (a b : Nat) : List Nat := [a] ++ rowSpan (1 - dieRow a) (dieCol a) (dieCol b) ++ [b]

def avoids (f : Nat → Bool) (p : List Nat) : Bool := p.all (fun d => !f d)

/-- The path that a pair of dies uses while some are fenced. -/
def pathOf (f : Nat → Bool) (a b : Nat) : List Nat := if avoids f (pathOne a b) then pathOne a b else pathTwo a b

/-- A die has been fenced. -/
def State.fencedDie (s : State) (n : Nat) : Bool := (s.die (BitVec.ofNat 3 n)).fenced

/-- The links that a packet between two dies crosses. -/
def hops (s : State) (a b : Die) : Nat := if a = b then 0 else (pathOf s.fencedDie a.toNat b.toNat).dedup.length - 1

/-! ## Purses (R370 to R372) -/

/-- The cost of a payload of b bytes. -/
def coins (b : Nat) : Nat := max 1 ((b + 63) / 64)

/-- The items of a payload that goes in parts of 512 bytes. -/
def itemBytes (b : Nat) : List Nat := (List.range ((b + 511) / 512)).map (fun i => min 512 (b - 512 * i))

/-- A charge after the fact, or at admission; with RATE 0 the purse never charges. -/
def charge (p : Purse) (c : Nat) : Purse := if p.rate = 0 then p else { p with bal := max (-(p.rate : Int)) (p.bal - c) }

/-- A packet of b bytes is charged after the fact to the FAB purse of a die, once for each of n links. -/
def chargeLinks (s : State) (t : Tenant) (d : Die) (n b : Nat) : State :=
  let f := s.purse t true d
  if n = 0 || f.rate = 0 then s else s.setPurse t true d (charge f (n * coins b))

/-- What is charged after it has been sent, to the purses of the request it belongs to: b bytes, which FAB carries over n links,
those that other dies forward it to among them (R371). -/
def chargeSent (s : State) (t : Tenant) (d : Die) (n b : Nat) : State :=
  let p := s.purse t false d
  chargeLinks (if p.rate = 0 then s else s.setPurse t false d (charge p (coins b))) t d n b

/-- What is charged after the fact for a message of b bytes from another die, or toward it. -/
def chargeAfter (s : State) (t : Tenant) (d dst : Die) (b : Nat) : State := chargeSent s t d (hops s d dst) b

/-- What other dies forward of a request is charged after the fact to the FAB purse that its packets were charged to (R371). -/
def chargeForwards (s : State) (t : Tenant) (d dst : Die) (bs : List Nat) : State :=
  bs.foldl (fun s b => chargeLinks s t d (hops s d dst - 1) b) s

/-- A request at one purse: admitted and charged, or held behind the older ones (R372). -/
def askPurse (s : State) (t : Tenant) (fab : Bool) (d : Die) (who : Ticket) (c : Nat) : Except State State :=
  let p := s.purse t fab d
  if p.rate = 0 then .ok (if p.held.any (fun e => e.1 == who) then s.setPurse t fab d { p with held := p.held.filter (fun e => e.1 != who) } else s)
  else if p.held.any (fun e => e.1 == who) then .error s
  else if p.held.isEmpty && decide (0 < p.bal) then .ok (s.setPurse t fab d (charge p c))
  else .error (s.setPurse t fab d { p with held := p.held ++ [(who, c)] })

/-- The items of a request at one purse, from the first that it has not admitted; the number admitted comes with it. -/
def askItems (t : Tenant) (fab : Bool) (d : Die) (who : Ticket) : Nat → List Nat → State → Except (Nat × State) State
  | _, [], s => .ok s
  | n, c :: cs, s => match askPurse s t fab d who c with
    | .error u => .error (n, u)
    | .ok u => askItems t fab d who (n + 1) cs u

/-- The items of a request at both purses of a die, from those that are admitted: MEM all of them, FAB those that leave the die.
The numbers admitted come with the state that holds the rest. -/
def askBoth (t : Tenant) (d : Die) (who : Ticket) (m f : Nat) (cs fs : List Nat) (s : State) : Except (Nat × Nat × State) State :=
  match askItems t false d who m (cs.drop m) s with
  | .error (n, u) => .error (n, f, u)
  | .ok u => match askItems t true d who f (fs.drop f) u with
    | .error (n, v) => .error (cs.length, n, v)
    | .ok v => .ok v

/-- The admission of a request of the issuing context, item by item: payloads at MEM, and those that leave its die at FAB
(R371). What has been admitted stays so while the rest is held. -/
def admitItems (s : State) (mem fab : List Nat) : Except State State :=
  let d := coreDie s.curCore
  let who : Ticket := .ctx s.curCore s.curCtx
  let (m, f) := match s.me.pend with
    | .admitted m f => (m, f)
    | _ => (0, 0)
  let clear (s : State) : State := match s.me.pend with
    | .admitted .. => s.setMe { s.me with pend := .none }
    | _ => s
  match askBoth s.myTenant d who m f (mem.map coins) (fab.map coins) s with
  | .error (n, g, u) => .error (u.setMe { u.me with pend := .admitted n g })
  | .ok u => .ok (clear u)

/-- The admission of a request to one die, with the charge for what is forwarded of it. -/
def admitAll (s : State) (bs : List Nat) (dst : Die) : Except State State :=
  (admitItems s bs (if coreDie s.curCore = dst then [] else bs)).map (fun u => chargeForwards u u.myTenant (coreDie u.curCore) dst bs)

/-- Holds the issuing context's instruction until the items of its request are admitted and the link takes its packet. -/
def withAdmission (bs : List Nat) (dst : Die) (k : State → Eff) (s : State) : Eff :=
  if linkFull s (coreDie s.curCore) dst then .hold s
  else match admitAll s bs dst with
    | .error t => .hold t
    | .ok t => k t

/-- Requests and replies between a die and others, each delivered in the step (R351). -/
def exchangeAll (s : State) (d : Die) (ds : List Die) : Option State :=
  ds.dedup.foldl (fun acc x => acc.bind (fun s => exchange s d x false)) (some s)

/-- A die that is not in service, and has not been fenced, gets nothing of another: the links are idle (R438). -/
def unserved (s : State) (a b : Die) : Bool := a != b && !reachable s a b && !(s.die b).fenced

/-- The request of the issuing context is dropped on its way to a die that is not in service, an orphan of its core, and its
context is held for a reply that never comes (R205, R438, DEDUCED, log 59). -/
def dropRequest (s : State) : Eff :=
  let s := orphanAtIssuer s s.curCore
  .hold (s.setMe { s.me with pend := .dropped })

/-- A packet that is delivered in the step, or holds the context until it can be (R351), and until it is admitted. -/
def withPacket (bs : List Nat) (dst : Die) (sync : Bool) (k : State → Eff) (s : State) : Eff :=
  match crossing s (coreDie s.curCore) dst sync with
  | none => .hold s
  | some _ => withAdmission bs dst (fun s => k ((crossing s (coreDie s.curCore) dst sync).getD s)) s

/-- A request that no purse admits, to a till or to another part of a home, with its reply: both are delivered in the step, or
the context is held (R351). -/
def withExchange (dst : Die) (sync : Bool) (k : State → Eff) (s : State) : Eff :=
  if unserved s (coreDie s.curCore) dst then dropRequest s
  else if linkFull s (coreDie s.curCore) dst then .hold s
  else match exchange s (coreDie s.curCore) dst sync with
    | none => .hold s
    | some t => k t

/-- A request whose reply of `reply` bytes comes within the step: it is held until its packet can be delivered at once,
behind everything that precedes it (R351), and until it is admitted; its reply is charged after the fact. -/
def withRequest (bs : List Nat) (dst : Die) (sync : Bool) (reply : Nat) (k : State → Eff) (s : State) : Eff :=
  if unserved s (coreDie s.curCore) dst then dropRequest s
  else match exchange s (coreDie s.curCore) dst sync with
  | none => .hold s
  | some _ => withAdmission bs dst (fun s =>
      k (chargeAfter ((exchange s (coreDie s.curCore) dst sync).getD s) s.myTenant (coreDie s.curCore) dst reply)) s

/-- Packets of a die to several others, delivered in the step (R351). -/
def crossAll (s : State) (d : Die) (ds : List Die) : Option State :=
  ds.foldl (fun acc x => acc.bind (fun s => crossing s d x false)) (some s)

/-- The charges after the fact for requests to several dies: what is forwarded of the packets that leave the die, in the order of
those dies, and a reply of some bytes from each (R371). -/
def chargeReplies (s : State) (fab : List Nat) (dies : List Die) (reply : Nat) : State :=
  let d := coreDie s.curCore
  let s := ((dies.dedup.filter (· != d)).zip fab).foldl (fun s x => chargeForwards s s.myTenant d x.1 [x.2]) s
  dies.dedup.foldl (fun s x => chargeAfter s s.myTenant d x reply) s

/-- As `withPacket`, to several dies, with the payloads at MEM and those of the packets that leave the die at FAB, the first of them
one for each of these dies. -/
def withPackets (mem fab : List Nat) (dies : List Die) (k : State → Eff) (s : State) : Eff :=
  let d := coreDie s.curCore
  let away := dies.filter (· != d)
  if away.any (linkFull s d) then .hold s
  else match crossAll s d dies with
    | none => .hold s
    | some _ => match admitItems s mem fab with
      | .error t => .hold t
      | .ok s => k ((away.zip fab).foldl (fun s x => chargeForwards s s.myTenant d x.1 [x.2]) ((crossAll s d dies).getD s))

/-- As `withRequest`, toward several dies: the payloads at MEM, those of the packets that leave the die at FAB, and a reply of
`reply` bytes from each die. -/
def withRequests (mem fab : List Nat) (dies : List Die) (reply : Nat) (k : State → Eff) (s : State) : Eff :=
  let d := coreDie s.curCore
  if dies.any (unserved s d) then dropRequest s
  else if dies.any (linkFull s d) then .hold s
  else match exchangeAll s d dies with
    | none => .hold s
    | some _ => match admitItems s mem fab with
      | .error t => .hold t
      | .ok s => k (chargeReplies ((exchangeAll s d dies).getD s) fab dies reply)

end Sys2Proof.Machine
end

