-- ==== Sys2Proof/Machine/Tills.lean ====
section
/-! DEFINITION. Tills: which of them count a write, counting, firing and the actions of a firing, and the parked
records bound to them (R225, R330 to R334). -/

namespace Sys2Proof.Machine

/-- The sector and the number of a till identifier (R330). -/
def tillSector (t : BitVec 13) : Die := t.extractLsb' 10 3
def tillNum (t : BitVec 13) : Nat := (t.extractLsb' 0 10).toNat
def mkTill (d : Die) (n : Nat) : BitVec 13 := d ++ BitVec.ofNat 10 n

def State.till (s : State) (t : BitVec 13) : Till := sparseGet {} (s.sector (tillSector t)).tills (tillNum t)
def State.setTill (s : State) (t : BitVec 13) (x : Till) : State :=
  let k := s.sector (tillSector t)
  s.setSector (tillSector t) { k with tills := sparsePut k.tills (tillNum t) x }

/-- KIND, BARN, STAGE and EVT of an action word (R331). -/
def actKind (a : Word) : Nat := (a.extractLsb' 0 2).toNat
def actBarn (a : Word) : BitVec 10 := a.extractLsb' 2 10
def actStage (a : Word) : BitVec 6 := a.extractLsb' 12 6
def actEvt (a : Word) : BitVec 16 := a.extractLsb' 18 16

/-- The bytes of a written list that lie in the region of a till. -/
def Till.hits (x : Till) (addrs : List Nat) : Nat :=
  (addrs.filter (fun a => decide (x.base.toNat ≤ a) && decide (a < x.base.toNat + 512 * x.grans))).length

/-- The listed tills of the module, lowest identifier first. -/
def allTills (s : State) : List (BitVec 13 × Till) :=
  s.sectors.flatMap (fun d => d.2.tills.map (fun e => (mkTill (BitVec.ofNat 3 d.1) e.1, e.2)))

/-- The armed tills of a tenant that count a write of bytes at virtual addresses (R333). -/
def tillsCounting (s : State) (t : Tenant) (addrs : List Nat) : TillHits :=
  (allTills s).filterMap (fun e =>
    if e.2.owned && e.2.armed && e.2.owner == t && e.2.hits addrs != 0 then some (e.1, e.2.arm) else none)

/-- The table entry that a firing carries (R346). -/
def tillEntry (t : BitVec 13) (arm : BitVec 24) : AcqEntry := { till := true, who := t.setWidth 28, count := arm }

/-- The parked record bound to a till leaves its stage's parked list. -/
def takeParked (s : State) (t : Tenant) (st : BitVec 6) (till : BitVec 13) : Option (RecEntry × State) :=
  let x := s.stage t st
  match x.parked.find? (fun e => e.ev == some (.till till)) with
  | some e => some (e, s.setStage t st { x with parked := x.parked.erase e })
  | none => none

/-- A parked record enters its stage's queue with an event value and what its start acquires. -/
def resumeParked (s : State) (t : Tenant) (st : BitVec 6) (e : RecEntry) (evval : Word) (rel : List AcqEntry) : State :=
  enterQueue s t st { e with ev := none, r := { e.r with evval := evval }, rel := rel.foldl acqAdd e.rel }

/-- The action of a till that has fired (R334). It is charged after the fact to the purse of the counted write, whose request
came from a die, if it has one (R371). A record that stands beside the till has no sending core: it counts as the first of the
till's sector (R227, DESIGN CHOICE, log 67). -/
def fireAction (payer : Option Die) (s : State) (id : BitVec 13) : State :=
  let x := s.till id
  let s := match payer with
    | some d => chargeAfter s x.owner d (tillSector id) 0
    | none => s
  let rel := [tillEntry id x.arm]
  match actKind x.act with
  | 1 =>
    let d := tillSector id
    let k := s.sector d
    let b := sparseGet ({} : Barrier) k.barriers (actBarn x.act).toNat
    -- a release counts for barriers of its own tenant only (R4)
    let b := { b with tillActs := b.tillActs ++ rel.map (fun e => (x.owner, e)) }
    s.setSector d { k with barriers := sparsePut k.barriers (actBarn x.act).toNat b }
  | 2 =>
    let ev := BitVec.ofNat 64 x.count
    match x.bound with
    | some st =>
      let s := s.setTill id { x with bound := none, started := true }
      match takeParked s x.owner st id with
      | some (e, s) => resumeParked s x.owner st e ev rel
      | none => s
    | none =>
      match x.stored with
      | some r =>
        enterQueue (s.setTill id { x with started := true }) x.owner (actStage x.act)
          { r := { r with evval := ev, stage := actStage x.act, tenant := x.owner }
            src := (tillSector id) ++ (0 : BitVec 13), quota := false, rel := acqAdd x.rel (tillEntry id x.arm) }
      | none => s
  -- a signal of no bits is not sent (R209)
  | 3 => if actEvt x.act = 0 then s else sendHome s x.owner (tillSector id) (coreDie (handleCore (x.arg.setWidth 28)))
      (.signal (x.arg.setWidth 28) (actEvt x.act)) rel true
  | _ => s

/-- One till counts bytes of a performed write, and fires once when TOTAL is reached (R333, R334). -/
def countTill (payer : Option Die) (s : State) (addrs : List Nat) (id : BitVec 13) : State :=
  let x := s.till id
  let n := x.count + x.hits addrs
  if n < x.total then s.setTill id { x with count := n }
  else fireAction payer (s.setTill id { x with count := n, fired := true, armed := false }) id

/-- Every till that counts the write (R333), whose request came from a die, if it has one. -/
def countTills (payer : Option Die) (s : State) (addrs : List Nat) (h : TillHits) : State :=
  h.foldl (fun s e => countTill payer s addrs e.1) s

end Sys2Proof.Machine
end

