-- ==== Sys2Proof/Machine/Pages.lean ====
section
/-! DEFINITION. Pages and tensors: leaf entries and translation (R282, R374, R428), home slices (R279), tags of
entries (R277), descriptor records, and the bytes of a tile (R286 to R289). A physical address below 2^40 is a stack
address with the sector in bits 39:37; one from 2^40 up is host memory. -/

namespace Sys2Proof.Machine

/-! ## Physical addresses (R29, R374) -/

def hostBase : Nat := 2 ^ 40

/-- Whether a physical address lies in host memory. -/
def isHost (p : Nat) : Bool := decide (hostBase ≤ p)

/-- The home die of a physical address; host lines are homed on die.4 (R279). -/
def homeDie (p : Nat) : Die := if isHost p then 4 else BitVec.ofNat 3 (p / 2 ^ 37)

/-- A stack address exists below 128 GB of its sector (R29). -/
def stackExists (p : Nat) : Bool := isHost p || decide (p % 2 ^ 37 < 128 * 10 ^ 9)

def physByte (s : State) (p : Nat) : Byte := if isHost p then memByte s.hostMem (p - hostBase) else memByte s.mem p

def physSet (s : State) (p : Nat) (b : Byte) : State :=
  if isHost p then { s with hostMem := memSet s.hostMem (p - hostBase) b } else { s with mem := memSet s.mem p b }

/-! ## Leaf entries (R374) -/

/-- The bytes of a page of a SIZE. -/
def pageBytes (size : BitVec 2) : Nat := if size = 0 then 65536 else if size = 1 then 2097152 else 1073741824

/-- The page of a tenant that covers a 57-bit address: its first 64 KiB part and its entry. -/
def leafOf (ts : TenantState) (va : Nat) : Option (Nat × Leaf) :=
  let p := va / 65536
  let look (key : Nat) (size : BitVec 2) : Option (Nat × Leaf) :=
    match sparseFind ts.leaves key with
    | some l => if l.size = size then some (key, l) else none
    | none => none
  match look p 0 with
  | some r => some r
  | none => match look (p / 32 * 32) 1 with
    | some r => some r
    | none => look (p / 16384 * 16384) 2

/-- The physical address of a device page at an offset. -/
def Leaf.phys (l : Leaf) (va : Nat) : Nat := (l.frame.extractLsb' 0 24).toNat * 65536 + va % pageBytes l.size

/-- The untranslated address of a host-backed page (R428). -/
def Leaf.untranslated (l : Leaf) (va : Nat) : Nat := l.frame.toNat * 4096 + va % 65536

/-- Bits 63:57 are seven copies of bit 56 (R282). -/
def canonical (a : Word) : Bool := (a.extractLsb' 0 57).signExtend 64 == a

/-- The 57-bit address. -/
def va57 (a : Word) : Nat := (a.extractLsb' 0 57).toNat

/-- The address names local memory: no such address ever translates to global memory (R21). -/
def isLocal (a : Word) : Bool := a.extractLsb' 17 47 == 0

/-- What a walk comes to. -/
inductive Xl where
  | ok (p : Nat) (key : Nat) (l : Leaf)
  | bad (c : Cause)
  | wait (w : PageWait)
  | hole

/-- PAGE of a trap message (R398). -/
def pageField (a : Word) (host : Bool) : Nat := if host then va57 a / 4096 else va57 a / 4096 / 16 * 16

/-- The rights an access needs. -/
def Leaf.grants (l : Leaf) (k : AccKind) : Bool :=
  match k with
  | .read => l.rd
  | .write => l.wr
  | .fetch => l.ex
  | .host => true

/-- The right that an access needs of a host translation: W for a write, R for every other (R428, R429). -/
def HostTrans.grants (e : HostTrans) (k : AccKind) : Bool := if k = .write then e.wr else e.rd

/-- The host translation of a page of a PASID address that serves an access of a core: in its own TLB, then in the cluster's,
one that grants the right (R428). -/
def hostLookup (s : State) (core : CoreId) (t : Tenant) (u : Nat) (k : AccKind) : Option HostTrans :=
  let hit (e : HostTrans) : Bool := e.tenant == t && e.page == u && e.grants k
  ((s.core core).hostTlb.find? hit).or ((s.cluster (coreCluster core)).hostTlb.find? hit)

/-- Translation of one address for a tenant on a core (R282, R293, R380, R428). A write to a frozen page is reported before
its missing right, or it could never be reported (R285, DEDUCED, log 26); an address of local memory has no translation
(R21), which is reported as a missing right (DESIGN CHOICE, log 26). -/
def translate (s : State) (core : CoreId) (t : Tenant) (a : Word) (k : AccKind) : Xl :=
  let fetch := k == .fetch
  if isLocal a || !canonical a then .bad (if fetch then .fetch else .xlatePerm)
  else
    let missing : Xl := .wait { page := pageField a false, kind := k, addr := a, need := k }
    match leafOf (s.tenantSt t) (va57 a) with
    | none => missing
    | some (key, l) =>
      if !l.p then (if l.host then .wait { page := pageField a true, kind := k, addr := a, need := k } else missing)
      else if l.mig then (if l.host then .wait { page := pageField a true, kind := k, addr := a, need := k } else missing)
      else if k == .write && l.frz then .bad .frozenStore
      else if !l.grants k then .bad (if fetch then .fetch else .xlatePerm)
      else if !l.host then
        let p := l.phys (va57 a)
        if stackExists p then .ok p key l else .hole
      else
        let u := l.untranslated (va57 a)
        match hostLookup s core t (u / 4096) k with
        | some e => .ok (hostBase + e.hpa + u % 4096) key l
        | none => .wait { page := pageField a true, kind := .host, addr := a, need := k, ats := some (u / 4096) }

/-- The newest entries of a TLB of n entries, of which `other` are of the other kind: the oldest go, and one of each kind finds
room (DESIGN CHOICE, log 29). -/
def newest {α : Type} (n other : Nat) (l : List α) : List α := l.drop (l.length - max 1 (n - other))

/-- A key or a host translation joins a list that does not hold it. -/
def joinTlb {α : Type} [DecidableEq α] (n other : Nat) (l : List α) (x : α) : List α :=
  if l.contains x then l else newest n other (l ++ [x])

/-- The entries of a core's TLB and of a cluster's (R24). -/
def coreTlbSize : Nat := 32
def clusterTlbSize : Nat := 512

/-- The TLBs of a core and of its cluster take a host translation (R290, R428, R429). -/
def takeHostTrans (s : State) (core : CoreId) (e : HostTrans) : State :=
  let k := s.core core
  let h := joinTlb coreTlbSize k.tlb.length k.hostTlb e
  let s := s.setCore core { k with hostTlb := h, tlb := newest coreTlbSize h.length k.tlb }
  let c := s.cluster (coreCluster core)
  let h := joinTlb clusterTlbSize c.tlb.length c.hostTlb e
  s.setCluster (coreCluster core) { c with hostTlb := h, tlb := newest clusterTlbSize h.length c.tlb }

/-- The TLBs take the page of a translated address, and of a host-backed page its 4 KiB that served the access (R290). -/
def fillTlbs (s : State) (core : CoreId) (a : Word) (key : Nat) (l : Leaf) (need : AccKind) : State :=
  let k := s.core core
  let c := s.cluster (coreCluster core)
  let s := if k.tlb.contains key && c.tlb.contains key then s
    else
      let x := joinTlb coreTlbSize k.hostTlb.length k.tlb key
      let y := joinTlb clusterTlbSize c.hostTlb.length c.tlb key
      (s.setCore core { k with tlb := x, hostTlb := newest coreTlbSize x.length k.hostTlb }).setCluster (coreCluster core)
        { c with tlb := y, hostTlb := newest clusterTlbSize y.length c.hostTlb }
  if !l.host then s
  else match hostLookup s core (s.tenantOf core) (l.untranslated (va57 a) / 4096) need with
    | some e => takeHostTrans s core e
    | none => s

/-- A page-fault trap message of a held context (R398). -/
def sendTrapMsg (s : State) (core : CoreId) (w : PageWait) : State :=
  let d := s.die (coreDie core)
  let m : TrapMsg := { id := s.nextId, die := coreDie core, row := coreY core, tenant := s.tenantOf core
                       kind := w.kind, page := w.page, cores := [core] }
  { (s.setDie (coreDie core) { d with trapMsgs := d.trapMsgs ++ [m] }) with nextId := s.nextId + 1 }

/-- A Translation Request of a core's cluster for a held access; at most 16 are outstanding, and one page has one (R428,
R429). -/
def askAts (s : State) (core : CoreId) (w : PageWait) (u : Nat) : State :=
  let cl := coreCluster core
  let c := s.cluster cl
  let t := s.tenantOf core
  let wr := match leafOf (s.tenantSt t) (va57 w.addr) with
    | some (_, l) => l.wr
    | none => false
  if c.atsReqs.any (fun e => e.tenant == t && e.page == u) || decide (16 ≤ c.atsReqs.length) then s
  else s.setCluster cl { c with atsReqs := c.atsReqs ++ [{ tenant := t, pasid := (s.tenantSt t).pasid, page := u
                                                           noWrite := !wr, execute := w.need == .fetch }] }

/-- Holds the issuing context for a page: a Translation Request is sent, or a trap message toward the collector, which is
charged to the purse of the access (R371). -/
def waitForPage (s : State) (w : PageWait) : State :=
  let s := s.setMe { s.me with pageWait := some w }
  match w.ats with
  | some u => askAts s s.curCore w u
  | none => chargeAfter (sendTrapMsg s s.curCore w) s.myTenant (coreDie s.curCore) (coreDie s.curCore) 0

/-- Translates for an instruction of the issuing context and goes on, or traps with the cause that a map gives, or holds. -/
def withPageAs (f : Cause → Cause) (s : State) (a : Word) (k : AccKind) (go : State → Nat → Leaf → Eff) : Eff :=
  match translate s s.curCore s.myTenant a k with
  | .ok p key l => go (fillTlbs s s.curCore a key l k) p l
  | .bad c => .trap (f c) a
  | .wait w => .hold (waitForPage s w)
  | .hole => .stop .noSuchFrame

def withPage : State → Word → AccKind → (State → Nat → Leaf → Eff) → Eff := withPageAs id

/-- The causes of a check that names faults of translation only: a page that may not be written lacks the right (R192, R407,
R412). -/
def xlateOnly : Cause → Cause
  | .frozenStore => .xlatePerm
  | c => c

/-! ## Home slices and tags (R277, R279) -/

/-- `home_slice`: the cluster of a die whose slice is home. -/
def homeSlice (d : Die) (tid : Nat) (tile : Nat) : ClusterId :=
  let x := tile ^^^ (tid <<< 24)
  let y := ((x ^^^ (x >>> 16) ^^^ (x >>> 32)) % 2 ^ 16) ^^^ ((x >>> 48) % 2 ^ 8)
  let n := y % 400
  d ++ (BitVec.ofNat 5 (n % 20) ++ BitVec.ofNat 5 (n / 20))

/-- The tag of a flat entry, by its 57-bit address. -/
def flatTag (t : Tenant) (va : Nat) : BitVec 64 := t ++ (1 : BitVec 1) ++ BitVec.ofNat 56 (va / 512)

/-- The tag of a tensor entry. -/
def tensorTag (t : Tenant) (tid : Tid) (tile : Nat) : BitVec 64 := t ++ (0 : BitVec 1) ++ (tid ++ BitVec.ofNat 40 tile)

/-- The home cluster of a flat address that stands at a physical address. -/
def flatHome (va p : Nat) : ClusterId := homeSlice (homeDie p) 0 (va / 512)

/-! ## Descriptor records (R286 to R289) -/

/-- The installed record of a TID from 1 to 1,023. -/
def State.desc (s : State) (t : Tenant) (tid : Tid) : Option Desc :=
  if tid = 0 ∨ 1024 ≤ tid.toNat then none else sparseFind (s.tenantSt t).descs tid.toNat

/-- The record that a TID names for the issuing context, from its cluster's copy or from the tenant's table; the cluster
keeps a copy of it (R286). -/
def lookDesc (s : State) (tid : Tid) : Option (Desc × State) :=
  let cl := coreCluster s.curCore
  let c := s.cluster cl
  if tid = 0 ∨ 1024 ≤ tid.toNat then none
  else match sparseFind c.descs tid.toNat with
    | some d => some (d, s)
    | none => (s.desc s.myTenant tid).map (fun d => (d, s.setCluster cl { c with descs := sparsePut c.descs tid.toNat d }))

/-- The number of tiles along each dimension. -/
def Desc.tiles (d : Desc) : List Nat := (d.ext.zip d.tile).map (fun e => (e.1 + e.2 - 1) / e.2)

def Desc.tileCount (d : Desc) : Nat := d.tiles.foldl (· * ·) 1

/-- The digits of a number in a mixed radix, innermost first. -/
def digits : List Nat → Nat → List Nat
  | [], _ => []
  | b :: bs, n => n % b :: digits bs (n / b)

/-- The element bits of a record's format. -/
def Desc.bits (d : Desc) : Nat := d.tag.width

/-- The runs of a tile: image offset, address and length in bytes of each row of dimension 0, the valid part only
(R289). -/
def Desc.runs (d : Desc) (q : Nat) : List (Nat × Nat × Nat) :=
  let td := digits d.tiles q
  let rowBytes := d.tile.headD 0 * d.bits / 8
  let rows := (d.tile.drop 1).foldl (· * ·) 1
  let start0 := td.headD 0 * d.tile.headD 0
  let valid0 := min (d.tile.headD 0) (d.ext.headD 0 - start0) * d.bits / 8
  (List.range rows).filterMap (fun r =>
    let jd := digits (d.tile.drop 1) r
    let idx := ((td.drop 1).zip (d.tile.drop 1)).zip jd |>.map (fun e => e.1.1 * e.1.2 + e.2)
    if (idx.zip (d.ext.drop 1)).all (fun e => decide (e.1 < e.2)) then
      some (r * rowBytes,
            d.base.toNat + start0 * d.bits / 8 + ((idx.zip (d.stride.drop 1)).foldl (fun a e => a + e.1 * e.2) 0), valid0)
    else none)

/-- The address of the byte at an image offset, if some element holds it. -/
def Desc.byteAddr (d : Desc) (q off : Nat) : Option Nat :=
  match (d.runs q).find? (fun r => decide (r.1 ≤ off) && decide (off < r.1 + r.2.2)) with
  | some r => some (r.2.1 + (off - r.1))
  | none => none

/-- The address of a tile's first element, which places its home (R279). -/
def Desc.tileAddr (d : Desc) (q : Nat) : Nat :=
  let td := digits d.tiles q
  d.base.toNat + td.headD 0 * d.tile.headD 0 * d.bits / 8
    + (((td.drop 1).zip (d.tile.drop 1)).zip (d.stride.drop 1)).foldl (fun a e => a + e.1.1 * e.1.2 * e.2) 0

/-- Where the bytes of an address stand, whatever the rights: none when the page is absent. -/
def physOf (s : State) (t : Tenant) (va : Nat) : Option Nat :=
  match leafOf (s.tenantSt t) (va % 2 ^ 57) with
  | some (_, l) =>
    if !l.p || decide (va % 2 ^ 57 < 131072) then none
    else if l.host then
      let u := l.untranslated (va % 2 ^ 57)
      (sparseFind (s.tenantSt t).hostPages (u / 4096)).map (fun f => hostBase + f + u % 4096)
    else
      let p := l.phys (va % 2 ^ 57)
      if stackExists p then some p else none
  | none => none

/-- The state in which the host frames that some work took at acceptance stand for their pages (R309, R430). -/
def State.lend (s : State) (t : Tenant) (frames : Sparse Nat) : State :=
  frames.foldl (fun s e => match leafOf (s.tenantSt t) (4096 * e.1) with
    | some (_, l) =>
      let ts := s.tenantSt t
      if l.host then
        s.setTenantSt t { ts with hostPages := sparsePut ts.hostPages (l.untranslated (4096 * e.1) / 4096) (e.2 - hostBase) }
      else s
    | none => s) s

/-- Accepted work goes through the translations it took at acceptance. -/
def lent (s : State) (t : Tenant) (frames : Sparse Nat) (work : State → State) : State :=
  if frames.isEmpty then work s
  else
    let u := work (s.lend t frames)
    u.setTenantSt t { u.tenantSt t with hostPages := (s.tenantSt t).hostPages }

/-- The die that homes an address: of its page's stack, or die.4 for a host page (R279). -/
def dieOf (s : State) (t : Tenant) (va : Nat) : Die :=
  match leafOf (s.tenantSt t) (va % 2 ^ 57) with
  | some (_, l) => if l.host then 4 else homeDie (l.phys (va % 2 ^ 57))
  | none => 0

/-- The home cluster of a tile of a record. -/
def tileHome (s : State) (t : Tenant) (tid : Tid) (d : Desc) (q : Nat) : ClusterId :=
  homeSlice (dieOf s t (d.tileAddr q)) tid.toNat q

end Sys2Proof.Machine
end

