-- ==== Sys2Proof/Machine/Home.lean ====
section
/-! DEFINITION. Accesses at home: the bytes of flat lines and of tensor entries with their poison, the entries of cache
slices, copies and page modes, write-backs, and what a performed write does (R272, R277 to R284, R416 to R419, R423). -/

namespace Sys2Proof.Machine

/-! ## The error log and poison (R416, R417, R423) -/

/-- Adds an entry to the log of 4,096 and sends MSI-X event 35; the oldest entry is overwritten when it is full. The index of the
next entry rises (R433). -/
def logError (s : State) (source : BitVec 16) (unit : BitVec 4) (cls : BitVec 8) (t : Tenant) (detail addr : Word)
    (time : Nat) : State :=
  let e : LogEntry := { source := source, unit := unit, cls := cls, tenant := t, detail := detail, addr := addr, time := time }
  let before (x : LogEntry) : Bool := decide (x.time < time) ||
    (x.time == time && (decide (x.source.toNat < source.toNat) || (x.source == source && decide (x.unit.toNat ≤ unit.toNat))))
  let l := s.log.takeWhile before ++ [e] ++ s.log.dropWhile before
  let s := { s with logHead := (s.logHead + 1) % 4096 }
  let s := if 4096 < l.length then { s with log := l.drop 1, logOvr := s.logOvr + 1 } else { s with log := l }
  sendMsix s 0 35

/-- Where the service kernel keeps what it has saved of a core of a tenant. -/
def savedKey (t : Tenant) (core : CoreId) : Nat := t.toNat * 65536 + core.toNat

/-- The service kernel keeps a context, since its cluster was taken from its tenant (R366). -/
def keptByKernel (s : State) (h : BitVec 28) : Bool := s.saves.any (fun e => e.2.ctxs.any (fun x => x.1 == h))

/-- Changes a context that the service kernel keeps. -/
def updateKept (s : State) (h : BitVec 28) (f : Ctx → Ctx) : State :=
  { s with saves := s.saves.map (fun e =>
      if e.2.ctxs.any (fun x => x.1 == h) then
        (e.1, { e.2 with ctxs := e.2.ctxs.map (fun x => if x.1 == h then (h, f x.2) else x) }) else e) }

/-- The context of an incarnation that still has its registers: one that is not idle, and the handler, which keeps them between
its handlings (R382). -/
def registersOf (s : State) (h : BitVec 28) : Bool :=
  s.handleLive h || (handleCtx h == 15 && (s.ctx (handleCore h) 15).inc == handleInc h)

/-- The context of an incarnation exists: on its core, or saved after its core was handed over. -/
def stillThere (s : State) (h : BitVec 28) : Bool :=
  registersOf s h || (sparseFind s.away h.toNat).isSome || keptByKernel s h

/-- A report owed to a context, if it is still the one addressed (R381); one whose core has been handed over keeps it. -/
def addReport (s : State) (h : BitVec 28) (r : Report) : State :=
  let owe (c : Ctx) : Ctx := { c with reports := c.reports ++ [r] }
  if s.handleLive h then s.setCtx (handleCore h) (handleCtx h) (owe (s.ctx (handleCore h) (handleCtx h)))
  else match sparseFind s.away h.toNat with
    | some a => { s with away := sparsePut s.away h.toNat { a with ctx := owe a.ctx } }
    | none => updateKept s h owe

/-- DETAIL of the classes that concern a tenant: its PASID (R423, DEDUCED, log 55). -/
def pasidDetail (s : State) (t : Tenant) : Word := (s.tenantSt t).pasid.setWidth 64

/-- Class 4 is logged when poison is created (R417). -/
def poisonCreated (s : State) (source : BitVec 16) (t : Tenant) (addr : Word) : State :=
  logError s source 0 4 t (pasidDetail s t) addr s.time

/-- The issuing context consumes poison at an address: the instruction retires with zero, and UNCORRECTABLE is owed
(R417). -/
def consumed (s : State) (addr : Word) : State :=
  addReport (logError s s.curCore 0 5 s.myTenant (pasidDetail s s.myTenant) addr s.time) s.myHandle
    { cause := .uncorrectable, epc := s.me.pc, einfo := addr }

/-- The bytes of a list with poison, or zeros with the index of the first poisoned byte. -/
def cleanBytes (bs : List PByte) : List Byte × Option Nat :=
  if bs.any (·.2) then (bs.map (fun _ => 0), some (bs.takeWhile (fun b => !b.2)).length) else (bs.map (·.1), none)

/-- Bytes without poison. -/
def good (bs : List Byte) : List PByte := bs.map (fun b => (b, false))

/-! ## Local memory with its poison (R21, R416) -/

def Core.readLocal (k : Core) (a n : Nat) : List PByte :=
  (List.range n).map (fun i => (memByte k.mem (a + i), k.poison.contains ((a + i) / 16)))

/-- The poison of units of u bytes after a write of n bytes at a: a whole unit takes the poison of the new bytes, a
part of a unit leaves it poisoned. -/
def poisonAfter (u : Nat) (isBad : Nat → Bool) (a : Nat) (bs : List PByte) (unit : Nat) : Bool :=
  let lo := max a (unit * u)
  let hi := min (a + bs.length) (unit * u + u)
  let newBad := ((bs.drop (lo - a)).take (hi - lo)).any (·.2)
  if lo = unit * u && hi = unit * u + u then newBad else isBad unit || newBad

/-- The units of u bytes that an access of n bytes touches. -/
def unitsOf (u a n : Nat) : List Nat := if n = 0 then [] else (List.range ((a + n - 1) / u + 1 - a / u)).map (· + a / u)

def Core.writeLocal (k : Core) (a : Nat) (bs : List PByte) : Core :=
  let us := unitsOf 16 a bs.length
  let bad := us.filter (poisonAfter 16 k.poison.contains a bs)
  { k.endLocal a bs.length with
    mem := memWrite k.mem a (bs.map (·.1))
    poison := if k.poison.isEmpty && bad.isEmpty then [] else k.poison.filter (fun u => !us.contains u) ++ bad }

/-- An atomic's write of local bytes keeps the releases they carry (R338). -/
def Core.updateLocal (k : Core) (a : Nat) (bs : List PByte) : Core := { k.writeLocal a bs with syncs := k.syncs }

/-! ## Encrypted storage (R373) -/

/-- The page of a device that stands at a physical address. -/
def leafAt (s : State) (p : Nat) : Option Leaf :=
  s.tenants.findSome? (fun t => (t.2.leaves.find? (fun e =>
    e.2.p && !e.2.host && decide (e.2.phys 0 ≤ p) && decide (p < e.2.phys 0 + pageBytes e.2.size))).map (·.2))

/-- The key pair under which a physical address is stored: that of its page's slot. -/
def keyAt (s : State) (p : Nat) : BitVec 512 :=
  match leafAt s p with
  | some l => sparseGet 0 s.keys l.key.toNat
  | none => 0

/-- The bytes of granules are written to a stack: each is encrypted with its address divided by 64 as the tweak. -/
def storeStack (s : State) (g : Nat) (bs : List Byte) : State :=
  { s with stack := memWrite s.stack (64 * g) bs
           cipher := sparsePut s.cipher g (Config.xts (keyAt s (64 * g)) g (BitVec.ofNat 512 (bytesNat bs))) }

/-- A byte read from a stack under the key of its page's entry. -/
def stackByte (s : State) (key : BitVec 12) (p : Nat) : Byte :=
  match sparseFind s.cipher (p / 64) with
  | some c => BitVec.ofNat 8 (((Config.xts (sparseGet 0 s.keys key.toNat) (p / 64)).symm c).toNat / 256 ^ (p % 64))
  | none => memByte s.stack p

/-! ## Slice entries (R25, R277, R278) -/

def ways : Nat := 12

/-- What stands behind the slices, a stack or the host's own memory, takes the poison of a granule with its bytes (R416). -/
def poisonDown (s : State) (g : Nat) : State :=
  { s with stackPoison := if s.poison.contains (.flat g) then s.stackPoison.filter (· != g) ++ [g] else s.stackPoison.filter (· != g) }

/-- A clean granule leaves the slices: it is as poisoned as what stands behind them (R416). -/
def poisonBack (s : State) (g : Nat) : State :=
  if s.poison.contains (.flat g) != s.stackPoison.contains g then
    { s with poison := if s.stackPoison.contains g then s.poison ++ [.flat g] else s.poison.filter (· != .flat g) }
  else s

/-- A dirty host granule goes home over CXL (R418). -/
def writeBackHost (s : State) (g : Nat) : State := poisonDown { s with hostDirty := s.hostDirty.filter (fun e => e.gran != g) } g

/-- A flat entry leaves or is written back: its dirty granules go to the stack, with their poison, and what stands at
home of its clean ones is what the stack holds; host granules go home over CXL. -/
def writeBackFlat (s : State) (base : Nat) : State :=
  (List.range 8).foldl (fun s i =>
    let g := base / 64 + i
    if isHost base then (if s.hostDirty.any (fun e => e.gran == g) then writeBackHost s g
      else if s.retention.any (fun r => r.gran.gran == g) then s else poisonBack s g)
    else if s.dirty.contains g then
      poisonDown { storeStack s g (memBytes s.mem (64 * g) 64) with dirty := s.dirty.filter (· != g) } g
    else poisonBack s g) s

/-- The tenant, TID and tile of a tensor tag. -/
def tagTenant (t : BitVec 64) : Tenant := t.extractLsb' 57 7
def tagFlat (t : BitVec 64) : Bool := t.getLsbD 56
def tagTid (t : BitVec 64) : Tid := t.extractLsb' 40 16
def tagTile (t : BitVec 64) : Nat := (t.extractLsb' 0 40).toNat

/-- Removes every copy of an entry: replicated or `thalo` (R284, R318). -/
def dropCopies (s : State) (tag : BitVec 64) : State :=
  { s with clusters := s.clusters.map (fun e =>
      if e.2.slice.any (fun x => x.copy && x.tag == tag) then
        (e.1, { e.2 with slice := e.2.slice.filter (fun x => !(x.copy && x.tag == tag)) }) else e) }

/-- Removes a line of a tenant from every L1 data cache (R272). -/
def dropL1 (t : Tenant) (s : State) (line : Nat) : State :=
  { s with cores := s.cores.map (fun e =>
      if e.2.l1.any (fun x => x.1 == line) && s.tenantOf (BitVec.ofNat 16 e.1) == t then
        (e.1, { e.2 with l1 := e.2.l1.filter (fun x => x.1 != line) }) else e) }

/-- One more writer of a dirty granule; a fifth sets OVER (R419). -/
def HostDirty.add (e : HostDirty) (by_ : Option (CoreId × BitVec 28)) : HostDirty :=
  match by_ with
  | some w => if e.writers.contains w then e else if e.writers.length < 4 then { e with writers := e.writers ++ [w] } else { e with more := true }
  | none => e

/-- A host line's granule becomes dirty, with its writer (R418). A write that nothing of the machine waits for, made while the link
is down, is kept with what the link owes the host: it reaches the host with it, or is lost with it (R419; DESIGN CHOICE, log 75). -/
def markHostDirty (s : State) (g : Nat) (t : Tenant) (by_ : Option (CoreId × BitVec 28)) : State :=
  let new : HostDirty := { gran := g, writers := by_.toList, more := false, tenant := t, old := memBytes s.hostMem (64 * g - hostBase) 64 }
  if s.linkUp then
    if s.hostDirty.any (fun e => e.gran == g) then { s with hostDirty := s.hostDirty.map (fun x => if x.gran == g then x.add by_ else x) }
    else { s with hostDirty := s.hostDirty ++ [new] }
  else if s.retention.any (fun r => r.gran.gran == g) then
    { s with retention := s.retention.map (fun r => if r.gran.gran == g then { r with gran := r.gran.add by_ } else r) }
  else { s with retention := s.retention ++ [{ gran := new, data := [] }] }

/-- Removes every copy of the lines of a 64 KiB page. -/
def dropPageCopies (s : State) (page : Nat) : State :=
  { s with clusters := s.clusters.map (fun e =>
      let hit (x : SliceEntry) : Bool := x.copy && tagFlat x.tag && x.base / 65536 == page
      if e.2.slice.any hit then (e.1, { e.2 with slice := e.2.slice.filter (fun x => !hit x) }) else e) }

/-! ### Probes (R280, R284, R355, R371) -/

/-- The dies of the L1 caches and of the copies of entries that hold bytes of a flat range, one for each. -/
def flatHolders (s : State) (t : Tenant) (va n : Nat) : List Die :=
  let lines := unitsOf 64 va n
  let tags := (unitsOf 512 va n).map (fun e => flatTag t (512 * e))
  (s.cores.filter (fun e => e.2.l1.any (fun x => lines.contains x.1) && s.tenantOf (BitVec.ofNat 16 e.1) == t)).map
      (fun e => coreDie (BitVec.ofNat 16 e.1))
    ++ (s.clusters.filter (fun e => e.2.slice.any (fun x => x.copy && tags.contains x.tag))).map (fun e => BitVec.ofNat 3 (e.1 / 1024))

/-- The dies of the copies of a tile. -/
def tagHolders (s : State) (tag : BitVec 64) : List Die :=
  (s.clusters.filter (fun e => e.2.slice.any (fun x => x.copy && x.tag == tag))).map (fun e => BitVec.ofNat 3 (e.1 / 1024))

/-- The probes from a home to some holders and their answers can be delivered now (R351). -/
def probesGo (s : State) (home : Die) (ds : List Die) : Bool := (exchangeAll s home ds).isSome

/-- A home probes each holder of what a write ends: the probes and their answers cross between dies, and are charged after the
fact to the purse of the write, whose request came from a die (R351, R371). -/
def probe (s : State) (t : Tenant) (home from_ : Die) (ds : List Die) : State :=
  ds.foldl (fun s d => chargeSent s t from_ (hops s home d) 0) (ds.dedup.foldl (fun s d => carry s t home d false) s)

/-- The page counters of a write of a tenant from another die, before it is performed; the eighth one of a replicated page first
ends every copy and the mode (R283, R284). -/
def countPageWrite (s : State) (t : Tenant) (p : Nat) (from_ : Die) : State :=
  if isHost p || from_ = homeDie p then s
  else
    let k := s.sector (homeDie p)
    let m := sparseGet ({} : PageMode) k.modes (p / 65536)
    let m := { m with wr := m.wr + 1, wsince := if m.replicated then m.wsince + 1 else 0 }
    if m.replicated && decide (8 ≤ m.wsince) then
      let held := (s.clusters.filter (fun e => e.2.slice.any (fun x => x.copy && tagFlat x.tag && x.base / 65536 == p / 65536))).map
        (fun e => BitVec.ofNat 3 (e.1 / 1024))
      let s := probe s t (homeDie p) from_ held
      let k := s.sector (homeDie p)
      dropPageCopies (s.setSector (homeDie p) { k with modes := sparsePut k.modes (p / 65536) { m with replicated := false, wsince := 0 } })
        (p / 65536)
    else s.setSector (homeDie p) { k with modes := sparsePut k.modes (p / 65536) m }

/-- The page counter of a read from another die. -/
def countPageRead (s : State) (p : Nat) (from_ : Die) : State :=
  if isHost p || from_ = homeDie p then s
  else
    let k := s.sector (homeDie p)
    let m := sparseGet ({} : PageMode) k.modes (p / 65536)
    s.setSector (homeDie p) { k with modes := sparsePut k.modes (p / 65536) { m with rd := m.rd + 1 } }

/-- Which write ends the releases it overwrites: an atomic keeps them (R346). -/
inductive WriteKind where
  | plain | atomic
  deriving DecidableEq, Repr

/-- A write that would make a 4,097th host granule dirty waits (R418). -/
def hostRoom (s : State) (p n : Nat) : Bool :=
  !isHost p || decide (s.hostDirty.length + (unitsOf 64 p n).length ≤ 4096)
    || (unitsOf 64 p n).all (fun g => s.hostDirty.any (fun e => e.gran == g))

/-- The bytes of a flat write stand at home (R280): values, poison, dirty granules, and the end of every copy. -/
def storeFlat (s : State) (t : Tenant) (va p : Nat) (bs : List PByte) (by_ : Option (CoreId × BitVec 28)) : State :=
  let gs := unitsOf 64 p bs.length
  let bad := gs.filter (poisonAfter 64 (fun g => s.poison.contains (.flat g)) p bs)
  let s := if isHost p then gs.foldl (fun s g => markHostDirty s g t by_) s
    else { s with dirty := gs.foldl (fun d g => if d.contains g then d else d ++ [g]) s.dirty }
  let s := if isHost p then { s with hostMem := memWrite s.hostMem (p - hostBase) (bs.map (·.1)) }
    else { s with mem := memWrite s.mem p (bs.map (·.1)) }
  let s := if s.poison.isEmpty && bad.isEmpty then s
    else { s with poison := s.poison.filter (fun x => !(gs.map Gran.flat).contains x) ++ bad.map Gran.flat }
  let s := (unitsOf 64 va bs.length).foldl (dropL1 t) s
  (unitsOf 512 va bs.length).foldl (fun s e => dropCopies s (flatTag t (512 * e))) s

/-- A write-back is charged to the MEM purse of its home die after the fact (R371). -/
def chargeBack (s : State) (t : Tenant) (d : Die) (b : Nat) : State :=
  if b = 0 then s else s.setPurse t false d (charge (s.purse t false d) (coins b))

/-- A dirty host granule is written back, at the cost of the tenant that wrote it. -/
def HostDirty.back (s : State) (e : HostDirty) : State := writeBackHost (chargeBack s e.tenant 4 64) e.gran

/-- Bytes at addresses as writes of consecutive bytes, none of which leaves its granule. -/
def pieces : List (Nat × PByte) → List (Nat × List PByte)
  | [] => []
  | (a, b) :: t => match pieces t with
    | (c, bs) :: r => if c = a + 1 ∧ c % 64 ≠ 0 then (a, b :: bs) :: r else (a, [b]) :: (c, bs) :: r
    | [] => [(a, [b])]

/-- Room for the write of n bytes at a physical address: a write that would make one host granule too many dirty comes after the
write-back of the oldest ones (R418). -/
def makeHostRoom (s : State) (p n : Nat) : State :=
  (unitsOf 64 p n).foldl (fun s _ => if hostRoom s p n then s
    else match s.hostDirty with
      | e :: _ => e.back s
      | [] => s) s

/-- A write that is no atomic ends the releases of the flat bytes it covers (R338). -/
def endFlatSync (s : State) (va p n : Nat) : State :=
  (unitsOf 64 p n).foldl (fun s g => endSync s (flatHome va p) (.flat g) (granMask g p n)) s

/-- Bytes of a tensor are written into the flat space from a die, for contexts that wrote them (R281): as any write there, but no
till counts them (R333). -/
def storePieces (s : State) (t : Tenant) (from_ : Die) (by_ : List (CoreId × BitVec 28)) (l : List (Nat × PByte)) : State :=
  (pieces l).foldl (fun s w =>
    match physOf s t w.1 with
    | some p =>
      let n := w.2.length
      let s := carry (makeHostRoom s p n) t from_ (homeDie p) false
      let s := probe (countPageWrite s t p from_) t (homeDie p) from_ (flatHolders s t w.1 n)
      let s := endFlatSync (storeFlat s t w.1 p w.2 by_.head?) w.1 p n
      if isHost p then by_.tail.foldl (fun s c => (unitsOf 64 p n).foldl (fun s g => markHostDirty s g t (some c)) s) s else s
    | none => s) s

/-- The dirty bytes of a granule of a tensor entry at their addresses. -/
def dirtyBytes (s : State) (d : Desc) (e : SliceEntry) (g : Nat) : List (Nat × PByte) :=
  (d.runs (tagTile e.tag)).flatMap (fun r => (List.range r.2.2).filterMap (fun i =>
    let off := r.1 + i
    if off / 64 = g && e.mask.getD off false then
      some (r.2.1 + i, (e.data.getD off 0, s.poison.contains (.tensor e.tag g)))
    else none))

/-- The contexts that wrote a granule of an entry since its last write-back. -/
def SliceEntry.writersOf (e : SliceEntry) (g : Nat) : List (CoreId × BitVec 28) := (e.writers.filter (fun w => w.1 == g)).map (·.2)

/-- Writes a tensor entry's dirty bytes into the flat space (R281), granule by granule. -/
def writeBackTensor (s : State) (e : SliceEntry) : State :=
  let t := tagTenant e.tag
  match s.desc t (tagTid e.tag) with
  | none => s
  | some d =>
    let home := dieOf s t (d.tileAddr (tagTile e.tag))
    let parts := (List.range 8).map (fun g => (g, dirtyBytes s d e g))
    parts.foldl (fun s x => storePieces s t home (e.writersOf x.1) x.2)
      (chargeBack s t home ((parts.map (fun x => x.2.length)).foldl (· + ·) 0))

/-- A flat entry's dirty granules are written back, charged to the purse of their home (R371). -/
def backFlat (s : State) (t : Tenant) (base : Nat) : State :=
  let gs := (List.range 8).map (base / 64 + ·)
  let n := if isHost base then (gs.filter (fun g => s.hostDirty.any (fun e => e.gran == g))).length else (gs.filter s.dirty.contains).length
  writeBackFlat (chargeBack s t (homeDie base) (64 * n)) base

/-- An entry leaves its slice: its dirty bytes are written back. -/
def evictEntry (s : State) (cl : ClusterId) (e : SliceEntry) : State :=
  let k := s.cluster cl
  let s := s.setCluster cl { k with slice := k.slice.filter (fun x => x.tag != e.tag || x.copy != e.copy) }
  if e.copy then s
  else if tagFlat e.tag then backFlat s (tagTenant e.tag) e.base
  else writeBackTensor s e

/-- Makes room for an entry in its set of 12 ways (R25, R278): the least recently used entry that is not kept goes,
or the least recently used when every way is kept. The set index is open (log 7). -/
def makeRoom (s : State) (cl : ClusterId) (tag : BitVec 64) : State :=
  let k := s.cluster cl
  if k.slice.length < ways then s
  else
    let set := k.slice.filter (fun e => Config.sliceSet e.tag == Config.sliceSet tag)
    if set.length < ways then s
    else match (set.find? (fun e => !e.kept)).or set.head? with
      | some v => evictEntry s cl v
      | none => s

/-- A ninth kept mark of a set removes the mark of its least recently used kept entry (R278). -/
def limitKept (l : List SliceEntry) (tag : BitVec 64) : List SliceEntry :=
  if (l.filter (·.kept)).length ≤ 8 then l
  else
    let set := l.filter (fun e => e.kept && Config.sliceSet e.tag == Config.sliceSet tag)
    if set.length ≤ 8 then l
    else match set.head? with
      | some v => l.map (fun e => if e.tag == v.tag && e.copy == v.copy then { e with kept := false } else e)
      | none => l

/-- The effect of a hint on an entry that is present, or on a fresh one (R278). -/
def touchEntry (s : State) (cl : ClusterId) (hint : BitVec 2) (fresh : SliceEntry) : State :=
  let k := s.cluster cl
  match k.slice.find? (fun e => e.tag == fresh.tag && e.copy == fresh.copy) with
  | some e =>
    if hint = 1 then s
    else
      let e := { e with kept := e.kept || hint == 2, valid := e.valid ||| fresh.valid }
      let l := k.slice.filter (fun x => x.tag != e.tag || x.copy != e.copy) ++ [e]
      s.setCluster cl { k with slice := if hint = 2 then limitKept l e.tag else l }
  | none =>
    if hint = 1 then s
    else
      let s := makeRoom s cl fresh.tag
      let k := s.cluster cl
      let l := k.slice ++ [{ fresh with kept := hint == 2 }]
      s.setCluster cl { k with slice := if hint = 2 then limitKept l fresh.tag else l }

/-- The entry of a flat line at its home. -/
def flatEntry (t : Tenant) (va p : Nat) : SliceEntry :=
  { tag := flatTag t va, valid := BitVec.allOnes 8, base := p / 512 * 512 }

/-- L1 takes a line with its bytes, as a load with `.l1` asks; the oldest line goes (R272). -/
def fillL1 (k : Core) (line : Nat) (bs : List PByte) : Core :=
  let cap := (8 - k.sp.toNat) * 256
  if cap == 0 || k.l1.any (fun x => x.1 == line) then k
  else { k with l1 := (k.l1 ++ [(line, bs)]).drop (k.l1.length + 1 - cap) }

/-- A store updates a line that L1 holds (R272). -/
def updateL1 (k : Core) (va : Nat) (bs : List PByte) : Core :=
  if k.l1.any (fun x => x.1 == va / 64) then
    { k with l1 := k.l1.map (fun x => if x.1 = va / 64 then
        (x.1, x.2.take (va % 64) ++ bs ++ x.2.drop (va % 64 + bs.length)) else x) }
  else k

/-- The fate of reads at a home that has been fenced is poison (R422). -/
def homeGone (s : State) (p : Nat) : Bool := (s.die (homeDie p)).fenced

def flatBytes (s : State) (p n : Nat) : List PByte :=
  (List.range n).map (fun i => (physByte s (p + i), homeGone s p || s.poison.contains (.flat ((p + i) / 64))))

/-- The bytes of a flat line as a cluster reads them: from its copy, with the copy's own poison, or at home (R283, R416). -/
def lineBytes (s : State) (core : CoreId) (va p n : Nat) : List PByte :=
  match (s.cluster (coreCluster core)).slice.find? (fun e => e.copy && e.tag == flatTag (s.tenantOf core) va) with
  | some e => (flatBytes s p n).zipIdx.map (fun b => (b.1.1, b.1.2 || e.bad.getLsbD ((va + b.2) / 64 % 8)))
  | none => flatBytes s p n

/-- A read of a flat line at its home by a core: the entry, the replicated copy of its cluster and the line of L1 that it leaves
(R272, R278, R283). -/
def homeRead (s : State) (core : CoreId) (va p n : Nat) (hint : BitVec 2) : State × List PByte :=
  let t := s.tenantOf core
  let bs := lineBytes s core va p n
  let lines := if hint = 3 then (unitsOf 64 va n).map (fun u => (u, lineBytes s core (64 * u) (p + 64 * u - va) 64)) else []
  let s := countPageRead s p (coreDie core)
  let s := touchEntry s (flatHome va p) hint (flatEntry t va p)
  let s := if !isHost p && homeDie p != coreDie core
      && (sparseGet ({} : PageMode) (s.sector (homeDie p)).modes (p / 65536)).replicated then
    touchEntry s (coreCluster core) hint { flatEntry t va p with copy := true } else s
  (s.setCore core (lines.foldl (fun k l => fillL1 k l.1 l.2) (s.core core)), bs)

/-- A read of a flat line by a core over a cached path, from its L1 if that holds the line. -/
def readFlat (s : State) (core : CoreId) (va p n : Nat) (hint : BitVec 2) : State × List PByte :=
  match (if va % 64 + n ≤ 64 then (s.core core).l1.find? (fun x => x.1 == va / 64) else none) with
  | some x => (s, (x.2.drop (va % 64)).take n)
  | none => homeRead s core va p n hint

/-- A write of a flat line is performed at home (R280, R284). -/
def performFlat (s : State) (t : Tenant) (va p : Nat) (bs : List PByte) (from_ : Die) (by_ : Option (CoreId × BitVec 28))
    (kind : WriteKind) (hint : BitVec 2) : State :=
  let s := touchEntry s (flatHome va p) hint (flatEntry t va p)
  let s := countPageWrite s t p from_
  let s := storeFlat (probe s t (homeDie p) from_ (flatHolders s t va bs.length)) t va p bs by_
  let s := if kind = .plain then endFlatSync s va p bs.length else s
  -- a `.stream` write leaves no entry behind: its bytes go on to the stack
  if hint = 1 && !((s.cluster (flatHome va p)).slice.any (fun e => e.tag == flatTag t va && !e.copy)) then
    backFlat s t (p / 512 * 512) else s

/-! ## Tensor entries (R281, R289, R299) -/

/-- The 512 bytes of a tile as the flat space supplies them, with the poison of each byte. -/
def fillTile (s : State) (t : Tenant) (d : Desc) (q : Nat) : List PByte :=
  let z : List PByte := List.replicate 512 (0, false)
  (d.runs q).foldl (fun l r => (List.range r.2.2).foldl (fun l i =>
    match physOf s t (r.2.1 + i) with
    | some p => l.set (r.1 + i) ((flatBytes s p 1).headD (0, true))
    | none => l.set (r.1 + i) (0, true)) l) z

/-- The flat lines that supply a tile cross to its home die and count as reads of it (R283, R351). -/
def countTileReads (s : State) (t : Tenant) (d : Desc) (q : Nat) (die : Die) : State :=
  (((d.runs q).flatMap (fun r => unitsOf 512 r.2.1 r.2.2)).dedup).foldl (fun s u =>
    match physOf s t (512 * u) with
    | some p => countPageRead (carry s t die (homeDie p) false) p die
    | none => s) s

/-- The poison of a tensor entry's granules. -/
def tilePoison (s : State) (tag : BitVec 64) (bs : List PByte) : State :=
  let bad := (List.range 8).filter (fun g => ((bs.drop (64 * g)).take 64).any (·.2))
  let rest := s.poison.filter (fun x => match x with
    | .tensor u _ => u != tag
    | _ => true)
  if s.poison.isEmpty && bad.isEmpty then s else { s with poison := rest ++ bad.map (Gran.tensor tag) }

/-- The die that homes a tile has been fenced: what is read of it is poison, and no write reaches it (R422). -/
def tileGone (s : State) (t : Tenant) (d : Desc) (q : Nat) : Bool := (s.die (dieOf s t (d.tileAddr q))).fenced

/-- The entry of a tile at its home, if it is present. -/
def tileEntry (s : State) (cl : ClusterId) (tag : BitVec 64) (copy : Bool) : Option SliceEntry :=
  (s.cluster cl).slice.find? (fun e => e.tag == tag && e.copy == copy)

/-- Brings a tile's entry into its home slice (R281); with `.stream` nothing is allocated. -/
def fillEntry (s : State) (t : Tenant) (tid : Tid) (d : Desc) (q : Nat) (hint : BitVec 2) : State :=
  let cl := tileHome s t tid d q
  let tag := tensorTag t tid q
  match tileEntry s cl tag false with
  | some e => touchEntry s cl hint e
  | none =>
    if hint = 1 || tileGone s t d q then s
    else
      let bs := fillTile s t d q
      let s := countTileReads s t d q (dieOf s t (d.tileAddr q))
      touchEntry (tilePoison s tag bs) cl hint
        { tag := tag, valid := BitVec.allOnes 8, data := bs.map (·.1), mask := List.replicate 512 false }

/-- The 512 bytes that a tile reads as through its TID, for a core of a die: its entry, a `thalo` copy on that die, or
the flat space (R299, R318); poison when its home has been fenced (R422). -/
def tileBytes (s : State) (t : Tenant) (tid : Tid) (d : Desc) (q : Nat) (die : Die) : List PByte :=
  let tag := tensorTag t tid q
  let withPoison (e : SliceEntry) : List PByte :=
    (List.range 512).map (fun i => (e.data.getD i 0, e.bad.getLsbD (i / 64) || s.poison.contains (.tensor tag (i / 64))))
  if tileGone s t d q then List.replicate 512 (0, true)
  else match tileEntry s (homeSlice die tid.toNat q) tag true with
  | some e => withPoison e
  | none => match tileEntry s (tileHome s t tid d q) tag false with
    | some e => withPoison e
    | none => fillTile s t d q

/-- A read of a tile by a core of a die: of a copy on the die, or of its entry, which it brings in; with `.stream` an absent tile
stays absent, and the flat lines are read (R278, R283, R318). -/
def readEntry (s : State) (t : Tenant) (tid : Tid) (d : Desc) (q : Nat) (die : Die) (hint : BitVec 2) : State :=
  match tileEntry s (homeSlice die tid.toNat q) (tensorTag t tid q) true with
  | some e => touchEntry s (homeSlice die tid.toNat q) hint e
  | none =>
    if hint = 1 && (tileEntry s (tileHome s t tid d q) (tensorTag t tid q) false).isNone then
      countTileReads s t d q (dieOf s t (d.tileAddr q))
    else fillEntry s t tid d q hint

/-- The image offsets below 512 that hold an element, with their addresses. -/
def tileAddrs (d : Desc) (q off n : Nat) : List (Nat × Nat) :=
  (d.runs q).flatMap (fun r =>
    ((List.range r.2.2).map (fun i => (r.1 + i, r.2.1 + i))).filter (fun e => decide (off ≤ e.1) && decide (e.1 < off + n)))

/-- The granules of a tile's image that are poisoned after a write: one that is written whole takes the poison of the new
bytes, another one keeps its own beside theirs (R416). Bytes that hold no element are not written. -/
def tileBad (old : Nat → Bool) (written : List (Nat × Bool)) (g : Nat) : Bool :=
  let mine := written.filter (fun w => w.1 / 64 == g)
  mine.any (·.2) || (old g && decide (mine.length < 64))

/-- A write of a context from a die to bytes of a tile's image is performed at its home slice (R281, R299): bytes that hold no
element are discarded, and every copy of the tile ends first. With `.stream` an absent tile stays absent: the bytes go on into
the flat space (R278). A home that has been fenced takes nothing (R422). -/
def performTile (s : State) (t : Tenant) (tid : Tid) (d : Desc) (q off : Nat) (bs : List PByte) (from_ : Die)
    (by_ : CoreId × BitVec 28) (hint : BitVec 2) : State :=
  let tag := tensorTag t tid q
  let home := dieOf s t (d.tileAddr q)
  let cl := tileHome s t tid d q
  let addrs := tileAddrs d q off bs.length
  let byteAt (a : Nat × Nat) : PByte := bs.getD (a.1 - off) (0, false)
  let gone := tileGone s t d q
  let s := fillEntry s t tid d q hint
  let s := dropCopies (probe s t home from_ (tagHolders s tag)) tag
  if gone then s
  else match tileEntry s cl tag false with
  | none => storePieces s t home [by_] (addrs.map (fun a => (a.2, byteAt a)))
  | some e =>
    let e' := addrs.foldl (fun (e : SliceEntry) a =>
      { e with data := e.data.set a.1 (byteAt a).1, mask := e.mask.set a.1 true
               dirty := e.dirty ||| (1#8 <<< (a.1 / 64))
               writers := if e.writers.contains (a.1 / 64, by_) then e.writers else e.writers ++ [(a.1 / 64, by_)] }) e
    let gs := unitsOf 64 off bs.length
    let bad := gs.filter (tileBad (fun g => s.poison.contains (.tensor tag g)) (addrs.map (fun a => (a.1, (byteAt a).2))))
    let s := if s.poison.isEmpty && bad.isEmpty then s
      else { s with poison := s.poison.filter (fun x => !(gs.map (Gran.tensor tag)).contains x) ++ bad.map (Gran.tensor tag) }
    let k := s.cluster cl
    s.setCluster cl { k with slice := k.slice.map (fun x => if x.tag == tag && !x.copy then e' else x) }

/-- Whether the link to host memory stops accesses to a physical address (R419). -/
def linkHolds (s : State) (p : Nat) : Bool := isHost p && !s.linkUp

end Sys2Proof.Machine
end

