-- ==== Sys2Proof/Machine/Access.lean ====
section
/-! DEFINITION. Accesses of contexts over LS: the checks of `check_access`, reads and writes with race checking, the
posted-store journal, and what is held for ordering (R276, R292 to R295, R326, R345 to R347, R381, R396). -/

namespace Sys2Proof.Machine

/-! ## The checks (R276, R293) -/

/-- Whether a context may access a slot of a state. -/
def slotAllows (h : BitVec 28) (write : Bool) : Slot → Bool
  | .free | .leaving _ => false
  | .reserved g => g == .ctx h
  | .taken g => g == .ctx h
  | .filled _ => !write

/-- The lowest ring that refuses an access to local bytes (R276). -/
def ringRefuses (k : Core) (h : BitVec 28) (a n : Nat) (write : Bool) : Option Nat :=
  match k.rings.find? (fun e => e.2.defined && (e.2.slots.zipIdx.any (fun x =>
      let b := e.2.slotBase x.2
      decide (a < b + 2 ^ e.2.lg) && decide (b < a + n) && !slotAllows h write x.1))) with
  | some e => some e.1
  | none => none

/-- Where a checked access goes. -/
inductive Place where
  | here (a : Nat)
  | mem (p : Nat) (l : Leaf)

/-- `check_access` (R293). -/
def withAccess (s : State) (a : Word) (n al : Nat) (k : AccKind) (go : State → Place → Eff) : Eff :=
  if a.toNat % al ≠ 0 then .trap .align a
  else if isLocal a then
    if s.myCore.scratch < a.toNat + n then .trap .xlatePerm a
    else match ringRefuses s.myCore s.myHandle a.toNat n (k == .write) with
      | some r => .trap .ring (BitVec.ofNat 64 r)
      | none => go s (.here a.toNat)
  else withPage s a k (fun s p l => go s (.mem p l))

/-! ## Holds of global accesses -/

/-- A host-homed line while the CXL link is down holds the context; once the limit has passed with no link, it takes
HOSTLINK_DOWN (R419). -/
def withLink (s : State) (a : Word) (p : Nat) (k : State → Eff) : Eff :=
  if linkHolds s p then
    let line := va57 a / 64 * 64
    let e := (s.curCore, s.curCtx, line)
    if s.linkDownAt.isNone then
      .hold (addReport s s.myHandle { cause := .hostlinkDown, epc := s.me.pc, einfo := (BitVec.ofNat 57 line).signExtend 64 })
    else .hold (if s.heldHost.contains e then s else { s with heldHost := s.heldHost ++ [e] })
  else k s

/-- Writes of one context on LS are performed in program order (R292, R295): an atomic waits for its posted writes, and for
the trap of a refused one (R347). -/
def withLsOrder (s : State) (k : State → Eff) : Eff :=
  if journalBusy s.myCore s.curCtx s.me.inc || !s.me.reports.isEmpty then .hold s else k s

/-- A read waits for the context's posted writes of the same bytes; it may pass the others (R359, DEDUCED, log 25). -/
def withOwnWrites (s : State) (hit : JEntry → Bool) (k : State → Eff) : Eff :=
  if s.myCore.journal.any (fun e => e.2.state == 1 && e.2.ctx == s.curCtx && e.2.inc == s.me.inc && hit e.2) then .hold s else k s

/-- A posted write to flat bytes that overlap a range. -/
def hitsFlat (p n : Nat) (j : JEntry) : Bool :=
  (j.kind != 2 || j.tid == 0) && decide (j.phys < p + n) && decide (p < j.phys + j.size.toNat + 1)

/-- A posted write to a tile. -/
def hitsTile (tid : Tid) (q : Nat) (j : JEntry) : Bool := j.kind == 2 && j.tid == tid && j.tile == q

/-- An acquire, a fence or a release waits until every owed report has arrived and been taken (R381). -/
def withReports (s : State) (k : State → Eff) : Eff := if reportsSettled s then k s else .hold s

/-- A release waits, in addition, until the journal entries of its context are freed, refused ones included (R326). -/
def withRelease (s : State) (k : State → Eff) : Eff :=
  if journalHolds s.myCore s.curCtx s.me.inc then .hold s else withReports s k

/-- The granules of a flat access; none on a page with checking off (R348). -/
def flatGrans (l : Leaf) (p n : Nat) : List Gran := if l.norc then [] else (unitsOf 64 p n).map .flat

/-- The check of an access of the issuing context (R345, R347): a failure is a precise trap with the address. -/
def withRace (s : State) (a : Word) (gs : List Gran) (write sync : Bool) (h : TillHits) (k : State → Eff) : Eff :=
  match checkGrans s (partyOf s s.curCore s.curCtx) gs write sync h with
  | .error c => .trap c a
  | .ok t => k t

/-! ## Reads -/

/-- A posted write of the core to flat bytes has not been performed: until then the line of L1 that it updated serves them to
nobody, or a later write of another core could be read before it (R272, R340). -/
def postedOver (k : Core) (p n : Nat) : Bool := k.journal.any (fun e => e.2.state == 1 && hitsFlat p n e.2)

/-- The core's L1 holds the line of n bytes, and serves it (R272). -/
def inL1 (s : State) (va p n : Nat) : Bool :=
  decide (va % 64 + n ≤ 64) && s.myCore.l1.any (fun x => x.1 == va / 64) && !postedOver s.myCore p n

/-- The die that serves a read of a flat line to the issuing core: its own where its cluster holds a copy (R283), else the
home. -/
def servingDie (s : State) (va p : Nat) : Die :=
  if (s.cluster (coreCluster s.curCore)).slice.any (fun e => e.copy && e.tag == flatTag s.myTenant va) then coreDie s.curCore
  else homeDie p

/-- A checked global read of n bytes by the issuing context. A line that L1 holds is read without a request, except by an
acquire, which reads at home. -/
def globalRead (a : Word) (p : Nat) (l : Leaf) (n : Nat) (hint : BitVec 2) (sync : Bool) (s : State)
    (k : State → List PByte → Eff) : Eff :=
  withLink s a p (fun s => withOwnWrites s (hitsFlat p n) (fun s =>
    let go (s : State) : Eff := withRace s a (flatGrans l p n) false sync [] (fun s =>
      let r := if sync || !inL1 s (va57 a) p n then homeRead s s.curCore (va57 a) p n hint else readFlat s s.curCore (va57 a) p n hint
      k r.1 r.2)
    if !sync && inL1 s (va57 a) p n then go s
    else withRequest [n] (servingDie s (va57 a) p) false n go s))

/-- Delivers bytes to a continuation; poisoned bytes are consumed and read as zero (R417). -/
def deliver (s : State) (a : Word) (bs : List PByte) (k : State → List Byte → Eff) : Eff :=
  match cleanBytes bs with
  | (x, none) => k s x
  | (x, some i) => k (consumed s (a + BitVec.ofNat 64 i)) x

/-- A load of n bytes over LS, with their poison. -/
def readPoisoned (a : Word) (n al : Nat) (hint : BitVec 2) (sync : Bool) (s : State) (k : State → List PByte → Eff) : Eff :=
  withAccess s a n al .read (fun s pl => match pl with
    | .here b => k s (s.myCore.readLocal b n)
    | .mem p l => globalRead a p l n hint sync s k)

/-- A load of n bytes over LS. -/
def readBytes (a : Word) (n al : Nat) (hint : BitVec 2) (sync : Bool) (s : State) (k : State → List Byte → Eff) : Eff :=
  readPoisoned a n al hint sync s (fun s bs => deliver s a bs k)

/-! ## The posted-store journal (R295, R396) -/

/-- The n lowest free entries of the journal. -/
def freeEntries (k : Core) (n : Nat) : Option (List Nat) :=
  let f := ((List.range 32).filter (fun e => (k.jentry e).state == 0)).take n
  if f.length = n then some f else none

/-- An entry that is a release once it is performed (R326). -/
def JEntry.releases (j : JEntry) : Bool := j.kind == 3 || (j.kind == 4 && j.ord == 2)

/-- Puts a posted write into an entry, with what its context is as a party then. One to another die travels as a packet
(R351); RC will have risen by the releases that are still on their way. One to a die that is not in service is dropped (R438). -/
def post (s : State) (e : Nat) (dst : Die) (j : JEntry) : State :=
  if unserved s (coreDie s.curCore) dst then orphanAtIssuer s s.curCore else
  let c := s.me
  let p := partyOf s s.curCore s.curCtx
  let ahead := (s.myCore.journal.filter (fun x => x.2.state == 1 && x.2.ctx == s.curCtx && x.2.inc == c.inc && x.2.releases)).length
  let away := dst != coreDie s.curCore && reachable s (coreDie s.curCore) dst
  let j := { j with
    state := 1, inc := c.inc, ctx := s.curCtx, epc := c.pc, seq := s.nextId
    rc := p.rc + BitVec.ofNat 24 ahead, bar := p.bar, ep := p.ep, acq := p.table, ovf := p.ovf, unchecked := p.off
    pkt := if away then some (s.nextId + 1) else none }
  let s := { (s.setMyCore (s.myCore.setJentry e j)) with nextId := s.nextId + 1 }
  if away then sendFrom s s.curCore s.myHandle dst (.write s.curCore e) [] (j.kind == 3 || j.kind == 4) else s

/-- The data words of up to 16 bytes. -/
def dataWords (bs : List Byte) : Word × Word := (BitVec.ofNat 64 (bytesNat (bs.take 8)), BitVec.ofNat 64 (bytesNat ((bs.drop 8).take 8)))

/-- Posts one write of at most 16 bytes, or holds the context while the journal is full. -/
def postWrite (a : Word) (p : Nat) (bs : List Byte) (kind : BitVec 3) (j : JEntry) (hint : BitVec 2) (s : State) : Eff :=
  match freeEntries s.myCore 1 with
  | some (e :: _) =>
    withAdmission [bs.length] (homeDie p) (fun s =>
      let w := dataWords bs
      let s := if kind = 4 || j.tid != 0 || unserved s (coreDie s.curCore) (homeDie p) then s
        else s.setMyCore (updateL1 s.myCore (if kind = 2 then 512 * j.tile + j.off else va57 a) (good bs))
      .done (post s e (homeDie p) { j with size := BitVec.ofNat 5 (bs.length - 1), kind := kind, addr := a, d0 := w.1, d1 := w.2
                                           phys := p, hint := hint })) s
  | _ => .hold s

/-- A store over LS: local at once, global posted (R297). -/
def storeBytes (a : Word) (al : Nat) (bs : List Byte) (kind : BitVec 3) (j : JEntry) (hint : BitVec 2) (s : State) : Eff :=
  withAccess s a bs.length al .write (fun s pl => match pl with
    | .here b => .done (s.setMyCore (s.myCore.writeLocal b (good bs)))
    | .mem p _ => postWrite a p bs kind j hint s)

/-- The context that posted an entry as a party: as it is, or as it was when its incarnation has ended since (R343, R384). -/
def JEntry.party (j : JEntry) (s : State) (core : CoreId) : Party :=
  let h := mkHandle core j.ctx j.inc
  if s.handleLive h then partyOf s core j.ctx
  else { who := h, rc := j.rc, bar := j.bar, ep := j.ep, table := j.acq, ovf := j.ovf, off := j.unchecked }

/-! ## Atomic operations (R323) -/

/-- Bits 8n−1:0 of a word as a number. -/
def lowBits (n : Nat) (x : Word) : Nat := x.toNat % 2 ^ (8 * n)

/-- The new value of an atomic over n bytes. -/
def aopResult (op : AOp) (n : Nat) (old x : Nat) : Nat :=
  let w := 8 * n
  let pick (f : Num → Num → Num × BitVec 7) : Nat := (putIeee fmtFP32 (f (decodeIeee fmtFP32 old) (decodeIeee fmtFP32 x)).1).1
  match op with
  | .add => (old + x) % 2 ^ w
  | .and => old &&& x
  | .or => old ||| x
  | .xor => old ^^^ x
  | .min => if signedOf w x < signedOf w old then x else old
  | .max => if signedOf w old < signedOf w x then x else old
  | .minu => min old x
  | .maxu => max old x
  | .swap => x
  | .fadd => pick numAdd
  | .fmax => pick (numMinMax true)
  | .fmin => pick (numMinMax false)

def aopOfCode (c : BitVec 4) : AOp :=
  match c.toNat with
  | 0 => .add | 1 => .and | 2 => .or | 3 => .xor | 4 => .min | 5 => .max | 6 => .minu | 7 => .maxu | 8 => .swap
  | 9 => .fadd | 10 => .fmax | _ => .fmin

def scopeOfCode (c : BitVec 3) : Scope :=
  match c.toNat with
  | 0 => .core | 1 => .clu | 2 => .die | 3 => .mod | _ => .sys

/-! ## Writes at home with checks, tills and releases (R280, R333, R345, R346) -/

/-- The virtual addresses of n bytes. -/
def addrRange (va n : Nat) : List Nat := (List.range n).map (va + ·)

/-- A write of a party at a flat home: the race check, the bytes, and the tills that count it. -/
def flatHomeWrite (s : State) (core : CoreId) (c : Party) (a : Word) (p : Nat) (l : Leaf) (bs : List PByte) (sync : Bool)
    (kind : WriteKind) (hint : BitVec 2) : Except Cause State :=
  let t := s.tenantOf core
  let addrs := addrRange (va57 a) bs.length
  let hits := tillsCounting s t addrs
  match checkGrans s c (flatGrans l p bs.length) true sync hits with
  | .error c => .error c
  | .ok s =>
    let s := performFlat s t (va57 a) p bs (coreDie core) (some (core, c.who)) kind hint
    .ok (countTills (some (coreDie core)) s addrs hits)

/-- A release of a party that wrote flat bytes: its sync records, and RC raised while its incarnation lasts (R344, R346). -/
def releaseFlat (s : State) (core : CoreId) (c : Party) (va p len : Nat) (sc : Scope) : State :=
  let tbl := acqAdd c.table { till := false, who := c.who, count := c.rc + 1 }
  let s := (unitsOf 64 p len).foldl (fun s g => keepSync s (flatHome va p)
    { gran := .flat g, table := tbl, scope := sc, src := core, who := c.who, mask := granMask g p len }) s
  if s.handleLive c.who then bumpRc s core (handleCtx c.who) else s

/-- An acquire that read flat bytes. -/
def acquireFlat (s : State) (core : CoreId) (n : CtxNum) (va p len : Nat) (sc : Scope) : State :=
  (unitsOf 64 p len).foldl (fun s g => acquireSync s core n sc (flatHome va p) (.flat g) (granMask g p len)) s

end Sys2Proof.Machine
end

