-- ==== Sys2Proof/Machine/Lanes.lean ====
section
/-! DEFINITION. Reading v sources with the checks of their modifiers, TAG traps, and the common end of a lane-wise
instruction (R145, R146, R150). -/

namespace Sys2Proof.Machine

/-- `ctl.einfo` of a TAG trap (R145). -/
def tagInfo (reason : Nat) (t1 t2 t3 : Tag) : Word :=
  BitVec.ofNat 64 (reason * 4096 + t3.bits.toNat * 256 + t2.bits.toNat * 16 + t1.bits.toNat)

def tagTrap (reason : Nat) (t1 t2 t3 : Tag) : Eff := .trap .tag (tagInfo reason t1 t2 t3)

/-- A modifier of class 1 to 3 whose segment holds less than one element of the register's tag (R146). -/
def modBad (x : VVal) (m : BitVec 12) : Bool :=
  m.extractLsb' 10 2 != 0 && decide (x.tag.lanes * 2 ^ (m.extractLsb' 7 3).toNat < 16)

/-- Reads one v source; a failing modifier is TAG, REASON 1. -/
def withV1 (a : VSrc) (k : State → VVal → Eff) (s : State) : Eff :=
  let x := s.me.getV a.r
  if modBad x a.mod then tagTrap 1 x.tag .b128 .b128 else k s (readVM s.me a)

/-- Reads the v sources S1 and S2, with the tag of a v source S3 for the report. -/
def withV2 (a b : VSrc) (k : State → VVal → VVal → Eff) (s : State) (c : Option VReg := none) : Eff :=
  let x := s.me.getV a.r
  let y := s.me.getV b.r
  if modBad x a.mod || modBad y b.mod then
    tagTrap 1 x.tag y.tag (match c with
      | some r => (s.me.getV r.r).tag
      | none => .b128)
  else k s (readVM s.me a) (readVM s.me b)

/-- Bits 127:96 of a T6 result are zero (R90, R147). -/
def trimT6 (x : VVal) : VVal := if x.tag = .t6 then { x with bits := x.bits &&& (BitVec.allOnes 96).setWidth 128 } else x

/-- `finish` (R150): packs the lanes, writes the destination and merges the flags. -/
def finishV (s : State) (d : VReg) (t : Tag) (ls : List (Nat × BitVec 7)) : Eff :=
  .done (wrVF s d (packLanes t (ls.map (·.1))) (orFlags (ls.map (·.2))))

end Sys2Proof.Machine
end

