-- ==== Sys2Proof/Machine/Memory.lean ====
section
/-! DEFINITION. Loads, stores, tile reads and writes, prefetches, atomics, fences and the till instructions
(R296 to R300, R323 to R336). -/

namespace Sys2Proof.Machine

/-- A local access has latency 2; a global one is held until its value returns (R294). -/
def memLat (ea : Addr) (t : State) : Nat := if isLocal (mAddress t.me ea) then 2 else 1

/-! ## Loads and stores (R296 to R298) -/

/-- Zero or sign extension of n bytes. -/
def extendBytes (sx : Bool) (n : Nat) (bs : List Byte) : Word :=
  let x := bytesNat bs
  if sx then BitVec.ofInt 64 (signedOf (8 * n) x) else BitVec.ofNat 64 x

def loadEff (sx : Bool) (h : Header) (d : SReg) (ea : Addr) (sz : Size) (s : State) : Eff :=
  let n := sizeBytes sz
  readBytes (mAddress s.me ea) n n h.hint false s (fun s bs => .done (wrS s d (extendBytes sx n bs)))

/-- A read of a frozen page through the constant path leaves a copy of its line in the cluster (R285). -/
def noteConst (s : State) (a : Word) : State :=
  match leafOf (s.tenantSt s.myTenant) (va57 a) with
  | some (_, l) =>
    if l.p && l.frz then
      let k := s.cluster (coreCluster s.curCore)
      if k.constCopies.contains (va57 a / 64) then s
      else s.setCluster (coreCluster s.curCore) { k with constCopies := k.constCopies ++ [va57 a / 64] }
    else s
  | none => s

def loadConstEff (sx : Bool) (h : Header) (d : SReg) (ea : Addr) (sz : Size) (s : State) : Eff :=
  let n := sizeBytes sz
  let a := mAddress s.me ea
  readBytes a n n h.hint false s (fun s bs => .done (wrS (if isLocal a then s else noteConst s a) d (extendBytes sx n bs)))

def storeEff (h : Header) (x : SReg) (ea : Addr) (sz : Size) (s : State) : Eff :=
  let n := sizeBytes sz
  storeBytes (mAddress s.me ea) n (natBytes n (readS s.me x).toNat) 0 {} h.hint s

/-- The bytes of a register access of a tag: 12 for T6 (R298). -/
def vecBytes (t : Tag) : Nat := if t = .t6 then 12 else 16

def loadVecEff (h : Header) (d : VReg) (ea : Addr) (t : Tag) (s : State) : Eff :=
  readBytes (mAddress s.me ea) (vecBytes t) 16 h.hint false s (fun s bs =>
    .done (wrV s d { bits := BitVec.ofNat 128 (bytesNat bs), tag := t }))

def storeVecEff (h : Header) (x : VReg) (ea : Addr) (t : Tag) (s : State) : Eff :=
  let v := readV s.me x
  if t != .b128 && v.tag != t then tagTrap 0 v.tag t .b128
  else storeBytes (mAddress s.me ea) 16 (natBytes (vecBytes t) v.bits.toNat) 1 {} h.hint s

/-- `ld` (R296). -/
def execLd (h : Header) (d : SReg) (ea : Addr) (sz : Size) (s : State) : Host.Outcome State Fault Refusal :=
  issueLat (.ld h d ea sz) (memLat ea) (loadEff false h d ea sz) s

/-- `ld.sx` (R296). -/
def execLdSx (h : Header) (d : SReg) (ea : Addr) (sz : Size) (s : State) : Host.Outcome State Fault Refusal :=
  issueLat (.ldSx h d ea sz) (memLat ea) (loadEff true h d ea sz) s

/-- `st` (R297). -/
def execSt (h : Header) (x : SReg) (ea : Addr) (sz : Size) (s : State) : Host.Outcome State Fault Refusal :=
  issueLat (.st h x ea sz) (memLat ea) (storeEff h x ea sz) s

/-- `ldv` (R298). -/
def execLdv (h : Header) (d : VReg) (ea : Addr) (sz : Tag) (s : State) : Host.Outcome State Fault Refusal :=
  issueLat (.ldv h d ea sz) (memLat ea) (loadVecEff h d ea sz) s

/-- `stv` (R298). -/
def execStv (h : Header) (x : VReg) (ea : Addr) (sz : Tag) (s : State) : Host.Outcome State Fault Refusal :=
  issueLat (.stv h x ea sz) (memLat ea) (storeVecEff h x ea sz) s

/-- `ldc` (R296). -/
def execLdc (h : Header) (d : SReg) (ea : Addr) (sz : Size) (s : State) : Host.Outcome State Fault Refusal :=
  issueLat (.ldc h d ea sz) (memLat ea) (loadConstEff false h d ea sz) s

/-- `ldc.sx` (R296). -/
def execLdcSx (h : Header) (d : SReg) (ea : Addr) (sz : Size) (s : State) : Host.Outcome State Fault Refusal :=
  issueLat (.ldcSx h d ea sz) (memLat ea) (loadConstEff true h d ea sz) s

/-! ## Tile reads and writes (R299) -/

/-- What `ldt` and `stt` name after their checks: the record, or the flat space for TID 0. -/
def withTile (n o : SCon) (tid : Tid) (s : State) (k : State → Option Desc → Nat → Nat → Eff) : Eff :=
  let q := (readSC s.me n).toNat
  let off := (readSC s.me o).toNat
  let go (s : State) (d : Option Desc) (count : Nat) : Eff :=
    if count ≤ q then .trap .illegal 41
    else if off % 16 ≠ 0 then .trap .align (readSC s.me o)
    else if 512 ≤ off then .trap .illegal 50
    else k s d q off
  if tid = 0 then go s none (2 ^ 48)
  else match lookDesc s tid with
    | none => .trap .tidInvalid (tid.setWidth 64)
    | some (d, s) => go s (some d) d.tileCount

/-- The canonical form of a 57-bit address. -/
def canon (va : Nat) : Word := (BitVec.ofNat 57 va).signExtend 64

/-- Translates every page of a list of addresses, the first failing one first. -/
def withPages (k : AccKind) : List Nat → State → (State → Eff) → Eff
  | [], s, go => go s
  | a :: as, s, go => withPage s (canon a) k (fun s _ _ => withPages k as s go)

/-- What is translated at once: 64 KiB, or 4 KiB of a host-backed page (R428); an address that no page can cover is a thing of
its own. -/
def pageKey (s : State) (a : Word) : Nat × Nat :=
  if isLocal a || !canonical a then (2, a.toNat)
  else match leafOf (s.tenantSt s.myTenant) (va57 a) with
    | some (_, l) => if l.host then (1, va57 a / 4096) else (0, va57 a / 65536)
    | none => (0, va57 a / 65536)

/-- The first address of each page that a list of addresses touches. -/
def pageHeads (s : State) (l : List Word) : List Word :=
  (l.foldl (fun (acc : List ((Nat × Nat) × Word)) a =>
    if acc.any (fun b => b.1 == pageKey s a) then acc else acc ++ [(pageKey s a, a)]) []).map (·.2)

/-- Translates pages in order, the first that fails raising its cause under a map; the host frames are kept (R309). -/
def takePages (m : Cause → Cause) (k : AccKind) : List Word → Sparse Nat → State → (State → Sparse Nat → Eff) → Eff
  | [], f, s, go => go s f
  | a :: as, f, s, go => withPageAs m s a k (fun s p _ =>
      takePages m k as (if isHost p then sparsePut f (va57 a / 4096) (p / 4096 * 4096) else f) s go)

/-- The granules of an access through a TID: checked when a byte it touches lies on a page with checking on (R348). -/
def tileGrans (s : State) (t : Tenant) (tid : Tid) (q off : Nat) (addrs : List (Nat × Nat)) (n : Nat) : List Gran :=
  (unitsOf 64 off n).filterMap (fun g =>
    if addrs.any (fun e => e.1 / 64 == g && (match leafOf (s.tenantSt t) (e.2 % 2 ^ 57) with
        | some (_, l) => !l.norc
        | none => true)) then some (.tensor (tensorTag t tid q) g) else none)

/-- A host-homed line of what an access through a TID reads or brings in, while the link is down, holds it (R419): of each
tile, the bytes read, or all of it when its entry is absent. -/
def withTileLinks (t : Tenant) (tid : Tid) (d : Desc) (ts : List (Nat × List Nat)) (s : State) (k : State → Eff) : Eff :=
  let bytes (x : Nat × List Nat) : List Nat :=
    if (tileEntry s (tileHome s t tid d x.1) (tensorTag t tid x.1) false).isSome then x.2 else (tileAddrs d x.1 0 512).map (·.2)
  let down (a : Nat) : Bool := match physOf s t a with
    | some p => linkHolds s p
    | none => false
  match ts.findSome? (fun x => (bytes x).find? down) with
  | some a => withLink s (canon a) hostBase k
  | none => k s

/-- `ldt` of the flat space is a load of the flat line. The header's hint goes with the access (R46, R293, DEDUCED, log 61). -/
def ldtEff (h : Header) (d : VReg) (n o : SCon) (tid : Tid) (t : Tag) (s : State) : Eff :=
  withTile n o tid s (fun s dsc q off =>
    let fin (s : State) (a : Word) (bs : List PByte) : Eff :=
      deliver s a bs (fun s x => .done (wrV s d (trimT6 { bits := BitVec.ofNat 128 (bytesNat x), tag := t })))
    match dsc with
    | none =>
      let a := canon (512 * q + off)
      withPage s a .read (fun s p l => globalRead a p l 16 h.hint false s (fun s bs => fin s a bs))
    | some r =>
      let tn := s.myTenant
      let addrs := tileAddrs r q off 16
      let a := canon ((addrs.headD (0, r.tileAddr q)).2)
      withPages .read ((pageHeads s (addrs.map (fun x => canon x.2))).map va57) s (fun s =>
        withTileLinks tn tid r [(q, addrs.map (·.2))] s (fun s => withOwnWrites s (hitsTile tid q) (fun s =>
          withRequest [16] (dieOf s tn (r.tileAddr q)) false 16 (fun s =>
            withRace s a (tileGrans s tn tid q off addrs 16) false false [] (fun s =>
              let s := readEntry s tn tid r q (coreDie s.curCore) h.hint
              fin s a (((tileBytes s tn tid r q (coreDie s.curCore)).drop off).take 16))) s))))

/-- `stt` writes a flat line or a tile, with the header's hint (R46, R293, DEDUCED, log 61). -/
def sttEff (h : Header) (n o : SCon) (x : VReg) (tid : Tid) (s : State) : Eff :=
  let bs := natBytes 16 (readV s.me x).bits.toNat
  withTile n o tid s (fun s dsc q off =>
    let w : Word := tid ++ (BitVec.ofNat 40 q ++ BitVec.ofNat 8 (off / 16))
    match dsc with
    | none =>
      withPage s (canon (512 * q + off)) .write (fun s p _ =>
        postWrite w p bs 2 { tid := 0, tile := q, off := off } h.hint s)
    | some r =>
      let addrs := tileAddrs r q off 16
      takePages id .write (pageHeads s (addrs.map (fun x => canon x.2))) [] s (fun s fr =>
        postWrite w ((physOf s s.myTenant (r.tileAddr q)).getD 0) bs 2 { tid := tid, tile := q, off := off, frames := fr } h.hint s))

/-- `ldt` (R299). -/
def execLdt (h : Header) (d : VReg) (n o : SCon) (tid : Tid) (t : Tag) (s : State) : Host.Outcome State Fault Refusal :=
  issue (.ldt h d n o tid t) (ldtEff h d n o tid t) s

/-- `stt` (R299). -/
def execStt (h : Header) (n o : SCon) (x : VReg) (tid : Tid) (s : State) : Host.Outcome State Fault Refusal :=
  issue (.stt h n o x tid) (sttEff h n o x tid) s

/-! ## Prefetches (R300) -/

/-- The cluster holds a line, or has requested it. -/
def Cluster.hasLine (k : Cluster) (line : Word) : Bool := k.icache.contains line || k.inflight.any (fun e => e.1 == line)

/-- Where an address of the issuing tenant stands for a prefetch; none when it is dropped. -/
def prefetchAt (s : State) (a : Word) (k : AccKind) : Option Nat :=
  match translate s s.curCore s.myTenant a k with
  | .ok p _ _ =>
    -- a line of code that the cluster holds or has asked for needs no link (R425)
    if linkHolds s p && !(k == .fetch && (s.cluster (coreCluster s.curCore)).hasLine a) then none else some p
  | _ => none

/-- `pref` brings the entry in as a read at home does; with `.stream` it does nothing. -/
def prefEff (h : Header) (ea : Addr) (s : State) : Eff :=
  let a := mAddress s.me ea
  if h.hint = 1 then .done s
  else match prefetchAt s a .read with
    | none => .done s
    | some p =>
      if unserved s (coreDie s.curCore) (homeDie p) then .done (orphanAtIssuer s s.curCore)
      else withRequest [64] (homeDie p) false 64 (fun s => .done (homeRead s s.curCore (va57 a) p 1 h.hint).1) s

/-- A line enters a cluster's instruction cache of 32 sets of 8 ways, in the place of the least recently used (R24,
R424). -/
def fillIcache (s : State) (cl : ClusterId) (line : Word) : State :=
  let k := s.cluster cl
  let set := k.icache.filter (fun x => x.extractLsb' 8 5 == line.extractLsb' 8 5 && x != line)
  let gone := if 8 ≤ set.length then set.take (set.length - 7) else []
  s.setCluster cl { k with icache := k.icache.filter (fun x => x != line && !gone.contains x) ++ [line] }

/-- The lines of a `prefi` in order, with where each stands, until one cannot be fetched. -/
def prefiLines (s : State) (a : Word) : Nat → List (Word × Nat)
  | 0 => []
  | n + 1 => match prefetchAt s a .fetch with
    | none => []
    | some p => (a, p) :: prefiLines s (a + 256) n

/-- A line that is present becomes the most recent, one in flight stays so, and any other is requested: its fill enters no
instruction buffer (R425). A line in flight is an access of the context over FD until it arrives (R300, R329). -/
def prefiLine (s : State) (line : Word) : State :=
  let cl := coreCluster s.curCore
  let k := s.cluster cl
  if k.icache.contains line then fillIcache s cl line
  else s.setCluster cl { k with
    inflight := if k.hasLine line then k.inflight else k.inflight ++ [(line, [])]
    prefetch := k.prefetch ++ [(line, s.myHandle)] }

/-- Only the lines that send a request are admitted, at FAB those of another die (R371); one to a die that is not in service is
dropped (R438). -/
def prefiEff (ea : Addr) (sz : BitVec 5) (s : State) : Eff :=
  let d := coreDie s.curCore
  let ls := prefiLines s (mAddress s.me ea &&& ~~~255#64) sz.toNat
  let lost := ls.filter (fun l => unserved s d (homeDie l.2))
  let ls := ls.filter (fun l => !unserved s d (homeDie l.2))
  let new := ls.filter (fun l => !(s.cluster (coreCluster s.curCore)).hasLine l.1)
  let away := new.filter (fun l => homeDie l.2 != d)
  if away.any (fun l => linkFull s d (homeDie l.2)) then .hold s
  else match admitItems s (new.map (fun _ => 256)) (away.map (fun _ => 256)) with
    | .error t => .hold t
    | .ok s =>
      let s := new.foldl (fun s l => chargeAfter (chargeForwards s s.myTenant d (homeDie l.2) [256]) s.myTenant d (homeDie l.2) 256) s
      let s := lost.foldl (fun s _ => orphanAtIssuer s s.curCore) s
      .done (ls.foldl (fun s l => prefiLine s l.1) s)

/-- `pref` (R300). -/
def execPref (h : Header) (ea : Addr) (s : State) : Host.Outcome State Fault Refusal :=
  issue (.pref h ea) (prefEff h ea) s

/-- `prefi` (R300). -/
def execPrefi (h : Header) (ea : Addr) (sz : BitVec 5) (s : State) : Host.Outcome State Fault Refusal :=
  issue (.prefi h ea sz) (prefiEff ea sz) s

/-! ## Atomics (R323 to R326) -/

def ordAcquires : Ord → Bool
  | .acq | .sc => true
  | _ => false

def ordReleases : Ord → Bool
  | .rel | .sc => true
  | _ => false

/-- What an ordering waits for before its access (R326, R381). -/
def withOrd (ord : Ord) (s : State) (k : State → Eff) : Eff :=
  if ordReleases ord then withRelease s k else if ordAcquires ord then withReports s k else k s

/-- One indivisible read-modify-write at the home of an address, which needs both rights: f gives the new value, or none to
leave it (R323, R324). What it acquires it hands on with its own release. The old bytes are consumed where they go into a register
(R417). -/
def rmw (a : Word) (n : Nat) (ord : Ord) (acquires consumes : Bool) (sc : Scope) (hint : BitVec 2) (f : Nat → Option Nat) (s : State)
    (fin : State → Nat → Eff) : Eff :=
  withAccess s a n n .write (fun s pl =>
    let take (s : State) (bs : List PByte) (k : State → List Byte → Eff) : Eff :=
      if consumes then deliver s a bs k else k s (cleanBytes bs).1
    let go : Eff := withOrd ord s (fun s => match pl with
      | .here b =>
        take s (s.myCore.readLocal b n) (fun s old =>
          let v := f (bytesNat old)
          let s := match v with
            | some x => s.setMyCore (s.myCore.updateLocal b (good (natBytes n x)))
            | none => s
          let s := if acquires then acquireLocal s b n sc else s
          let s := if !ordReleases ord then s else if v.isSome then keepLocal s b n sc else bumpRc s s.curCore s.curCtx
          fin s (bytesNat old))
      | .mem p l => withLink s a p (fun s => withLsOrder s (fun s =>
          if !hostRoom s p n || !probesGo s (homeDie p) (flatHolders s s.myTenant (va57 a) n) then .hold s
          else withRequest [n] (homeDie p) true n (fun s =>
            let bs := flatBytes s p n
            let (old, _) := cleanBytes bs
            match f (bytesNat old) with
            | some v =>
              (match flatHomeWrite s s.curCore (partyOf s s.curCore s.curCtx) a p l (good (natBytes n v)) true .atomic hint with
               | .error c => .trap c a
               | .ok s =>
                 let s := if acquires then acquireFlat s s.curCore s.curCtx (va57 a) p n sc else s
                 let s := if ordReleases ord then releaseFlat s s.curCore (partyOf s s.curCore s.curCtx) (va57 a) p n sc else s
                 take s bs (fun s old => fin s (bytesNat old)))
            | none =>
              withRace s a (flatGrans l p n) false true [] (fun s =>
                let s := (homeRead s s.curCore (va57 a) p n hint).1
                let s := if acquires then acquireFlat s s.curCore s.curCtx (va57 a) p n sc else s
                let s := if ordReleases ord then bumpRc s s.curCore s.curCtx else s
                take s bs (fun s old => fin s (bytesNat old)))) s)))
    match pl with
    | .mem _ l => if l.rd then go else .trap .xlatePerm a
    | .here _ => go)

def amoEff (h : Header) (d : SReg) (ea : Addr) (sz : Size) (x : SCon) (op : AOp) (ord : Ord) (sc : Scope) (s : State) : Eff :=
  let n := sizeBytes sz
  let v := lowBits n (readSC s.me x)
  rmw (mAddress s.me ea) n ord (ordAcquires ord) true sc h.hint (fun old => some (aopResult op n old v)) s
    (fun s old => .done (wrS s d (BitVec.ofNat 64 old)))

/-- A reduction: local at once, `sc` held until it is performed, otherwise posted (R295, R323). It acquires nothing (R338). -/
def redEff (h : Header) (ea : Addr) (sz : Size) (x : SCon) (op : AOp) (ord : Ord) (sc : Scope) (s : State) : Eff :=
  let n := sizeBytes sz
  let a := mAddress s.me ea
  let v := lowBits n (readSC s.me x)
  if isLocal a || ord == .sc then
    rmw a n ord false false sc h.hint (fun old => some (aopResult op n old v)) s (fun s _ => .done s)
  else
    withAccess s a n n .write (fun s pl => match pl with
      | .here _ => .done s
      | .mem p l => if !l.rd then .trap .xlatePerm a else withOrd ord s (fun s =>
          postWrite a p (natBytes n v) 4 { aop := op.bits, scope := sc.bits, ord := ord.bits } h.hint s))

def casEff (h : Header) (d : SReg) (ea : Addr) (sz : Size) (x : SCon) (ord : Ord) (sc : Scope) (s : State) : Eff :=
  let n := sizeBytes sz
  let want := lowBits n (readS s.me d)
  let v := lowBits n (readSC s.me x)
  rmw (mAddress s.me ea) n ord (ordAcquires ord) true sc h.hint (fun old => if old = want then some v else none) s
    (fun s old => .done (wrS s d (BitVec.ofNat 64 old)))

/-- `lda`: a load with ORD acq (R325). -/
def ldaEff (h : Header) (d : SReg) (ea : Addr) (sz : Size) (sc : Scope) (s : State) : Eff :=
  let n := sizeBytes sz
  let a := mAddress s.me ea
  withAccess s a n n .read (fun s pl => withReports s (fun s => match pl with
    | .here b => deliver (acquireLocal s b n sc) a (s.myCore.readLocal b n) (fun s bs =>
        .done (wrS s d (BitVec.ofNat 64 (bytesNat bs))))
    | .mem p l => globalRead a p l n h.hint true s (fun s bs =>
        deliver (acquireFlat s s.curCore s.curCtx (va57 a) p n sc) a bs (fun s bs =>
          .done (wrS s d (BitVec.ofNat 64 (bytesNat bs)))))))

/-- `stl`: a store with ORD rel (R325). -/
def stlEff (h : Header) (x : SReg) (ea : Addr) (sz : Size) (sc : Scope) (s : State) : Eff :=
  let n := sizeBytes sz
  let a := mAddress s.me ea
  let bs := natBytes n (readS s.me x).toNat
  withAccess s a n n .write (fun s pl => withRelease s (fun s => match pl with
    | .here b => .done (keepLocal (s.setMyCore (s.myCore.writeLocal b (good bs))) b n sc)
    | .mem p _ => postWrite a p bs 3 { scope := sc.bits, ord := Ord.rel.bits } h.hint s))

/-- `amo` (R323). -/
def execAmo (h : Header) (d : SReg) (ea : Addr) (sz : Size) (x : SCon) (op : AOp) (ord : Ord) (scope : Scope) (s : State) : Host.Outcome State Fault Refusal :=
  issue (.amo h d ea sz x op ord scope) (amoEff h d ea sz x op ord scope) s

/-- `red` (R323). -/
def execRed (h : Header) (ea : Addr) (sz : Size) (x : SCon) (op : AOp) (ord : Ord) (scope : Scope) (s : State) : Host.Outcome State Fault Refusal :=
  issue (.red h ea sz x op ord scope) (redEff h ea sz x op ord scope) s

/-- `cas` (R324). -/
def execCas (h : Header) (d : SReg) (ea : Addr) (sz : Size) (x : SCon) (ord : Ord) (scope : Scope) (s : State) : Host.Outcome State Fault Refusal :=
  issue (.cas h d ea sz x ord scope) (casEff h d ea sz x ord scope) s

/-- `lda` (R325). -/
def execLda (h : Header) (d : SReg) (ea : Addr) (sz : Size) (scope : Scope) (s : State) : Host.Outcome State Fault Refusal :=
  issue (.lda h d ea sz scope) (ldaEff h d ea sz scope) s

/-- `stl` (R325). -/
def execStl (h : Header) (x : SReg) (ea : Addr) (sz : Size) (scope : Scope) (s : State) : Host.Outcome State Fault Refusal :=
  issue (.stl h x ea sz scope) (stlEff h x ea sz scope) s

/-! ## Fences (R328, R329) -/

/-- Every access on a named path that was issued by the context, or accepted for it, has been performed (R291,
R329). Bits of the mask: ls, cp, mx, ga, st, gv, fd. -/
def pathsDone (s : State) (m : BitVec 7) : Bool :=
  let k := s.myCore
  let h := s.myHandle
  let mine (p : BatchOp → Bool) : Bool := k.ops.any (fun o => o.owner == h && p o.op)
  let isSt : BatchOp → Bool := fun o => match o with
    | .load .. | .drain .. => true
    | _ => false
  (!m.getLsbD 0 || !journalHolds k s.curCtx s.me.inc)
    && (!m.getLsbD 1 || !mine (fun o => !isSt o))
    && (!m.getLsbD 2 || !k.engine.any (fun e => e.owner == h))
    && (!m.getLsbD 4 || !mine isSt)
    && (!m.getLsbD 5 || !(k.gemvs.any (fun g => g.owner == h) || k.engine.any (fun e => e.owner == h && e.op == .gemv)))
    && (!m.getLsbD 6 || !(s.cluster (coreCluster s.curCore)).prefetch.any (fun e => e.2 == h))

def xfenceEff (m : BitVec 7) (s : State) : Eff :=
  withReports s (fun s => if pathsDone s m then .done s else .hold s)

/-- `fence` (R328). -/
def execFence (h : Header) (scope : Scope) (s : State) : Host.Outcome State Fault Refusal :=
  issue (.fence h scope) (fun s => withRelease s (fun s => .done s)) s

/-- `xfence` (R329). -/
def execXfence (h : Header) (scope : Scope) (paths : BitVec 7) (s : State) : Host.Outcome State Fault Refusal :=
  issue (.xfence h scope paths) (xfenceEff paths) s

/-! ## Records in local memory -/

/-- Reads a record of n bytes at an aligned scratchpad address over LS: ALIGN and XLATE_PERM before it is read, and RING where
the instruction's own list of causes has it (R276, R244). A poisoned record is consumed, and the instruction has no other
effect (R417, DEDUCED, log 28). -/
def withRecord (ring : Bool) (a : Word) (n al : Nat) (s : State) (k : State → List Byte → Eff) : Eff :=
  if a.toNat % al ≠ 0 then .trap .align a
  else if !isLocal a || decide (s.myCore.scratch < a.toNat + n) then .trap .xlatePerm a
  else match (if ring then ringRefuses s.myCore s.myHandle a.toNat n false else none) with
    | some r => .trap .ring (BitVec.ofNat 64 r)
    | none =>
      match cleanBytes (s.myCore.readLocal a.toNat n) with
      | (bs, none) => k s bs
      | (_, some i) => .done (consumed s (a + BitVec.ofNat 64 i))

/-! ## The till instructions (R330 to R336) -/

/-- The offset of the first failing 8 bytes of a till record (R331, R332 check 4). -/
def tillRecFault (s : State) (bs : List Byte) : Option Nat :=
  let w (i : Nat) : Word := wordAt bs (8 * i)
  let act := w 3
  let kind := actKind act
  let arg := w 4
  let bad (i : Nat) : Bool :=
    if i = 0 then (if kind = 0 then w 0 != 0 else w 0 % 512 != 0)
    else if i = 1 then (if kind = 0 then w 1 != 0 else w 1 == 0 || decide (2 ^ 31 < (w 1).toNat))
    else if i = 2 then (if kind = 0 then w 2 != 0 else w 2 == 0 || decide (2 ^ 40 < (w 2).toNat))
    else if i = 3 then
      act.extractLsb' 34 30 != 0 || (kind != 1 && actBarn act != 0) || (kind != 2 && actStage act != 0)
        || (kind != 3 && actEvt act != 0) || (kind == 2 && !(s.stage s.myTenant (actStage act)).declared)
    else if i = 4 then
      (if kind = 2 then arg != 0 && (arg % 64 != 0 || !isLocal arg || decide (s.myCore.scratch < arg.toNat + 320))
       else if kind = 3 then arg.extractLsb' 28 36 != 0
       else arg != 0)
    else w i != 0
  ((List.range 8).find? bad).map (8 * ·)

/-- A record stored beside a till gives back its unit of quota and its slot of its stage (R332). -/
def dropStored (s : State) (id : BitVec 13) : State :=
  let x := s.till id
  if x.stored.isNone then s
  else
    let s := quotaReturn s x.owner 2 (tillSector id) 1
    let st := s.stage x.owner (actStage x.act)
    (s.setStage x.owner (actStage x.act) { st with stored := st.stored - 1 }).setTill id { x with stored := none }

/-- The setting is taken at the till's home (R332): quotas, a slot of the stage for a stored record, which is held while the
stage is full (R231, DEDUCED, log 38), the fate of a bound record, and the new state. -/
def setTillEff (id : BitVec 13) (bs : List Byte) (stored : Option Rec) (s : State) : Eff :=
  let t := s.myTenant
  let d := tillSector id
  let x := s.till id
  let w (i : Nat) : Word := wordAt bs (8 * i)
  let kind := actKind (w 3)
  if kind != 0 && !x.owned && !quotaFits s t 4 d 1 then .trap .quota 0
  else
    let u := if x.owned then dropStored s id else s
    if stored.isSome && !quotaFits u t 2 d 1 then .trap .quota 0
    else if stored.isSome && (u.stage t (actStage (w 3))).full then .hold s
    else withExchange d true (fun s =>
      let s := if x.owned then dropStored s id else s
      let keep := kind == 2 && stored.isNone
      -- a bound record that the new setting does not keep enters its stage at once
      let s := match x.bound with
        | some st => if keep then s else
          (match takeParked s t st id with
           | some (e, s) => resumeParked s t st e (BitVec.ofNat 64 x.count) []
           | none => s)
        | none => s
      if kind = 0 then
        .done ((if x.owned then quotaReturn s t 4 d 1 else s).setTill id { arm := x.arm })
      else
        let s := if x.owned then s else quotaTake s t 4 d 1
        let st := s.stage t (actStage (w 3))
        let s := if stored.isSome then (quotaTake s t 2 d 1).setStage t (actStage (w 3)) { st with stored := st.stored + 1 } else s
        .done (s.setTill id { owned := true, owner := t, base := (w 0).extractLsb' 0 57 |>.setWidth 64, grans := (w 1).toNat, total := (w 2).toNat
                              act := w 3, arg := w 4, stored := stored, bound := if keep then x.bound else none
                              armed := true, arm := x.arm + 1, rel := [] })) s

/-- Both ends of the region translate and are homed on the till's sector (R332 checks 7 and 8). -/
def withRegion (id : BitVec 13) (base : Word) (grans : Nat) (s : State) (k : State → Eff) : Eff :=
  let last := base + BitVec.ofNat 64 (grans * 512 - 1)
  if isLocal base then .trap .xlatePerm base
  else withPage s base .read (fun s p _ =>
    if isLocal last then .trap .xlatePerm last
    else withPage s last .read (fun s p' _ =>
      if homeDie p != tillSector id || homeDie p' != tillSector id then .trap .illegal 128 else k s))

def tilsetEff (t a : SReg) (s : State) : Eff :=
  let tl := readS s.me t
  let ra := readS s.me a
  if tl.extractLsb' 13 51 != 0 then .trap .illegal 50
  else
    let id : BitVec 13 := tl.setWidth 13
    let x := s.till id
    if x.owned && x.owner != s.myTenant then .trap .tenant 0
    else withRecord true ra 64 64 s (fun s bs =>
      match tillRecFault s bs with
      | some off => .trap .illegal (BitVec.ofNat 64 (128 + off))
      | none =>
        let kind := actKind (wordAt bs 24)
        let arg := wordAt bs 32
        let region (stored : Option Rec) (s : State) : Eff :=
          if kind = 0 then setTillEff id bs stored s
          else withRegion id (wordAt bs 0) (wordAt bs 8).toNat s (setTillEff id bs stored)
        if kind = 2 && arg != 0 then
          withRecord true arg 320 64 s (fun s rb =>
            match recFault false rb with
            | some off => .trap .illegal (BitVec.ofNat 64 (512 + off))
            | none => region (some { recOfBytes rb with tenant := s.myTenant, stage := actStage (wordAt bs 24) }) s)
        else if kind = 3 && (!coreExists (handleCore (arg.setWidth 28)) || s.tenantOf (handleCore (arg.setWidth 28)) != s.myTenant) then
          .trap .tenant 0
        else region none s)

/-- The value of `tilget` (R335). -/
def tillWord (x : Till) : Word :=
  if x.owned then (0 : BitVec 1) ++ BitVec.ofBool x.fired ++ BitVec.ofBool x.armed ++ (0 : BitVec 20) ++ BitVec.ofNat 41 (min x.count (2 ^ 41 - 1))
  else 0

/-- A request to a till's home: R330, and a home that is not in service drops it as an orphan of the issuing core
(R205, R422). -/
def withTill (t : SReg) (s : State) (lost : State → Eff) (k : State → BitVec 13 → Till → Eff) : Eff :=
  let tl := readS s.me t
  if tl.extractLsb' 13 51 != 0 then .trap .illegal 50
  else
    let id : BitVec 13 := tl.setWidth 13
    if !reachable s (coreDie s.curCore) (tillSector id) then lost (orphanAtIssuer s s.curCore)
    else
      let x := s.till id
      if x.owned && x.owner != s.myTenant then .trap .tenant 0 else k s id x

def tilgetEff (d t : SReg) : State → Eff :=
  fun s => withTill t s (fun s => .done (wrS s d 0)) (fun s id x =>
    withExchange (tillSector id) true (fun s => .done (wrS s d (tillWord x))) s)

def tilarmEff (t : SReg) : State → Eff :=
  fun s => withTill t s .done (fun s id x =>
    if !x.owned then .trap .illegal 50
    else withExchange (tillSector id) true (fun s =>
      .done (s.setTill id { x with count := 0, fired := false, armed := true, started := false, arm := x.arm + 1 })) s)

/-- `tilset` (R332). -/
def execTilset (h : Header) (t a : SReg) (s : State) : Host.Outcome State Fault Refusal :=
  issue (.tilset h t a) (tilsetEff t a) s

/-- `tilget` (R335). -/
def execTilget (h : Header) (d t : SReg) (s : State) : Host.Outcome State Fault Refusal :=
  issue (.tilget h d t) (tilgetEff d t) s

/-- `tilarm` (R336). -/
def execTilarm (h : Header) (t : SReg) (s : State) : Host.Outcome State Fault Refusal :=
  issue (.tilarm h t) (tilarmEff t) s

/-! ## Posted writes at home (R295, R347, R396) -/

/-- The packet of an entry is gone. -/
def dropPosted (s : State) (j : JEntry) : State :=
  match j.pkt with
  | some id => { s with net := s.net.filter (fun p => p.id != id) }
  | none => s

/-- The lines of L1 that a posted write has updated. -/
def JEntry.lines (j : JEntry) : List Nat :=
  if j.tid != 0 then [] else unitsOf 64 (if j.kind = 2 then 512 * j.tile + j.off else va57 j.addr) (j.size.toNat + 1)

/-- A posted write is refused: its entry stays with a cause and a reason, one trap is owed to its context, and the lines that it
had updated leave L1, since they never stood at home (R272, R340). -/
def refusePosted (s : State) (core : CoreId) (e : Nat) (cause : Cause) (reason : BitVec 3) : State :=
  let j := (s.core core).jentry e
  let s := dropPosted s j
  let k := (s.core core).setJentry e { j with state := 2, cause := cause.code, reason := reason, pkt := none }
  let s := s.setCore core { k with l1 := k.l1.filter (fun x => !j.lines.contains x.1) }
  addReport s (mkHandle core j.ctx j.inc) { cause := cause, epc := j.epc, einfo := BitVec.ofNat 64 (2 ^ 63 + e) }

/-- An entry is freed once its write has been performed. -/
def freePosted (s : State) (core : CoreId) (e : Nat) : State :=
  let s := dropPosted s ((s.core core).jentry e)
  let k := s.core core
  s.setCore core { k with journal := sparseErase k.journal e }

/-- The bytes an entry holds. -/
def JEntry.bytes (j : JEntry) : List Byte := (natBytes 8 j.d0.toNat ++ natBytes 8 j.d1.toNat).take (j.size.toNat + 1)

/-- A write of an `stt` through a TID at its home slice: checked, performed and counted (R299, R333, R345). -/
def tileHomeWrite (s : State) (core : CoreId) (c : Party) (tid : Tid) (d : Desc) (q off : Nat) (bs : List PByte)
    (hint : BitVec 2) : Except Cause State :=
  let t := s.tenantOf core
  let addrs := tileAddrs d q off bs.length
  let hits := tillsCounting s t (addrs.map (·.2))
  match checkGrans s c (tileGrans s t tid q off addrs bs.length) true false hits with
  | .error c => .error c
  | .ok s => .ok (countTills (some (coreDie core)) (performTile s t tid d q off bs (coreDie core) (core, c.who) hint) (addrs.map (·.2)) hits)

/-- The write of an entry at its home. A context that has ended since keeps its writes going (R384). -/
def performEntry (s : State) (core : CoreId) (j : JEntry) : Except Cause State :=
  let t := s.tenantOf core
  let c := j.party s core
  let l : Leaf := match leafOf (s.tenantSt t) (va57 j.addr) with
    | some e => e.2
    | none => {}
  if j.kind = 2 && j.tid != 0 then
    match s.desc t j.tid with
    | some d => (tileHomeWrite (s.lend t j.frames) core c j.tid d j.tile j.off (good j.bytes) j.hint).map (fun u =>
        if j.frames.isEmpty then u else u.setTenantSt t { u.tenantSt t with hostPages := (s.tenantSt t).hostPages })
    | none => .ok s
  else
    let a := if j.kind = 2 then canon (512 * j.tile + j.off) else j.addr
    let l := if j.kind = 2 then (match leafOf (s.tenantSt t) (va57 a) with
      | some e => e.2
      | none => {}) else l
    if j.kind = 4 then
      let n := j.size.toNat + 1
      let old := bytesNat (cleanBytes (flatBytes s j.phys n)).1
      let v := aopResult (aopOfCode j.aop) n old (bytesNat j.bytes)
      match flatHomeWrite s core c a j.phys l (good (natBytes n v)) true .atomic j.hint with
      | .error x => .error x
      | .ok s => .ok (if j.ord = 2 then releaseFlat s core (j.party s core) (va57 a) j.phys n (scopeOfCode j.scope) else s)
    else
      match flatHomeWrite s core c a j.phys l (good j.bytes) (j.kind = 3) .plain j.hint with
      | .error c => .error c
      | .ok s => .ok (if j.kind = 3 then releaseFlat s core (j.party s core) (va57 a) j.phys j.bytes.length (scopeOfCode j.scope) else s)

/-- The home slice of an entry's write. -/
def JEntry.slice (j : JEntry) (s : State) (core : CoreId) : ClusterId :=
  let t := s.tenantOf core
  if j.kind = 2 && j.tid != 0 then
    match s.desc t j.tid with
    | some d => tileHome s t j.tid d j.tile
    | none => flatHome 0 j.phys
  else flatHome (if j.kind = 2 then 512 * j.tile + j.off else va57 j.addr) j.phys

/-- Its packet has reached its home. -/
def JEntry.atHome (j : JEntry) (s : State) : Bool :=
  match j.pkt with
  | none => true
  | some id => s.net.any (fun p => p.id == id && p.phase == .delivered)

/-- The die that answers an entry. -/
def JEntry.home (j : JEntry) (s : State) (core : CoreId) : Die :=
  match j.pkt with
  | none => coreDie core
  | some id => ((s.net.find? (fun p => p.id == id)).map (·.dst)).getD (coreDie core)

/-- The first address in host memory that an entry reaches: its own, or of an `stt` one of its bytes, or of the whole tile where its
entry has to be brought in. -/
def JEntry.hostPart (j : JEntry) (s : State) (core : CoreId) : Option Nat :=
  let t := s.tenantOf core
  match (if j.kind = 2 && j.tid != 0 then s.desc t j.tid else none) with
  | some d =>
    let all := (tileEntry s (tileHome s t j.tid d j.tile) (tensorTag t j.tid j.tile) false).isNone
    let u := s.lend t j.frames
    ((tileAddrs d j.tile (if all then 0 else j.off) (if all then 512 else 16)).map (·.2)).find? (fun va => (physOf u t va).any isHost)
  | none => if isHost j.phys then some (if j.kind = 2 then 512 * j.tile + j.off else va57 j.addr) else none

/-- The dies of the caches and copies that its write ends. -/
def JEntry.holders (j : JEntry) (s : State) (core : CoreId) : List Die :=
  let t := s.tenantOf core
  if j.kind = 2 && j.tid != 0 then tagHolders s (tensorTag t j.tid j.tile)
  else flatHolders s t (if j.kind = 2 then 512 * j.tile + j.off else va57 j.addr) (j.size.toNat + 1)

/-- Nothing but other contexts holds an entry: it is the oldest of its context, with no refusal of that context untaken (R292,
R347), it has reached its home, and its line can be written. -/
def entryFree (s : State) (core : CoreId) (j : JEntry) : Bool :=
  let k := s.core core
  let h := mkHandle core j.ctx j.inc
  j.state == 1
    && k.journal.all (fun x => !(x.2.state == 1 && x.2.ctx == j.ctx && x.2.inc == j.inc && decide (x.2.seq < j.seq)))
    && !(s.handleLive h && (s.ctx core j.ctx).reports.any (fun r => r.einfo.getLsbD 63))
    && j.atHome s && (crossing s (j.home s core) (coreDie core) false).isSome
    && (homeGone s j.phys || ((s.linkUp || (j.hostPart s core).isNone) && hostRoom s j.phys (j.size.toNat + 1) && probesGo s (homeDie j.phys) (j.holders s core)))

/-- An entry is the next to be performed: what its core sent to one home slice arrives there in issue order (R354). -/
def entryReady (s : State) (core : CoreId) (e : Nat) : Bool :=
  let k := s.core core
  let j := k.jentry e
  entryFree s core j
    && k.journal.all (fun x => !(decide (x.2.seq < j.seq) && entryFree s core x.2 && x.2.slice s core == j.slice s core))

/-- The pages that an entry writes: each byte's own of an `stt`. -/
def JEntry.pages (j : JEntry) (s : State) (core : CoreId) : List Nat :=
  match (if j.kind = 2 then s.desc (s.tenantOf core) j.tid else none) with
  | some d => (tileAddrs d j.tile j.off 16).map (·.2)
  | none => [if j.kind = 2 then 512 * j.tile + j.off else va57 j.addr]

/-- Why a home refuses a write: its storage has failed, or a page has been frozen after translation (R396, R422). -/
def homeRefuses (s : State) (core : CoreId) (j : JEntry) : Option (BitVec 3) :=
  if homeGone s j.phys then some 4
  else if (j.pages s core).any (fun va => match leafOf (s.tenantSt (s.tenantOf core)) (va % 2 ^ 57) with
    | some (_, l) => l.frz
    | none => false) then some 3
  else none

/-- The home's answer to an entry: it crosses back to the core's die, and is charged after the fact (R351, R371). -/
def answerPosted (s : State) (core : CoreId) (j : JEntry) : State :=
  chargeAfter ((crossing s (j.home s core) (coreDie core) false).getD s) (s.tenantOf core) (coreDie core) (j.home s core) 0

/-- POSTED_WRITE_PERFORMED (R295): the entry named by the pick is performed and freed; a write that its home must
refuse, or whose check fails, is refused instead. -/
def execPostedWritePerformed (s : State) : Host.Outcome State Fault Refusal :=
  let core := s.pick.core
  let e := s.pick.id
  if entryReady s core e then
    let j := (s.core core).jentry e
    let s := answerPosted s core j
    match homeRefuses s core j with
    | some r => .next (refusePosted s core e .storeRefused r)
    | none => match performEntry s core j with
      | .ok t => .next (freePosted t core e)
      | .error c => .next (refusePosted s core e c 0)
  else .next s

/-- POSTED_WRITE_REFUSED (R396): the home refuses the entry, its race check fails, or the host completes the write of
a host-homed line with an error (REASON 2). -/
def execPostedWriteRefused (s : State) : Host.Outcome State Fault Refusal :=
  let core := s.pick.core
  let e := s.pick.id
  if entryReady s core e then
    let j := (s.core core).jentry e
    let u := answerPosted s core j
    match homeRefuses s core j with
    | some r => .next (refusePosted u core e .storeRefused r)
    | none => match performEntry u core j with
      | .error c => .next (refusePosted u core e c 0)
      | .ok _ => if isHost j.phys then .next (refusePosted u core e .storeRefused 2) else .next s
  else .next s

end Sys2Proof.Machine
end

