-- ==== Sys2Proof/Machine/Control.lean ====
section
/-! DEFINITION. Control flow: the fetch of a line, the transfers, the link stack, the landing checks, `trap`, `eret`,
the watchdog and words that no row assigns (R54, R133 to R143, R204, R384, R386, R424 to R426). -/

namespace Sys2Proof.Machine

/-! ## Fetching (R24, R424 to R426) -/

def lineOf (a : Word) : Word := a &&& ~~~255#64

/-- The 256 bytes of a line that stands at a physical address. Caches change only timing (R424): a lookup reads what
stands at home. -/
def lineAt (s : State) (p : Nat) : List PByte := flatBytes s (p / 256 * 256) 256

/-- Whether the buffer or the cluster cache of a core holds a line of a page that still stands somewhere. -/
def lineCached (s : State) (core : CoreId) (line : Word) : Option (List PByte) :=
  if (s.core core).ibuf.contains line.toNat || (s.cluster (coreCluster core)).icache.contains line then
    (physOf s (s.tenantOf core) (va57 line)).map (lineAt s)
  else none

/-- What a fetch of an address comes to. -/
inductive Fetched where
  | line (bs : List PByte)
  | absent (p : Nat) (key : Nat) (l : Leaf)
  | bad (c : Cause)
  | wait (w : PageWait)
  | hole

/-- A fetch: a cached line needs no translation, any other address is translated. -/
def fetchAt (s : State) (core : CoreId) (a : Word) : Fetched :=
  if !canonical a then .bad .fetch
  else match lineCached s core (lineOf a) with
    | some bs => .line bs
    | none => match translate s core (s.tenantOf core) a .fetch with
      | .ok p key l => .absent p key l
      | .bad c => .bad c
      | .wait w => .wait w
      | .hole => .hole

/-- A line becomes the most recent of the buffer of eight. -/
def fillIbuf (s : State) (core : CoreId) (line : Word) : State :=
  let k := s.core core
  let l := k.ibuf.filter (· != line.toNat) ++ [line.toNat]
  s.setCore core { k with ibuf := l.drop (l.length - 8) }

/-- A demand for an absent line: it joins the fill in flight or starts one (R425). -/
def demandLine (s : State) (core : CoreId) (n : CtxNum) (line : Word) : State :=
  let cl := coreCluster core
  let k := s.cluster cl
  if k.inflight.any (fun e => e.1 == line) then
    s.setCluster cl { k with inflight := k.inflight.map (fun e =>
      if e.1 == line && !e.2.contains (core, n) then (e.1, e.2 ++ [(core, n)]) else e) }
  else s.setCluster cl { k with inflight := k.inflight ++ [(line, [(core, n)])] }

/-- A line of the issuing context that is absent in an exchange phase: its fill takes no cycle, because no hold applies there
(R218). It crosses from its home, and counts as a read there (R283, R351). -/
def phaseFill (s : State) (line : Word) (p : Nat) : State :=
  let d := coreDie s.curCore
  let s := countPageRead (carry s s.myTenant d (homeDie p) false) p d
  fillIcache (fillIbuf s s.curCore line) (coreCluster s.curCore) line

/-- The line of the context's next instruction is the line it looked up last. -/
def lineHeld (c : Ctx) : Bool :=
  match c.fline with
  | some (l, _) => l == lineOf c.pc
  | none => false

/-- A line that the issuing core's buffer or its cluster's cache holds becomes the most recent of the buffer, and of the cache
when the buffer lacked it (R424). -/
def hitLine (s : State) (line : Word) : State :=
  if s.myCore.ibuf.contains line.toNat then fillIbuf s s.curCore line
  else fillIcache (fillIbuf s s.curCore line) (coreCluster s.curCore) line

/-- IFETCH_LOOKUP (R424, R426) for the issuing context: a hit gives it the line, a miss is held for a fill, for the
page or for the link to the host, and a fetch fault is a trap of the instruction whose word was wanted, which has not issued. -/
def execIfetchLookup (s : State) : Host.Outcome State Fault Refusal :=
  let c := s.me
  if c.run != .live || lineHeld c || c.resid.isSome then .next s
  else
    let line := lineOf c.pc
    let got (bs : List PByte) (s : State) : State := s.setMe { s.me with fline := some (line, bs), pageWait := none }
    match fetchAt s s.curCore c.pc with
    | .line bs => .next (got bs (hitLine s line))
    | .absent p key l =>
      let s := fillTlbs s s.curCore c.pc key l .fetch
      if inPhase s.myCore s.curCtx then .next (got (lineAt s p) (phaseFill s line p))
      else if unserved s (coreDie s.curCore) (homeDie p) then .next (match dropRequest s with
        | .hold t => holdMe t
        | _ => s)
      else .next (match withLink s c.pc p .done with
        | .hold t => holdMe t
        | _ => holdMe (demandLine s s.curCore s.curCtx line))
    | .bad c => .next (takeTrap s s.curCore s.curCtx c s.me.pc s.me.pc false)
    | .wait w => .next (holdMe (waitForPage s w))
    | .hole => .fault .noSuchFrame

/-- The request for a line and its arrival cross to the home of the line and back, and count as a read there (R283, R351); a line
of host memory does not arrive while the link is down (R419). -/
def fetchCrossing (s : State) (cl : ClusterId) (line : Word) : Option State :=
  let d := cl.extractLsb' 10 3
  match physOf s (s.cluster cl).tenant (va57 line) with
  | some p => if linkHolds s p then none else (exchange s d (homeDie p) false).map (fun s => countPageRead s p d)
  | none => some s

/-- ICACHE_FILL (R425): the line named by the pick arrives, in the cluster cache and in the buffers of the cores whose
contexts wait for it. -/
def execIcacheFill (s : State) : Host.Outcome State Fault Refusal :=
  let cl := s.pick.cluster
  match (s.cluster cl).inflight.find? (fun e => e.1.toNat == s.pick.num) with
  | none => .next s
  | some e =>
    match fetchCrossing s cl e.1 with
    | none => .next s
    | some s =>
      let k := s.cluster cl
      let s := fillIcache (s.setCluster cl { k with
        inflight := k.inflight.erase e, prefetch := k.prefetch.filter (fun x => x.1 != e.1) }) cl e.1
      .next (e.2.foldl (fun s w => fillIbuf s w.1 e.1) s)

/-- WATCHDOG (R204): after a successful fetch, in place of executing; COUNT returns to 0. An exchange phase stops the counting
and not the trap. -/
def watchdogDue (c : Ctx) : Bool := c.wdogLimit != 0 && c.wdogCount.toNat == 2 ^ c.wdogLimit.toNat

/-- The WATCHDOG of the issuing context. -/
def execWatchdog (s : State) : Host.Outcome State Fault Refusal :=
  let c := s.me
  if c.run == .live && (lineHeld c || c.resid.isSome) && watchdogDue c then
    .next (trapMe (s.setMe { c with wdogCount := 0 }) .watchdog (BitVec.ofNat 64 (2 ^ c.wdogLimit.toNat)))
  else .next s

/-! ## Words no row assigns (R70, R72) -/

/-- ILLEGAL with the place of the failing field; it is raised whatever the guards hold. -/
def illegalWord (einfo : Nat) (s : State) : Host.Outcome State Fault Refusal :=
  .next (trapMe (countIssue s) .illegal (BitVec.ofNat 64 einfo))

/-- OP is assigned in the opcode map (R72 to R81). -/
def opAssigned (op : Nat) : Bool :=
  [(0x00, 0x08), (0x10, 0x1D), (0x20, 0x24), (0x30, 0x40), (0x50, 0x59), (0x60, 0x68), (0x70, 0x74), (0x78, 0x7E),
   (0x80, 0x84), (0x88, 0x8A), (0x90, 0x99), (0xA0, 0xA7), (0xA9, 0xAB), (0xB0, 0xB6), (0xC0, 0xC3), (0xD0, 0xD7)].any
    (fun r => decide (r.1 ≤ op) && decide (op ≤ r.2))

/-- `ctl.einfo` of a word that no row assigns: 0 for its OP, 8 for its FN; the matrix operations fail at OP while the
engines are off (R438). -/
def wordFault (matrixOff : Bool) (w : BitVec 128) : Nat :=
  let op := (w.extractLsb' 0 8).toNat
  if opAssigned op && !(matrixOff && decide (0x50 ≤ op) && decide (op ≤ 0x59)) then 8 else 0

/-! ## Transfers (R133, R134, R141) -/

/-- pc + sext(OFF) × 16 (R134). -/
def branchTarget (s : State) (off : BitVec 40) : Word := s.me.pc + off.signExtend 64 * 16

/-- `loop` (R141). -/
def loopEff (c : SReg) (off : BitVec 40) (s : State) : Eff :=
  let n := readS s.me c
  if n = 0 then .done s
  else
    let t := wrS s c (n - 1)
    if readS t.me c = 0 then .done t else .goto t (branchTarget s off)

/-! ## The link stack (R135 to R138) -/

/-- A local access of the link stack's spill area. -/
def withSpill (s : State) (i : Nat) (k : AccKind) (go : State → Nat → Eff) : Eff :=
  withAccess s (BitVec.ofNat 64 (s.me.linkBase.toNat + 8 * i)) 8 8 k (fun s pl => match pl with
    | .here b => go s b
    | .mem _ _ => .trap .xlatePerm (BitVec.ofNat 64 (s.me.linkBase.toNat + 8 * i)))

/-- `ls_push` (R136). -/
def pushLink (a : Word) (s : State) (k : State → Eff) : Eff :=
  let c := s.me
  if c.link.length < 16 then k (s.setMe { c with link := a :: c.link })
  else if c.linkSpilled = c.linkCap then .trap .link 1
  else withSpill s c.linkSpilled.toNat .write (fun s b =>
    let c := s.me
    let s := s.setMyCore (s.myCore.writeLocal b (good (natBytes 8 (c.link.getLastD 0).toNat)))
    k (s.setMe { s.me with link := a :: c.link.dropLast, linkSpilled := c.linkSpilled + 1 }))

/-- `ls_top` and `ls_drop` of a return to an address (R136, R138). A poisoned entry is consumed and the `ret` retires
(R417, DEDUCED, log 22). -/
def popLink (t : Word) (s : State) (k : State → Eff) : Eff :=
  let c := s.me
  match c.link with
  | top :: rest => if top = t then k (s.setMe { c with link := rest }) else .trap .link 2
  | [] =>
    if c.linkSpilled = 0 then .trap .link 0
    else withSpill s (c.linkSpilled.toNat - 1) .read (fun s b =>
      let drop (s : State) : State := s.setMe { s.me with linkSpilled := s.me.linkSpilled - 1 }
      match cleanBytes (s.myCore.readLocal b 8) with
      | (bs, none) => if wordAt bs 0 = t then k (drop s) else .trap .link 2
      | (_, some i) => k (drop (consumed s (BitVec.ofNat 64 (b + i)))))

/-- The issuing context leaves residual code: its pin is dropped (R263, R269). -/
def leaveResid (s : State) : State :=
  match s.me.resid with
  | some p => dropPin (s.setMe { s.me with resid := none }) p.handle
  | none => s

/-- The home of the handle whose residual code the issuing context leaves orders the drop of its pin (R262, R269). -/
def withPinHome (s : State) (k : State → Eff) : Eff :=
  match s.me.resid with
  | some p => withExchange (BitVec.ofNat 3 (p.handle.extractLsb' 0 12).toNat) false k s
  | none => k s

def brlEff (off : BitVec 40) (s : State) : Eff :=
  let r := s.me.pc + 16
  pushLink r s (fun s' => .goto (s'.setMe (s'.me.setS 63 r)) (branchTarget s off))

def retEff (s : State) : Eff :=
  let t := s.me.getS 63
  if t % 16 ≠ 0 then .trap .align t
  else withPinHome s (fun s => popLink t s (fun s => .goto (leaveResid s) t))

/-! ## `jt` (R139): a poisoned entry of the table, or a poisoned target line, is consumed, and the `jt` retires to the next
instruction (R417, DEDUCED, log 22) -/

/-- The word that stands at an address within a line. -/
def wordIn (bs : List PByte) (a : Word) : List PByte := (bs.drop (a.toNat % 256)).take 16

/-- `fetch(t)` of a `jt`: the target must be a `land` with the tag. An absent line is looked up as any other: it joins the fill in
flight or starts one, and the instruction is held for it (R425). -/
def landAt (t : Word) (pad : BitVec 16) (s : State) : Eff :=
  let check (bs : List PByte) (s : State) : Eff :=
    match cleanBytes (wordIn bs t) with
    | (_, some i) => .done (consumed s (t + BitVec.ofNat 64 i))
    | (w, none) =>
      let u := wordOfBytes w
      if u.extractLsb' 0 8 != 0x05 || u.extractLsb' 90 16 != pad then .trap .land t else .goto s t
  match fetchAt s s.curCore t with
  | .line bs => check bs s
  | .absent p key l =>
    let s := fillTlbs s s.curCore t key l .fetch
    if inPhase s.myCore s.curCtx then check (lineAt s p) (phaseFill s (lineOf t) p)
    else if unserved s (coreDie s.curCore) (homeDie p) then dropRequest s
    else withLink s t p (fun s => .hold (demandLine s s.curCore s.curCtx (lineOf t)))
  | .bad c => .trap c t
  | .wait w => .hold (waitForPage s w)
  | .hole => .stop .noSuchFrame

def jtEff (h : Header) (i b : SReg) (pad : BitVec 16) (bound : BitVec 22) (s : State) : Eff :=
  let x := readS s.me i
  let base := readS s.me b
  if bound.toNat ≤ x.toNat then .trap .jtbound x
  else if base % 8 ≠ 0 then .trap .align base
  else readPoisoned (base + 8 * x) 8 8 h.hint false s (fun s pbs => match cleanBytes pbs with
    | (_, some i) => .done (consumed s (base + 8 * x + BitVec.ofNat 64 i))
    | (bs, none) =>
      let t := wordAt bs 0
      if t % 16 ≠ 0 then .trap .align t else landAt t pad s)

/-! ## The values that control registers refuse (R8, R101, R204, R249, R387) -/

/-- The bits that an `mtc` may not set (R8). -/
def ctlReserved (r : CtlReg) : Word :=
  match r with
  | .status => 0x0000FE01FFFFFFFA | .cause => 0xFFFFFFFFFFFF0C00 | .flags => ~~~0x7F#64 | .amax => ~~~0x1FFFFFFFF#64
  | .mxcnt => 0x8000000000000000 | .scale => ~~~0xFF#64 | .wdog => 0x7FFFC0 | .lmcfg => ~~~15#64
  | .foldbud => 0xFFE00000FFFE0000 | .jrnl => 0x7FE0000000000000 | .linkstk => 0xFFF0000000000000
  | .evmask => ~~~1#64 | .mmchk => ~~~3#64
  | _ => 0

/-- A value that breaks the register's own rule, whatever the state. -/
def ctlValueBad (r : CtlReg) (x : Word) : Bool :=
  match r with
  | .evec => x % 16 != 0
  | .amax => decide (0x7F800000 < (x.extractLsb' 0 32).toNat)
  | .wdog =>
    let l := (x.extractLsb' 0 6).toNat
    (decide (1 ≤ l) && decide (l ≤ 15)) || decide (41 ≤ l)
  | .foldbud =>
    let sl := (x.extractLsb' 32 21).toNat
    let rl := (x.extractLsb' 0 17).toNat
    sl == 0 || decide (2 ^ 20 < sl) || rl == 0 || decide (65536 < rl)
  | .lmcfg => decide (x.toNat < 4) || decide (8 < x.toNat)
  | _ => false

/-! ## `eret` (R384, R386) -/

/-- A trapped context resumes at its `ctl.epc`. In residual code it resumes where it stood, unless the handler has
written `ctl.epc` (R263, R384). A context that resumes at another instruction than its own leaves that instruction's reply
behind: the reply belongs to the instruction that was sent (R403, DEDUCED, log 32). -/
def resumeCtx (s : State) (core : CoreId) (n : CtxNum) (keepPlace : Bool) : State :=
  let c := s.ctx core n
  let s := match c.resid with
    | some p => if keepPlace then s else dropPin (s.setCtx core n { c with resid := none }) p.handle
    | none => s
  let c := s.ctx core n
  let s := match c.callPin with
    | some h => if c.epc ≠ c.pc then dropPin s h else s
    | none => s
  let c := s.ctx core n
  let c := if c.epc ≠ c.pc then { c with pend := .none, sent := false, callPin := none } else c
  s.setCtx core n { c with run := .live, pc := c.epc, fline := none, nextIssue := s.cycleAt core, epcWritten := false }

/-- The end of a handling. The handler is context 15 of the issuing core; a release at scope core comes first, and the
context it resumes acquires from it. -/
def endHandling (s : State) : Eff :=
  let core := s.curCore
  match s.myCore.handling with
  | some (.trap n) =>
    let c := s.ctx core n
    let rv := c.jrnl.getLsbD 63
    let epc := if rv then (c.jrnl.extractLsb' 0 53 ++ (0 : BitVec 4)).signExtend 64 else c.epc
    if causeIsFatal c.cause then .gone (handlerIdle (tearDown (bumpRc s core s.curCtx) core n 2) core)
    else if c.run == .saved then .gone (handlerIdle (bumpRc s core s.curCtx) core)
    else if epc % 16 ≠ 0 then .trap .align epc
    else
      let (tbl, s) := releaseMine s
      let c := s.ctx core n
      let s := s.setCtx core n { c with epc := epc, jrnl := c.jrnl &&& ~~~(1#64 <<< 63) }
      .gone (handlerIdle (acquireInto (resumeCtx s core n (rv || !c.epcWritten)) core n tbl) core)
  | some (.preempt _) =>
    -- contexts that the handler has not saved go on, and acquire from it (R386, R403, DEDUCED, log 32)
    let (tbl, s) := releaseMine s
    let k := s.core core
    let on (c : Ctx) : Ctx := if c.stopped then { c.acquire tbl with stopped := false } else c
    .gone (handlerIdle (s.setCore core { k with ctxs := k.ctxs.map (fun e => (e.1, on e.2)) }) core)
  | _ => .gone (handlerIdle (bumpRc s core s.curCtx) core)

def eretEff (s : State) : Eff :=
  if s.curCtx ≠ 15 then .trap .priv 0 else withRelease s endHandling

/-! ## The meanings -/

/-- `nop` (R133). -/
def execNop (h : Header) (s : State) : Host.Outcome State Fault Refusal := issue (.nop h) .done s

/-- `br` (R134). -/
def execBr (h : Header) (off : BitVec 40) (s : State) : Host.Outcome State Fault Refusal :=
  issue (.br h off) (fun s => .goto s (branchTarget s off)) s

/-- `brl` (R137). -/
def execBrl (h : Header) (off : BitVec 40) (s : State) : Host.Outcome State Fault Refusal :=
  issue (.brl h off) (brlEff off) s

/-- `ret` (R138). -/
def execRet (h : Header) (s : State) : Host.Outcome State Fault Refusal := issue (.ret h) retEff s

/-- `jt` (R139). -/
def execJt (h : Header) (i b : SReg) (pad : BitVec 16) (bound : BitVec 22) (s : State) : Host.Outcome State Fault Refusal :=
  issue (.jt h i b pad bound) (jtEff h i b pad bound) s

/-- `land` (R140). -/
def execLand (h : Header) (pad : BitVec 16) (foldable : Bool) (s : State) : Host.Outcome State Fault Refusal :=
  issue (.land h pad foldable) .done s

/-- `loop` (R141). -/
def execLoop (h : Header) (c : SReg) (off : BitVec 40) (s : State) : Host.Outcome State Fault Refusal :=
  issue (.loop h c off) (loopEff c off) s

/-- `trap` (R142). -/
def execTrap (h : Header) (imm : Word) (s : State) : Host.Outcome State Fault Refusal :=
  issue (.trap h imm) (fun _ => .trap .software imm) s

/-- `eret` (R143, R384, R386). -/
def execEret (h : Header) (s : State) : Host.Outcome State Fault Refusal := issue (.eret h) eretEff s

/-- A word whose OP or FN no row assigns (R70, R72): ILLEGAL, whatever the guards hold. -/
def execUnassignedOp (w : BitVec 128) (s : State) : Host.Outcome State Fault Refusal :=
  illegalWord (wordFault (decide (s.svc.toNat < 2)) w) s

end Sys2Proof.Machine
end

