-- ==== Sys2Proof/Machine/Exec.lean ====
section
/-! DEFINITION. The lives of contexts, active messages, signals and events, domains and barriers, exchange phases and
the piste (R28, R197 to R221, R349, R383, R407, R408). -/

namespace Sys2Proof.Machine

/-! ## Packets that have reached their die -/

/-- The core a packet goes to, or none for base logic. -/
def msgTarget : Msg → Option CoreId
  | .amsg t _ _ _ _ => some (t.extractLsb' 4 16)
  | .signal h _ => some (handleCore h)
  | .delivery c _ _ => some c
  | _ => none

/-- A posted write's packet: its entry keeps its order (R292, R354). -/
def isWrite : Msg → Bool
  | .write .. => true
  | _ => false

/-- Packets of one sender to one target, and packets delivered from other dies, keep their order (R26, R354). -/
def behind (p q : Pkt) : Bool :=
  !q.waiting && !isWrite q.msg && q.dst == p.dst && msgTarget q.msg == msgTarget p.msg
    && (if p.phase == .mesh then q.phase == .mesh && q.hasSrc == p.hasSrc && q.src == p.src else q.phase == .delivered)

/-- A packet that can be handled at its target now. -/
def arrivable (s : State) (p : Pkt) : Bool :=
  (p.phase == .mesh || p.phase == .delivered) && (p.waiting || !((s.net.takeWhile (fun q => q.id != p.id)).any (behind p)))

def findPkt (s : State) (id : Nat) : Option Pkt :=
  match s.net.find? (fun p => p.id == id) with
  | some p => if arrivable s p then some p else none
  | none => none

def dropPkt (s : State) (id : Nat) : State := { s with net := s.net.filter (fun p => p.id != id) }

/-- A packet stays at its target. -/
def parkPkt (s : State) (id : Nat) : State :=
  { s with net := s.net.map (fun p => if p.id = id then { p with waiting := true } else p) }

/-! ## The spill area of a saved context (R404, R406, R408) -/

/-- SPILLBASE of a core, and where it stands in local memory. -/
def Core.spillSlot (k : Core) : Nat := k.scratch - 12288 + 11968
def Core.spillBase (k : Core) : Word := k.local64 k.spillSlot

/-- A spill area: its address, for a tenant, and the core whose local memory holds it if it is local. -/
structure Area where
  core : Option CoreId
  /-- The die of the network interface that reaches it. -/
  die  : Die
  tenant : Tenant
  addr : Word

/-- The spill area of a context of a core. -/
def spillArea (s : State) (core : CoreId) (n : CtxNum) : Area :=
  { core := some core, die := coreDie core, tenant := s.tenantOf core, addr := (s.core core).spillBase + BitVec.ofNat 64 (4096 * n.toNat) }

/-- The spill area of a saved context whose core has been handed over; one in the local memory of that core is gone. -/
def Away.spill (a : Away) (h : BitVec 28) : Area := { core := none, die := coreDie (handleCore h), tenant := a.tenant, addr := a.area }

/-- Bytes of a spill area with their poison; the accesses are not race-checked. -/
def Area.readPoisoned (s : State) (x : Area) (off len : Nat) : List PByte :=
  if isLocal x.addr then (match x.core with
    | some c => (s.core c).readLocal (x.addr.toNat + off) len
    | none => List.replicate len (0, false))
  else (List.range len).map (fun i => match physOf s x.tenant (va57 x.addr + off + i) with
    | some p => (flatBytes s p 1).headD (0, true)
    | none => (0, true))

/-- What the network interface reads of a spill area: a poisoned byte reads as zero. -/
def Area.read (s : State) (x : Area) (off len : Nat) : List Byte :=
  (x.readPoisoned s off len).map (fun b => if b.2 then 0 else b.1)

/-- A read of a spill area in the flat space counts at the homes of its granules, and crosses to them (R283, R351). -/
def Area.count (s : State) (x : Area) (off len : Nat) : State :=
  if isLocal x.addr then s
  else (unitsOf 64 (va57 x.addr + off) len).foldl (fun s u => match physOf s x.tenant (64 * u) with
    | some p => countPageRead (carry s x.tenant x.die (homeDie p) false) p x.die
    | none => s) s

/-- Bytes of one page, which cross to its home (R351); a host granule that finds no room takes the place of the oldest one (R418). -/
def Area.put (s : State) (x : Area) (a : Nat) (bs : List Byte) : State :=
  match physOf s x.tenant a with
  | some p => performFlat (makeHostRoom (carry s x.tenant x.die (homeDie p) false) p bs.length) x.tenant a p (good bs) x.die none .plain 0
  | none => s

def Area.write (s : State) (x : Area) (off : Nat) (bs : List Byte) : State :=
  if isLocal x.addr then (match x.core with
    | some c => s.setCore c ((s.core c).writeLocal (x.addr.toNat + off) (good bs))
    | none => s)
  else
    let v := va57 x.addr + off
    let m := 4096 - v % 4096
    let s := x.put s v (bs.take m)
    if m < bs.length then x.put s (v + m) (bs.drop m) else s

/-- SHDR of a spill area. -/
def Area.hdr (s : State) (x : Area) : Word := wordAt (x.read s 0x800 8) 0

/-- RECS holds 15 records. -/
def Area.full (s : State) (x : Area) : Bool := decide (15 ≤ ((x.hdr s).extractLsb' 16 4).toNat)

/-- SHDR stands in a page, and is poisoned. -/
def Area.bad (s : State) (x : Area) : Bool :=
  (x.readPoisoned s 0x800 8).any (·.2) && (isLocal x.addr || (physOf s x.tenant (va57 x.addr + 0x800)).isSome)

/-- Adds a spill record of 64 bytes; the caller has seen that RECS has room. -/
def Area.record (s : State) (x : Area) (ws : List Word) : State :=
  let h := x.hdr s
  let s := x.count s 0x800 8
  let count := (h.extractLsb' 16 4).toNat
  let bs := (ws.flatMap (fun (w : Word) => natBytes 8 w.toNat) ++ List.replicate 64 0).take 64
  x.write (x.write s (0x840 + 64 * count) bs) 0x800 (natBytes 8 (h + 0x10000).toNat)

/-- Signal bits are ORed into SHDR. -/
def Area.signal (s : State) (x : Area) (bits : BitVec 16) : State :=
  x.write (x.count s 0x800 8) 0x800 (natBytes 8 (x.hdr s ||| bits.setWidth 64).toNat)

/-- A KIND 1 record. -/
def messageRecord (src : CoreId) (time : Nat) (pc a1 a2 : Word) : List Word :=
  [BitVec.ofNat 64 (1 + src.toNat * 65536), BitVec.ofNat 64 time, pc, a1, a2]

/-- A KIND 2 record: the reply of a sent instruction. -/
def replyRecord (src : CoreId) (value : Word) : List Word := [BitVec.ofNat 64 (2 + src.toNat * 65536), 0, value]

/-! ## `exit` and `yield` (R200, R203) -/

def exitEff (s : State) : Eff :=
  if s.curCtx = 15 then .trap .priv 0
  else if reportsSettled s then withPinHome s (fun s => .gone (becomeIdle s s.curCore s.curCtx))
  else .hold s

/-- A pass-over that this turn has used is over; that of the `yield` itself is still to come. -/
def yieldEff (s : State) : Eff :=
  let s := s.setMyCore { s.myCore with passed := s.myCore.passed.filter (· != s.curCtx) }
  .done (s.setMe { s.me with wdogCount := 0, passOver := true })

/-- `exit` (R200). -/
def execExit (h : Header) (s : State) : Host.Outcome State Fault Refusal := issue (.exit h) exitEff s

/-- `yield` (R203). -/
def execYield (h : Header) (s : State) : Host.Outcome State Fault Refusal := issue (.yield h) yieldEff s

/-! ## Active messages (R206 to R208) -/

/-- A message names a context that no message starts (R205). -/
def noSuchTarget (target : BitVec 20) : Bool :=
  let n : CtxNum := target.extractLsb' 0 4
  decide (11 ≤ n.toNat) && decide (n.toNat ≤ 14)

/-- The target of a message accepts it: it starts an idle context, becomes a MESSAGE, goes to a spill area, or takes an
entry of the queue of eight. None while there is no room. Contexts 11 to 14 drop it. -/
def acceptMessage (s : State) (target : BitVec 20) (pc a1 a2 : Word) (src : CoreId) (rel : List AcqEntry) : Option State :=
  let core := target.extractLsb' 4 16
  let n : CtxNum := target.extractLsb' 0 4
  let k := s.core core
  let queue : Option State :=
    if k.msgs.length < 8 then
      some (s.setCore core { k with msgs := k.msgs ++ [{ target := n, pc := pc, a1 := a1, a2 := a2, src := src, rel := rel }] })
    else none
  if noSuchTarget target then some (orphan s core)
  else if n = 15 then
    if k.evmask then some (s.setCore core (queueDelivery k (s.cycleAt core) (.message pc a1 a2 rel))) else queue
  else
    let c := s.ctx core n
    if c.run = .idle then some (startCtx s core n pc a1 a2 rel)
    else if c.run = .saved ∧ c.forwarding then
      if (spillArea s core n).full s then none
      else some ((spillArea (s.setCtx core n { c with spillRels := c.spillRels ++ [rel] }) core n).record
        (s.setCtx core n { c with spillRels := c.spillRels ++ [rel] }) (messageRecord src s.time pc a1 a2))
    else queue

/-- A message of one cycle is heard by its key: the sending core's identifier, or 65,536 for a launch record, which comes
last. One whose key is lower than that of a message already taken is not heard before the next cycle (R207). -/
def hearMessage (s : State) (core : CoreId) (key : Nat) : Option State :=
  let k := s.core core
  let now := s.cycleAt core
  if k.msgHeard.1 = now ∧ key < k.msgHeard.2 then none
  else some (s.setCore core { k with msgHeard := (now, key) })

/-- Tells the sender of a message what became of it: the answer crosses back to its die, and is charged after the fact
(R351, R371). -/
def answerSender (s : State) (p : Pkt) (yes : Bool) : State :=
  let s := if p.hasSrc then
      chargeAfter ((crossing s p.dst p.srcDie false).getD s) p.tenant p.srcDie p.dst 0
    else s
  if p.hasSrc && s.handleLive p.owner then
    let c := s.ctx (handleCore p.owner) (handleCtx p.owner)
    if c.pend == .sent p.id then
      s.setCtx (handleCore p.owner) (handleCtx p.owner) { c with pend := if yes then .accepted else .turnedAway }
    else s
  else s

/-- The checks of `amsg`, then its release, its admission and its packet; it is held until the target answers. -/
def amsgEff (k : Option KReg) (c p sn : SReg) (s : State) : Eff :=
  let fin (yes : Bool) : Eff := .done (match k with
    | some kd => wrK s kd yes
    | none => s)
  match s.me.pend with
  | .sent _ => .hold s
  | .accepted => fin true
  | .turnedAway => fin false
  | _ =>
    let t : BitVec 20 := (readS s.me c).setWidth 20
    let pc := readS s.me p
    let core : CoreId := t.extractLsb' 4 16
    if !coreExists core then .trap .illegal 50
    else if pc % 16 ≠ 0 then .trap .align pc
    else if s.tenantOf core ≠ s.myTenant then .trap .tenant (t.setWidth 64)
    else
      let a1 := readS s.me sn
      let a2 := s.me.getS (sn.r + 1)
      withRelease s (withAdmission [24] (coreDie core) (fun s =>
        if !reachable s (coreDie s.curCore) (coreDie core) then
          let s := orphanAtIssuer (releaseMine s).2 s.curCore
          .done (match k with
            | some kd => wrK s kd false
            | none => s)
        else
          let id := s.nextId
          let (tbl, s) := releaseMine s
          let s := sendFrom s s.curCore s.myHandle (coreDie core) (.amsg t pc a1 a2 k.isSome) tbl false
          .hold (s.setMe { s.me with pend := .sent id })))

/-- `amsg` (R206). -/
def execAmsg (h : Header) (c p sn : SReg) (s : State) : Host.Outcome State Fault Refusal :=
  issue (.amsg h c p sn) (amsgEff none c p sn) s

/-- `amsg.try` (R206). -/
def execAmsgTry (h : Header) (k : KReg) (c p sn : SReg) (s : State) : Host.Outcome State Fault Refusal :=
  issue (.amsgTry h k c p sn) (amsgEff (some k) c p sn) s

/-- ACTIVE_MESSAGE_ARRIVAL (R206 to R208): the message named by the pick reaches its core. A try form that finds no room, or
whose message is dropped, is turned away; a plain one waits. A core that another tenant holds by then drops it (R4, R205). -/
def execActiveMessageArrival (s : State) : Host.Outcome State Fault Refusal :=
  match findPkt s s.pick.id with
  | some p =>
    (match p.msg with
     | .amsg t pc a1 a2 once =>
       let core := t.extractLsb' 4 16
       if (crossing s p.dst p.srcDie false).isNone then .next s
       else if s.tenantOf core ≠ p.tenant then .next (answerSender (orphan (dropPkt s p.id) core) p false)
       else match hearMessage s core p.src.toNat with
         | none => .next s
         | some u => match acceptMessage u t pc a1 a2 p.src p.rel with
           | some u => .next (answerSender (dropPkt u p.id) p (!noSuchTarget t))
           | none => if once then .next (answerSender (dropPkt s p.id) p false) else .next (parkPkt s p.id)
     | _ => .next s)
  | none => .next s

/-! ## Signals and `wait` (R205, R209, R210) -/

def sigEff (c : SReg) (b : SCon) (s : State) : Eff :=
  let ch := readS s.me c
  let bits := readSC s.me b
  if ch.extractLsb' 28 36 != 0 then .trap .illegal 50
  else if bits.extractLsb' 16 48 != 0 then .trap .illegal 59
  else
    let hd : BitVec 28 := ch.setWidth 28
    if !coreExists (handleCore hd) || s.tenantOf (handleCore hd) != s.myTenant then .trap .tenant ((hd.setWidth 20).setWidth 64)
    else if bits = 0 then .done s
    else withRelease s (withAdmission [8] (coreDie (handleCore hd)) (fun s =>
      let (tbl, s) := releaseMine s
      .done (sendFrom s s.curCore s.myHandle (coreDie (handleCore hd)) (.signal hd (bits.setWidth 16)) tbl true)))

/-- What a signal's bits hand over is kept with them. -/
def latchTables (c : Ctx) (bits : BitVec 16) (rel : List AcqEntry) : Ctx :=
  let put (m : Sparse (List AcqEntry)) (i : Nat) : Sparse (List AcqEntry) :=
    if bits.getLsbD i then sparseAssign [] m i (rel.foldl acqAdd (sparseGet [] m i)) else m
  { c with evTables := (List.range 16).foldl put c.evTables }

/-- A signal's bits are latched with what they hand over. -/
def latch (c : Ctx) (bits : BitVec 16) (rel : List AcqEntry) : Ctx := { latchTables c bits rel with events := c.events ||| bits }

/-- A signal at its target (R205, R209, R407, R408): what it hands over stays with the bits of a saved context too. One that is
dropped here counts at this core, also when the core that sent it has been fenced since (R205, DEDUCED, log 66). -/
def deliverSignal (s : State) (h : BitVec 28) (bits : BitVec 16) (rel : List AcqEntry) : State :=
  let core := handleCore h
  let n := handleCtx h
  let c := s.ctx core n
  if !s.handleLive h then
    match sparseFind s.away h.toNat with
    | some a => (a.spill h).signal { s with away := sparsePut s.away h.toNat { a with ctx := latchTables a.ctx bits rel } } bits
    | none => orphan s core
  else if c.run == .saved then
    let s := s.setCtx core n (latchTables c bits rel)
    if c.forwarding then (spillArea s core n).signal s bits
    else s.setCtx core n { s.ctx core n with heldSignals := c.heldSignals ||| bits }
  else s.setCtx core n (latch c bits rel)

def waitEff (d : SReg) (m : SCon) (s : State) : Eff :=
  let mask := readSC s.me m
  if mask = 0 ∨ mask.extractLsb' 16 48 ≠ 0 then .trap .illegal 50
  else withReports s (fun s =>
    let c := s.me
    let t := c.events &&& mask.setWidth 16
    if t = 0 then .hold s
    else
      let taken := (List.range 16).filter (fun i => t.getLsbD i)
      let s := taken.foldl (fun s i => acquireInto s s.curCore s.curCtx (sparseGet [] c.evTables i)) s
      let s := s.setMe { s.me with events := c.events &&& ~~~t, evTables := taken.foldl sparseErase c.evTables, wdogCount := 0 }
      .done (wrS s d (t.setWidth 64)))

/-- `sig` (R209). -/
def execSig (h : Header) (c : SReg) (b : SCon) (s : State) : Host.Outcome State Fault Refusal :=
  issue (.sig h c b) (sigEff c b) s

/-- `wait` (R210). -/
def execWait (h : Header) (d : SReg) (m : SCon) (s : State) : Host.Outcome State Fault Refusal :=
  issue (.wait h d m) (waitEff d m) s

/-- SIGNAL_ARRIVAL (R209): the signal named by the pick reaches its target. -/
def execSignalArrival (s : State) : Host.Outcome State Fault Refusal :=
  match findPkt s s.pick.id with
  | some p =>
    (match p.msg with
     | .signal h bits => .next (deliverSignal (dropPkt s p.id) h bits p.rel)
     | _ => .next s)
  | none => .next s

/-! ## Domains (R211 to R213) -/

/-- The fields of `ctl.dom`. -/
def domLevel (d : Word) : Nat := (d.extractLsb' 0 3).toNat
def domFlowing (d : Word) : Bool := d.getLsbD 3
def domX0 (d : Word) : Nat := (d.extractLsb' 4 5).toNat
def domY0 (d : Word) : Nat := (d.extractLsb' 9 5).toNat
def domX1 (d : Word) : Nat := (d.extractLsb' 14 5).toNat
def domY1 (d : Word) : Nat := (d.extractLsb' 19 5).toNat
def domDies (d : Word) : BitVec 8 := d.extractLsb' 24 8
def domBarn (d : Word) : Nat := (d.extractLsb' 32 10).toNat
def domTills (d : Word) : Nat := (d.extractLsb' 42 4).toNat

/-- The lowest bit of the first failing field, from bit 63 down (R213, R442). -/
def domFault (core : CoreId) (d : Word) : Option Nat :=
  let lv := domLevel d
  let rect := 2 ≤ lv
  if d.extractLsb' 46 18 ≠ 0 then some 46
  else if (lv < 3 ∧ domDies d ≠ 0) ∨ (lv = 3 ∧ (domDies d).getLsbD (coreDie core).toNat = false) then some 24
  else if (lv < 2 ∧ domY1 d ≠ 0) ∨ (rect ∧ (19 < domY1 d ∨ domY1 d < domY0 d ∨ domY1 d < coreY core)) then some 19
  else if (lv < 2 ∧ domX1 d ≠ 0) ∨ (rect ∧ (19 < domX1 d ∨ domX1 d < domX0 d ∨ domX1 d < coreX core)) then some 14
  else if (lv < 2 ∧ domY0 d ≠ 0) ∨ (rect ∧ coreY core < domY0 d) then some 9
  else if (lv < 2 ∧ domX0 d ≠ 0) ∨ (rect ∧ coreX core < domX0 d) then some 4
  else if 3 < lv then some 0
  else none

/-- The clusters that a legal value names for a core (R212). -/
def domClusters (core : CoreId) (d : Word) : List ClusterId :=
  let dies : List Die := if domLevel d = 3 then ((List.range 8).filter (domDies d).getLsbD).map (BitVec.ofNat 3) else [coreDie core]
  if domLevel d < 2 then [coreCluster core]
  else dies.flatMap (fun die =>
    (List.range (domX1 d + 1 - domX0 d)).flatMap (fun x =>
      (List.range (domY1 d + 1 - domY0 d)).map (fun y =>
        (die ++ (BitVec.ofNat 5 (domX0 d + x) ++ BitVec.ofNat 5 (domY0 d + y)) : ClusterId))))

/-- The members of a core's domain. -/
def domMembers (core : CoreId) (d : Word) : List CoreId :=
  if domLevel d = 0 then [core]
  else (domClusters core d).flatMap (fun cl => (List.range 8).map (fun n => clusterCore cl (BitVec.ofNat 3 n)))

/-- `dom`: the checks, the hold while an arrival is pending, and the new domain with EP 0 (R213, R349). -/
def setDom (x : Word) (s : State) : Eff :=
  if s.curCtx ≠ 0 then .trap .priv 0
  else match domFault s.curCore x with
    | some b => .trap .illegal (BitVec.ofNat 64 (128 + b))
    | none =>
      if (domClusters s.curCore x).any (fun cl => (s.cluster cl).tenant != s.myTenant) then .trap .tenant 0
      else if s.myCore.arrival then .hold s
      else
        let k := s.myCore
        -- a core that leaves flowing mode leaves its pool and its stage once its helpers are idle (R235)
        let idle := helpers.all (fun n => (k.ctx n).run == .idle)
        .done (s.setMyCore { k with
          dom := x, ep := 0, stage := if !domFlowing x && idle then none else k.stage
          leaving := !domFlowing x && !idle && (domFlowing k.dom || k.leaving) })

/-- `dom` (R213). -/
def execDom (h : Header) (x : SReg) (s : State) : Host.Outcome State Fault Refusal :=
  issue (.dom h x) (fun s => setDom (readS s.me x) s) s

/-! ## Barriers (R214 to R216, R349) -/

def State.barrier (s : State) (d : Die) (n : Nat) : Barrier := sparseGet {} (s.sector d).barriers n
def State.setBarrier (s : State) (d : Die) (n : Nat) (b : Barrier) : State :=
  let k := s.sector d
  s.setSector d { k with barriers := sparsePut k.barriers n b }

/-- An arrival of the issuing core: a release, and a packet to the agent. -/
def arriveNow (x : Bool) (s : State) : State :=
  let k := s.myCore
  let upTo := s.nextId
  let (tbl, s) := releaseMine s
  let s := s.setMyCore { s.myCore with arrival := true, barX := k.barX || x }
  sendFrom s s.curCore s.myHandle (BitVec.ofNat 3 (domHome s.curCore k.dom)) (.arrival s.curCore k.dom upTo) tbl true

/-- What the arrival of a core waits for: as a release does, but while its exchange phase lasts what has been refused or reported
is deferred until the release of the closing `bar`, and holds nothing here (R217, R326, DEDUCED, log 68). -/
def withArrival (s : State) (k : State → Eff) : Eff :=
  if s.myCore.exch.isNone then withRelease s k
  else if journalBusy s.myCore s.curCtx s.me.inc || crossPending s s.myHandle then .hold s else k s

/-- `bar` and `bar.x`: an arrival if none is pending, then the wait, with DLY counted from the issue (R57). A report that is
owed is taken before (R347). In an exchange phase no hold applies: the arrival is made in the issue cycle, and its purse is
charged at once (R218, log 68). -/
def barEff (h : Header) (x : Bool) (s : State) : Eff :=
  let waits (s : State) : Eff :=
    .hold (s.setMe { s.me with pend := .arrived (inPhase s.myCore 0), nextIssue := s.now + 1 + h.dly.toNat })
  if s.curCtx ≠ 0 then .trap .priv 0
  else if s.myCore.arrival then (if s.myCore.exch.isNone then withReports s else (· s)) (fun s => waits (s.setMyCore { s.myCore with barX := s.myCore.barX || x }))
  else if inPhase s.myCore 0 then
    waits (arriveNow x (chargeAfter s s.myTenant (coreDie s.curCore) (BitVec.ofNat 3 (domHome s.curCore s.myCore.dom)) 8))
  else withArrival s (withAdmission [8] (BitVec.ofNat 3 (domHome s.curCore s.myCore.dom)) (fun s => waits (arriveNow x s)))

def arriveEff (s : State) : Eff :=
  if s.curCtx ≠ 0 then .trap .priv 0
  else if s.myCore.arrival then .hold s
  else withArrival s (withAdmission [8] (BitVec.ofNat 3 (domHome s.curCore s.myCore.dom)) (fun s => .done (arriveNow false s)))

/-- A released `bar` retires without a slot of its own: the next instruction issues in the release cycle (R216). YLD of its
header acts as on any instruction (R57, R203). -/
def barRetire (h : Header) (phase : Bool) (s : State) : State :=
  let c := s.me
  let yields := h.yld && !phase
  let c := if phase || c.wdogCount = BitVec.allOnes 41 then c else { c with wdogCount := c.wdogCount + 1 }
  s.setMe { c with pc := c.pc + 16, pend := .none, sent := false, wdogCount := if yields then 0 else c.wdogCount
                   passOver := c.passOver || yields }

/-- A `bar` that has arrived only waits; any other one issues. -/
def barTurn (h : Header) (go : State → Host.Outcome State Fault Refusal) (s : State) : Host.Outcome State Fault Refusal :=
  match s.me.pend with
  | .released p => .next (barRetire h p s)
  | .arrived _ => .next (holdMe s)
  | _ => go s

/-- `bar` (R215). -/
def execBar (h : Header) (s : State) : Host.Outcome State Fault Refusal := barTurn h (issue (.bar h) (barEff h false)) s

/-- `bar.x` (R215). -/
def execBarX (h : Header) (s : State) : Host.Outcome State Fault Refusal := barTurn h (issue (.barX h) (barEff h true)) s

/-- `arrive` (R215). -/
def execArrive (h : Header) (s : State) : Host.Outcome State Fault Refusal := issue (.arrive h) arriveEff s

/-- Two arrivals of one domain: equal values and equal member sets (R214). -/
def sameDomain (a b : Arrival) : Bool :=
  a.dom == b.dom && (match domLevel a.dom with
    | 0 => a.core == b.core
    | 1 => coreCluster a.core == coreCluster b.core
    | 2 => coreDie a.core == coreDie b.core
    | _ => true)

/-- An arrival joins the episode, begins one, or is held behind the episode of another domain. -/
def placeArrival (b : Barrier) (a : Arrival) : Barrier :=
  match b.arrivals with
  | [] => { b with arrivals := [a] }
  | x :: _ => if sameDomain x a then { b with arrivals := b.arrivals ++ [a] } else { b with held := b.held ++ [a] }

/-- BARRIER_ARRIVAL (R214): the arrival named by the pick reaches its agent. -/
def execBarrierArrival (s : State) : Host.Outcome State Fault Refusal :=
  match findPkt s s.pick.id with
  | some p =>
    (match p.msg with
     | .arrival core dom upTo =>
       let b := s.barrier p.dst (domBarn dom)
       .next ((dropPkt s p.id).setBarrier p.dst (domBarn dom)
         (placeArrival b { core := core, who := p.owner, dom := dom, upTo := upTo, rel := p.rel }))
     | _ => .next s)
  | none => .next s

/-- Every `send` of a member before its arrival to a ring of a member has been delivered (R214). -/
def sendsFilled (s : State) (as : List Arrival) : Bool :=
  s.net.all (fun p => match p.msg with
    | .delivery t _ _ => !(p.hasSrc && as.any (fun a => a.core == p.src && decide (p.id < a.upTo)) && as.any (fun a => a.core == t))
    | _ => true)

/-- The till releases of a tenant that have been counted (R4, R214). -/
def Barrier.tillsOf (b : Barrier) (t : Tenant) : List AcqEntry := (b.tillActs.filter (fun e => e.1 == t)).map (·.2)

/-- The conditions of R214. -/
def episodeDone (s : State) (b : Barrier) : Bool :=
  match b.arrivals with
  | [] => false
  | a :: _ =>
    (domMembers a.core a.dom).all (fun c => b.arrivals.any (fun x => x.core == c))
      && decide (domTills a.dom ≤ (b.tillsOf (s.tenantOf a.core)).length) && (domFlowing a.dom || sendsFilled s b.arrivals)

/-- The release of one member: EP rises, its control context acquires, and a `bar` goes on in the next cycle of the
die, where context 0 comes first in a phased domain; an exchange phase ends, and with `bar.x` another begins, in that cycle
(R216, R217, R349). The release
crosses to the member's die, and is charged after the fact (R351, R371). -/
def releaseMember (d : Die) (s : State) (a : Arrival) (tbl : List AcqEntry) : State :=
  let s := chargeAfter ((crossing s d (coreDie a.core) true).getD s) (s.tenantOf a.core) (coreDie a.core) d 0
  let k := s.core a.core
  let at_ := s.cycleAt a.core + 1
  let c := k.ctx 0
  let c := match c.pend with
    | .arrived p => { c with pend := .released p, nextIssue := max at_ c.nextIssue }
    | _ => c
  let k := { (k.setCtx 0 c) with
    ep := k.ep + 1, arrival := false, barX := false
    exchNext := some (if k.barX then some at_ else none)
    barFirst := if domFlowing a.dom then none else some at_ }
  let s := s.setCore a.core k
  if s.handle a.core 0 == a.who && c.run != .idle then acquireInto s a.core 0 tbl else s

/-- The releases of an episode can be delivered to every member's die. -/
def releasesGo (s : State) (d : Die) (b : Barrier) : Bool := b.arrivals.all (fun a => (crossing s d (coreDie a.core) true).isSome)

/-- BARRIER_EPISODE_COMPLETE (R214, R216, R349): the agent of the sector and number in the pick releases its members;
held arrivals begin the next episode. Every till release of the tenant that has been counted belongs to this episode, those beyond
TILLS too (R214, R346). -/
def execBarrierEpisodeComplete (s : State) : Host.Outcome State Fault Refusal :=
  let d := s.pick.die
  let b := s.barrier d s.pick.num
  if episodeDone s b && releasesGo s d b then
    match b.arrivals with
    | [] => .next s
    | a :: _ =>
      let t := s.tenantOf a.core
      let tbl := (b.arrivals.flatMap (·.rel) ++ b.tillsOf t).foldl acqAdd []
      let next := b.held.foldl placeArrival { tillActs := b.tillActs.filter (fun e => e.1 != t) }
      .next (b.arrivals.foldl (fun s a => releaseMember d s a tbl) (s.setBarrier d s.pick.num next))
  else .next s

/-! ## The piste (R28, R219, R220) -/

def dist (a b : Nat) : Nat := (a - b) + (b - a)

/-- A word is driven onto a channel of the die for this cycle. Words that stand nowhere any more are forgotten. -/
def xsendEff (a : VSrc) (ch : SCon) : State → Eff :=
  withV1 a (fun s x =>
    let c := (readSC s.me ch).toNat
    if 63 < c then .trap .illegal 59
    else
      let d := s.die (coreDie s.curCore)
      let live := d.piste.filter (fun w => decide (d.cycle ≤ w.cycle + 41))
      .done (s.setDie (coreDie s.curCore) { d with
        piste := live ++ [{ ch := c, val := x, x := coreX s.curCore, y := coreY s.curCore, cycle := d.cycle }] }))

/-- What stands on a channel at a cluster: the OR of the words, with their common tag. Words from every core of the die are heard,
those of another tenant too (R220; R4 does not speak of the piste, DESIGN CHOICE, log 60). -/
def pisteAt (d : DieState) (ch x y : Nat) : VVal :=
  match d.piste.filter (fun w => w.ch == ch && w.cycle + 3 + dist w.x x + dist w.y y == d.cycle) with
  | [] => {}
  | w :: ws =>
    { bits := ws.foldl (fun b v => b ||| v.val.bits) w.val.bits
      tag := if ws.all (fun v => v.val.tag == w.val.tag) then w.val.tag else .b128 }

def xselEff (d : VReg) (ch : SCon) (s : State) : Eff :=
  let c := (readSC s.me ch).toNat
  if 63 < c then .trap .illegal 50
  else .done (wrV s d (pisteAt (s.die (coreDie s.curCore)) c (coreX s.curCore) (coreY s.curCore)))

/-- `xsend` (R219). -/
def execXsend (h : Header) (a : VSrc) (ch : SCon) (s : State) : Host.Outcome State Fault Refusal :=
  issue (.xsend h a ch) (xsendEff a ch) s

/-- `xsel` (R220). -/
def execXsel (h : Header) (d : VReg) (ch : SCon) (s : State) : Host.Outcome State Fault Refusal :=
  issue (.xsel h d ch) (xselEff d ch) s

end Sys2Proof.Machine
end

