-- ==== Sys2Proof/Machine/Float.lean ====
section
/-! DEFINITION. Scalar floating point in FP32 and FP64, and the conversions of `fcvt` (R126 to R132). -/

namespace Sys2Proof.Machine

/-- FP64 when AUX bit 0 is 1, else FP32 (R126). -/
def fmtOf (d : Bool) : Ieee := if d then fmtFP64 else fmtFP32

/-- An operand of the format: FP32 is read from bits 31:0 (R108). -/
def readF (d : Bool) (s : State) (a : SReg) : Num := decodeIeee (fmtOf d) ((readS s.me a).toNat % 2 ^ (if d then 64 else 32))

/-- Rounds an exact result once and writes it zero-extended with its flags (R102, R108, R126). -/
def wrF (s : State) (r : SReg) (d : Bool) (x : Num × BitVec 7) : State :=
  let y := putIeee (fmtOf d) x.1
  wrSF s r (BitVec.ofNat 64 y.1) (x.2 ||| y.2)

def fop2 (f : Num → Num → Num × BitVec 7) (r a b : SReg) (d : Bool) (s : State) : Eff :=
  .done (wrF s r d (f (readF d s a) (readF d s b)))

def fop3 (np na : Bool) (r a b c : SReg) (d : Bool) (s : State) : Eff :=
  .done (wrF s r d (numFma np na (readF d s a) (readF d s b) (readF d s c)))

def fcmpEff (c : FCmp) (kt kf : KReg) (a b : SReg) (d : Bool) (s : State) : Eff :=
  let x := fcmpOutcome c (readF d s a) (readF d s b)
  .done (mergeFlags (wrOutcome s kt kf x.1) x.2)

/-- `fadd` (R127). -/
def execFadd (h : Header) (r a b : SReg) (d : Bool) (s : State) : Host.Outcome State Fault Refusal :=
  issue (.fadd h r a b d) (fop2 numAdd r a b d) s

/-- `fsub` (R127). -/
def execFsub (h : Header) (r a b : SReg) (d : Bool) (s : State) : Host.Outcome State Fault Refusal :=
  issue (.fsub h r a b d) (fop2 numSub r a b d) s

/-- `fmul` (R127). -/
def execFmul (h : Header) (r a b : SReg) (d : Bool) (s : State) : Host.Outcome State Fault Refusal :=
  issue (.fmul h r a b d) (fop2 numMul r a b d) s

/-- `fdiv` (R127). -/
def execFdiv (h : Header) (r a b : SReg) (d : Bool) (s : State) : Host.Outcome State Fault Refusal :=
  issue (.fdiv h r a b d) (fop2 numDiv r a b d) s

/-- `fmin` (R129). -/
def execFmin (h : Header) (r a b : SReg) (d : Bool) (s : State) : Host.Outcome State Fault Refusal :=
  issue (.fmin h r a b d) (fop2 (numMinMax false) r a b d) s

/-- `fmax` (R129). -/
def execFmax (h : Header) (r a b : SReg) (d : Bool) (s : State) : Host.Outcome State Fault Refusal :=
  issue (.fmax h r a b d) (fop2 (numMinMax true) r a b d) s

/-- `fsqrt` (R127). -/
def execFsqrt (h : Header) (r a : SReg) (d : Bool) (s : State) : Host.Outcome State Fault Refusal :=
  issue (.fsqrt h r a d) (fun s => .done (wrF s r d (numSqrt (readF d s a)))) s

/-- `fma` (R128). -/
def execFma (h : Header) (r a b c : SReg) (d : Bool) (s : State) : Host.Outcome State Fault Refusal :=
  issue (.fma h r a b c d) (fop3 false false r a b c d) s

/-- `fms` (R128). -/
def execFms (h : Header) (r a b c : SReg) (d : Bool) (s : State) : Host.Outcome State Fault Refusal :=
  issue (.fms h r a b c d) (fop3 false true r a b c d) s

/-- `fnma` (R128). -/
def execFnma (h : Header) (r a b c : SReg) (d : Bool) (s : State) : Host.Outcome State Fault Refusal :=
  issue (.fnma h r a b c d) (fop3 true false r a b c d) s

/-- `fcmp.eq` (R130). -/
def execFcmpEq (h : Header) (kt kf : KReg) (a b : SReg) (d : Bool) (s : State) : Host.Outcome State Fault Refusal :=
  issue (.fcmpEq h kt kf a b d) (fcmpEff .eq kt kf a b d) s

/-- `fcmp.ne` (R130). -/
def execFcmpNe (h : Header) (kt kf : KReg) (a b : SReg) (d : Bool) (s : State) : Host.Outcome State Fault Refusal :=
  issue (.fcmpNe h kt kf a b d) (fcmpEff .ne kt kf a b d) s

/-- `fcmp.lt` (R130). -/
def execFcmpLt (h : Header) (kt kf : KReg) (a b : SReg) (d : Bool) (s : State) : Host.Outcome State Fault Refusal :=
  issue (.fcmpLt h kt kf a b d) (fcmpEff .lt kt kf a b d) s

/-- `fcmp.ge` (R130). -/
def execFcmpGe (h : Header) (kt kf : KReg) (a b : SReg) (d : Bool) (s : State) : Host.Outcome State Fault Refusal :=
  issue (.fcmpGe h kt kf a b d) (fcmpEff .ge kt kf a b d) s

/-- `fcmp.un` (R130). -/
def execFcmpUn (h : Header) (kt kf : KReg) (a b : SReg) (d : Bool) (s : State) : Host.Outcome State Fault Refusal :=
  issue (.fcmpUn h kt kf a b d) (fcmpEff .un kt kf a b d) s

/-! ## Conversion (R131) -/

/-- Bits of a kind read from S1. -/
def kindWidth : FKind → Nat
  | .i32 | .ui32 | .fp32 => 32
  | .i64 | .ui64 | .fp64 => 64
  | .bf16 | .fp16 => 16

/-- The value of a source of a kind. -/
def kindValue (k : FKind) (x : Word) : Num :=
  let b := x.toNat % 2 ^ kindWidth k
  match k with
  | .i32 | .i64 => numOfInt (signedOf (kindWidth k) b) 0
  | .ui32 | .ui64 => numOfInt b 0
  | .fp32 => decodeIeee fmtFP32 b
  | .fp64 => decodeIeee fmtFP64 b
  | .bf16 => decodeIeee fmtBF16 b
  | .fp16 => decodeIeee fmtFP16 b

/-- The integer range of a kind. -/
def kindLo : FKind → Int
  | .i32 => -2 ^ 31
  | .i64 => -2 ^ 63
  | _ => 0

def kindHi : FKind → Int
  | .i32 => 2 ^ 31 - 1
  | .i64 => 2 ^ 63 - 1
  | .ui32 => 2 ^ 32 - 1
  | _ => 2 ^ 64 - 1

/-- The nearer end when a value lies outside the range; `i32` is written sign-extended. -/
def toIntKind (k : FKind) (r : Rnd) (x : Num) : Word × BitVec 7 :=
  match x with
  | .fin n m e =>
    let (y, inexact) := roundInt r n m e
    let z := if y < kindLo k then kindLo k else if kindHi k < y then kindHi k else y
    (BitVec.ofInt 64 z, if z ≠ y then flagSAT ||| flagNX else if inexact then flagNX else 0)
  | .inf n => (BitVec.ofInt 64 (if n then kindLo k else kindHi k), flagSAT)
  | .nan _ | .nar => (0, flagNV)

/-- A floating destination: rounded to nearest, ties to even; a signalling NaN is invalid (R100). -/
def toFloatKind (f : Ieee) (x : Num) : Word × BitVec 7 :=
  let y := putIeee f x
  (BitVec.ofNat 64 y.1, y.2 ||| sigFlags [x])

/-- The conversion of R131. -/
def convertKind (dst : FKind) (rnd : Rnd) (x : Num) : Word × BitVec 7 :=
  match dst with
  | .i32 | .i64 | .ui32 | .ui64 => toIntKind dst rnd x
  | .fp32 => toFloatKind fmtFP32 x
  | .fp64 => toFloatKind fmtFP64 x
  | .bf16 => toFloatKind fmtBF16 x
  | .fp16 => toFloatKind fmtFP16 x

/-- `fcvt` (R131). -/
def execFcvt (h : Header) (r a : SReg) (src dst : FKind) (rnd : Rnd) (s : State) : Host.Outcome State Fault Refusal :=
  issue (.fcvt h r a src dst rnd) (fun s => .done (let y := convertKind dst rnd (kindValue src (readS s.me a)); wrSF s r y.1 y.2)) s

/-- The class bit of a value of a format (R132). -/
def classBit (f : Ieee) : Num → Nat
  | .nan s => if s then 8 else 9
  | .nar => 9
  | .inf n => if n then 0 else 7
  | .fin n m e =>
    if m = 0 then (if n then 3 else 4)
    else if (bitLen m : Int) - 1 + e < 1 - f.bias then (if n then 2 else 5)
    else if n then 1 else 6

/-- `fclass` (R132). -/
def execFclass (h : Header) (r a : SReg) (d : Bool) (s : State) : Host.Outcome State Fault Refusal :=
  issue (.fclass h r a d) (fun s => .done (wrS s r (BitVec.ofNat 64 (2 ^ classBit (fmtOf d) (readF d s a))))) s

end Sys2Proof.Machine
end

