-- ==== Sys2Proof/Machine/Scalar.lean ====
section
/-! DEFINITION. The scalar unit: integer arithmetic and logic, division, bit fields, comparison, selection, moves and
addresses (R108 to R125). -/

namespace Sys2Proof.Machine

/-! ## Integer arithmetic and logic (R110, R111) -/

def aluShl (a b : Word) : Word := a <<< (b.toNat % 64)
def aluShr (a b : Word) : Word := a >>> (b.toNat % 64)
def aluSra (a b : Word) : Word := a.sshiftRight (b.toNat % 64)
def aluRol (a b : Word) : Word := a.rotateLeft (b.toNat % 64)
def aluMin (a b : Word) : Word := if a.slt b then a else b
def aluMax (a b : Word) : Word := if a.slt b then b else a
def aluMinu (a b : Word) : Word := if a.ult b then a else b
def aluMaxu (a b : Word) : Word := if a.ult b then b else a
def aluAndn (a b : Word) : Word := a &&& ~~~b

/-- The high 64 bits of the signed product (R111). -/
def aluMulh (a b : Word) : Word := BitVec.ofInt 64 (a.toInt * b.toInt / 2 ^ 64)

/-- The high 64 bits of the unsigned product (R111). -/
def aluMulhu (a b : Word) : Word := BitVec.ofNat 64 (a.toNat * b.toNat / 2 ^ 64)

/-- A result of two sources into an s register. -/
def alu2 (f : Word → Word → Word) (d : SReg) (a b : SCon) (s : State) : Eff :=
  .done (wrS s d (f (readSC s.me a) (readSC s.me b)))

/-- A result of a source and an immediate into an s register. -/
def alu2i (f : Word → Word → Word) (d : SReg) (a : SCon) (imm : Word) (s : State) : Eff :=
  .done (wrS s d (f (readSC s.me a) imm))

/-- `add` (R110). -/
def execAdd (h : Header) (d : SReg) (a b : SCon) (s : State) : Host.Outcome State Fault Refusal :=
  issue (.add h d a b) (alu2 (· + ·) d a b) s

/-- `sub` (R110). -/
def execSub (h : Header) (d : SReg) (a b : SCon) (s : State) : Host.Outcome State Fault Refusal :=
  issue (.sub h d a b) (alu2 (· - ·) d a b) s

/-- `and` (R110). -/
def execAnd (h : Header) (d : SReg) (a b : SCon) (s : State) : Host.Outcome State Fault Refusal :=
  issue (.and h d a b) (alu2 (· &&& ·) d a b) s

/-- `or` (R110). -/
def execOr (h : Header) (d : SReg) (a b : SCon) (s : State) : Host.Outcome State Fault Refusal :=
  issue (.or h d a b) (alu2 (· ||| ·) d a b) s

/-- `xor` (R110). -/
def execXor (h : Header) (d : SReg) (a b : SCon) (s : State) : Host.Outcome State Fault Refusal :=
  issue (.xor h d a b) (alu2 (· ^^^ ·) d a b) s

/-- `andn` (R110). -/
def execAndn (h : Header) (d : SReg) (a b : SCon) (s : State) : Host.Outcome State Fault Refusal :=
  issue (.andn h d a b) (alu2 aluAndn d a b) s

/-- `shl` (R110). -/
def execShl (h : Header) (d : SReg) (a b : SCon) (s : State) : Host.Outcome State Fault Refusal :=
  issue (.shl h d a b) (alu2 aluShl d a b) s

/-- `shr` (R110). -/
def execShr (h : Header) (d : SReg) (a b : SCon) (s : State) : Host.Outcome State Fault Refusal :=
  issue (.shr h d a b) (alu2 aluShr d a b) s

/-- `sra` (R110). -/
def execSra (h : Header) (d : SReg) (a b : SCon) (s : State) : Host.Outcome State Fault Refusal :=
  issue (.sra h d a b) (alu2 aluSra d a b) s

/-- `rol` (R110). -/
def execRol (h : Header) (d : SReg) (a b : SCon) (s : State) : Host.Outcome State Fault Refusal :=
  issue (.rol h d a b) (alu2 aluRol d a b) s

/-- `min` (R110). -/
def execMin (h : Header) (d : SReg) (a b : SCon) (s : State) : Host.Outcome State Fault Refusal :=
  issue (.min h d a b) (alu2 aluMin d a b) s

/-- `max` (R110). -/
def execMax (h : Header) (d : SReg) (a b : SCon) (s : State) : Host.Outcome State Fault Refusal :=
  issue (.max h d a b) (alu2 aluMax d a b) s

/-- `minu` (R110). -/
def execMinu (h : Header) (d : SReg) (a b : SCon) (s : State) : Host.Outcome State Fault Refusal :=
  issue (.minu h d a b) (alu2 aluMinu d a b) s

/-- `maxu` (R110). -/
def execMaxu (h : Header) (d : SReg) (a b : SCon) (s : State) : Host.Outcome State Fault Refusal :=
  issue (.maxu h d a b) (alu2 aluMaxu d a b) s

/-- `add` with an immediate (R110). -/
def execAddImm (h : Header) (d : SReg) (a : SCon) (imm : Word) (s : State) : Host.Outcome State Fault Refusal :=
  issue (.addImm h d a imm) (alu2i (· + ·) d a imm) s

/-- `sub` with an immediate (R110). -/
def execSubImm (h : Header) (d : SReg) (a : SCon) (imm : Word) (s : State) : Host.Outcome State Fault Refusal :=
  issue (.subImm h d a imm) (alu2i (· - ·) d a imm) s

/-- `and` with an immediate (R110). -/
def execAndImm (h : Header) (d : SReg) (a : SCon) (imm : Word) (s : State) : Host.Outcome State Fault Refusal :=
  issue (.andImm h d a imm) (alu2i (· &&& ·) d a imm) s

/-- `or` with an immediate (R110). -/
def execOrImm (h : Header) (d : SReg) (a : SCon) (imm : Word) (s : State) : Host.Outcome State Fault Refusal :=
  issue (.orImm h d a imm) (alu2i (· ||| ·) d a imm) s

/-- `xor` with an immediate (R110). -/
def execXorImm (h : Header) (d : SReg) (a : SCon) (imm : Word) (s : State) : Host.Outcome State Fault Refusal :=
  issue (.xorImm h d a imm) (alu2i (· ^^^ ·) d a imm) s

/-- `andn` with an immediate (R110). -/
def execAndnImm (h : Header) (d : SReg) (a : SCon) (imm : Word) (s : State) : Host.Outcome State Fault Refusal :=
  issue (.andnImm h d a imm) (alu2i aluAndn d a imm) s

/-- `shl` with an immediate (R110). -/
def execShlImm (h : Header) (d : SReg) (a : SCon) (imm : Word) (s : State) : Host.Outcome State Fault Refusal :=
  issue (.shlImm h d a imm) (alu2i aluShl d a imm) s

/-- `shr` with an immediate (R110). -/
def execShrImm (h : Header) (d : SReg) (a : SCon) (imm : Word) (s : State) : Host.Outcome State Fault Refusal :=
  issue (.shrImm h d a imm) (alu2i aluShr d a imm) s

/-- `sra` with an immediate (R110). -/
def execSraImm (h : Header) (d : SReg) (a : SCon) (imm : Word) (s : State) : Host.Outcome State Fault Refusal :=
  issue (.sraImm h d a imm) (alu2i aluSra d a imm) s

/-- `rol` with an immediate (R110). -/
def execRolImm (h : Header) (d : SReg) (a : SCon) (imm : Word) (s : State) : Host.Outcome State Fault Refusal :=
  issue (.rolImm h d a imm) (alu2i aluRol d a imm) s

/-- `min` with an immediate (R110). -/
def execMinImm (h : Header) (d : SReg) (a : SCon) (imm : Word) (s : State) : Host.Outcome State Fault Refusal :=
  issue (.minImm h d a imm) (alu2i aluMin d a imm) s

/-- `max` with an immediate (R110). -/
def execMaxImm (h : Header) (d : SReg) (a : SCon) (imm : Word) (s : State) : Host.Outcome State Fault Refusal :=
  issue (.maxImm h d a imm) (alu2i aluMax d a imm) s

/-- `minu` with an immediate (R110). -/
def execMinuImm (h : Header) (d : SReg) (a : SCon) (imm : Word) (s : State) : Host.Outcome State Fault Refusal :=
  issue (.minuImm h d a imm) (alu2i aluMinu d a imm) s

/-- `maxu` with an immediate (R110). -/
def execMaxuImm (h : Header) (d : SReg) (a : SCon) (imm : Word) (s : State) : Host.Outcome State Fault Refusal :=
  issue (.maxuImm h d a imm) (alu2i aluMaxu d a imm) s

/-- `mul` (R111). -/
def execMul (h : Header) (d : SReg) (a b : SCon) (s : State) : Host.Outcome State Fault Refusal :=
  issue (.mul h d a b) (alu2 (· * ·) d a b) s

/-- `mulh` (R111). -/
def execMulh (h : Header) (d : SReg) (a b : SCon) (s : State) : Host.Outcome State Fault Refusal :=
  issue (.mulh h d a b) (alu2 aluMulh d a b) s

/-- `mulhu` (R111). -/
def execMulhu (h : Header) (d : SReg) (a b : SCon) (s : State) : Host.Outcome State Fault Refusal :=
  issue (.mulhu h d a b) (alu2 aluMulhu d a b) s

/-! ## Division (R112) -/

/-- Quotient and remainder of R112, for a divisor that is not zero. -/
def divmod (signed : Bool) (a b : Word) : Word × Word :=
  if signed then (BitVec.ofInt 64 (a.toInt.tdiv b.toInt), BitVec.ofInt 64 (a.toInt.tmod b.toInt))
  else (a / b, a % b)

/-- The magnitude of the quotient that R112 forms; 0 when the divisor is 0 (R109). -/
def quotientMag (signed : Bool) (a b : Word) : Nat :=
  if b = 0 then 0 else if signed then (a.toInt.tdiv b.toInt).natAbs else a.toNat / b.toNat

/-- The latency of a division: 6 + ⌈w / 2⌉ (R109). -/
def divLatency (signed : Bool) (a b : Word) : Nat := 6 + (bitLen (quotientMag signed a b) + 1) / 2

/-- The division of R112. -/
def divide (signed quotient : Bool) (d : SReg) (a b : SCon) (s : State) : Eff :=
  let x := readSC s.me a
  let y := readSC s.me b
  if y = 0 then
    if s.me.dzt then .trap .divzero 0
    else .done (mergeFlags (wrS s d (if quotient then BitVec.allOnes 64 else x)) flagDZ)
  else
    let r := divmod signed x y
    .done (wrS s d (if quotient then r.1 else r.2))

/-- `div` (R112). -/
def execDiv (h : Header) (d : SReg) (a b : SCon) (s : State) : Host.Outcome State Fault Refusal :=
  issueLat (.div h d a b) (fun t => divLatency true (readSC t.me a) (readSC t.me b)) (divide true true d a b) s

/-- `divu` (R112). -/
def execDivu (h : Header) (d : SReg) (a b : SCon) (s : State) : Host.Outcome State Fault Refusal :=
  issueLat (.divu h d a b) (fun t => divLatency false (readSC t.me a) (readSC t.me b)) (divide false true d a b) s

/-- `rem` (R112). -/
def execRem (h : Header) (d : SReg) (a b : SCon) (s : State) : Host.Outcome State Fault Refusal :=
  issueLat (.rem h d a b) (fun t => divLatency true (readSC t.me a) (readSC t.me b)) (divide true false d a b) s

/-- `remu` (R112). -/
def execRemu (h : Header) (d : SReg) (a b : SCon) (s : State) : Host.Outcome State Fault Refusal :=
  issueLat (.remu h d a b) (fun t => divLatency false (readSC t.me a) (readSC t.me b)) (divide false false d a b) s

/-! ## Bit fields (R113 to R115) -/

def bitClz (a : Word) : Word := BitVec.ofNat 64 (64 - bitLen a.toNat)
def bitCtz (a : Word) : Word := BitVec.ofNat 64 (((List.range 64).takeWhile (fun i => !a.getLsbD i)).length)
def bitPopc (a : Word) : Word := BitVec.ofNat 64 (((List.range 64).filter (fun i => a.getLsbD i)).length)

/-- The width n = w[5:0], where 0 means 64 (R114). -/
def extWidth (w : Word) : Nat := if w.toNat % 64 = 0 then 64 else w.toNat % 64

def bitSext (a w : Word) : Word := (a.setWidth (extWidth w)).signExtend 64
def bitZext (a w : Word) : Word := (a.setWidth (extWidth w)).setWidth 64

/-- `2^len − 1` in 64 bits. -/
def lowMask (len : Nat) : Word := BitVec.ofNat 64 (2 ^ len - 1)

def bitBext (len : Nat) (a p : Word) : Word := (a >>> (p.toNat % 64)) &&& lowMask len

def bitBins (len : Nat) (a f p : Word) : Word :=
  (a &&& ~~~(lowMask len <<< (p.toNat % 64))) ||| ((f &&& lowMask len) <<< (p.toNat % 64))

/-- `clz` (R113). -/
def execClz (h : Header) (d : SReg) (a : SCon) (s : State) : Host.Outcome State Fault Refusal :=
  issue (.clz h d a) (fun s => .done (wrS s d (bitClz (readSC s.me a)))) s

/-- `ctz` (R113). -/
def execCtz (h : Header) (d : SReg) (a : SCon) (s : State) : Host.Outcome State Fault Refusal :=
  issue (.ctz h d a) (fun s => .done (wrS s d (bitCtz (readSC s.me a)))) s

/-- `popc` (R113). -/
def execPopc (h : Header) (d : SReg) (a : SCon) (s : State) : Host.Outcome State Fault Refusal :=
  issue (.popc h d a) (fun s => .done (wrS s d (bitPopc (readSC s.me a)))) s

/-- `sext` (R114). -/
def execSext (h : Header) (d : SReg) (a w : SCon) (s : State) : Host.Outcome State Fault Refusal :=
  issue (.sext h d a w) (alu2 bitSext d a w) s

/-- `zext` (R114). -/
def execZext (h : Header) (d : SReg) (a w : SCon) (s : State) : Host.Outcome State Fault Refusal :=
  issue (.zext h d a w) (alu2 bitZext d a w) s

/-- `bext` (R115). -/
def execBext (h : Header) (d : SReg) (a p : SCon) (len : BitVec 7) (s : State) : Host.Outcome State Fault Refusal :=
  issue (.bext h d a p len) (alu2 (bitBext len.toNat) d a p) s

/-- `bins` (R115). -/
def execBins (h : Header) (d : SReg) (a f p : SCon) (len : BitVec 7) (s : State) : Host.Outcome State Fault Refusal :=
  issue (.bins h d a f p len) (fun s => .done (wrS s d (bitBins len.toNat (readSC s.me a) (readSC s.me f) (readSC s.me p)))) s

/-! ## Comparison, selection and predicates (R116 to R118) -/

/-- `cmp.eq` (R116). -/
def execCmpEq (h : Header) (kt kf : KReg) (a b : SCon) (s : State) : Host.Outcome State Fault Refusal :=
  issue (.cmpEq h kt kf a b) (fun s => .done (wrOutcome s kt kf ((· == ·) (readSC s.me a) (readSC s.me b)))) s

/-- `cmp.ne` (R116). -/
def execCmpNe (h : Header) (kt kf : KReg) (a b : SCon) (s : State) : Host.Outcome State Fault Refusal :=
  issue (.cmpNe h kt kf a b) (fun s => .done (wrOutcome s kt kf ((· != ·) (readSC s.me a) (readSC s.me b)))) s

/-- `cmp.lt` (R116). -/
def execCmpLt (h : Header) (kt kf : KReg) (a b : SCon) (s : State) : Host.Outcome State Fault Refusal :=
  issue (.cmpLt h kt kf a b) (fun s => .done (wrOutcome s kt kf (BitVec.slt (readSC s.me a) (readSC s.me b)))) s

/-- `cmp.ge` (R116). -/
def execCmpGe (h : Header) (kt kf : KReg) (a b : SCon) (s : State) : Host.Outcome State Fault Refusal :=
  issue (.cmpGe h kt kf a b) (fun s => .done (wrOutcome s kt kf ((fun a b => !a.slt b) (readSC s.me a) (readSC s.me b)))) s

/-- `cmp.ltu` (R116). -/
def execCmpLtu (h : Header) (kt kf : KReg) (a b : SCon) (s : State) : Host.Outcome State Fault Refusal :=
  issue (.cmpLtu h kt kf a b) (fun s => .done (wrOutcome s kt kf (BitVec.ult (readSC s.me a) (readSC s.me b)))) s

/-- `cmp.geu` (R116). -/
def execCmpGeu (h : Header) (kt kf : KReg) (a b : SCon) (s : State) : Host.Outcome State Fault Refusal :=
  issue (.cmpGeu h kt kf a b) (fun s => .done (wrOutcome s kt kf ((fun a b => !a.ult b) (readSC s.me a) (readSC s.me b)))) s

/-- `cmp.eq` with an immediate (R116). -/
def execCmpEqImm (h : Header) (kt kf : KReg) (a : SCon) (imm : Word) (s : State) : Host.Outcome State Fault Refusal :=
  issue (.cmpEqImm h kt kf a imm) (fun s => .done (wrOutcome s kt kf ((· == ·) (readSC s.me a) imm))) s

/-- `cmp.ne` with an immediate (R116). -/
def execCmpNeImm (h : Header) (kt kf : KReg) (a : SCon) (imm : Word) (s : State) : Host.Outcome State Fault Refusal :=
  issue (.cmpNeImm h kt kf a imm) (fun s => .done (wrOutcome s kt kf ((· != ·) (readSC s.me a) imm))) s

/-- `cmp.lt` with an immediate (R116). -/
def execCmpLtImm (h : Header) (kt kf : KReg) (a : SCon) (imm : Word) (s : State) : Host.Outcome State Fault Refusal :=
  issue (.cmpLtImm h kt kf a imm) (fun s => .done (wrOutcome s kt kf (BitVec.slt (readSC s.me a) imm))) s

/-- `cmp.ge` with an immediate (R116). -/
def execCmpGeImm (h : Header) (kt kf : KReg) (a : SCon) (imm : Word) (s : State) : Host.Outcome State Fault Refusal :=
  issue (.cmpGeImm h kt kf a imm) (fun s => .done (wrOutcome s kt kf ((fun a b => !a.slt b) (readSC s.me a) imm))) s

/-- `cmp.ltu` with an immediate (R116). -/
def execCmpLtuImm (h : Header) (kt kf : KReg) (a : SCon) (imm : Word) (s : State) : Host.Outcome State Fault Refusal :=
  issue (.cmpLtuImm h kt kf a imm) (fun s => .done (wrOutcome s kt kf (BitVec.ult (readSC s.me a) imm))) s

/-- `cmp.geu` with an immediate (R116). -/
def execCmpGeuImm (h : Header) (kt kf : KReg) (a : SCon) (imm : Word) (s : State) : Host.Outcome State Fault Refusal :=
  issue (.cmpGeuImm h kt kf a imm) (fun s => .done (wrOutcome s kt kf ((fun a b => !a.ult b) (readSC s.me a) imm))) s

/-- `sel` (R117). -/
def execSel (h : Header) (d : SReg) (k : KReg) (a b : SCon) (s : State) : Host.Outcome State Fault Refusal :=
  issue (.sel h d k a b) (fun s => .done (wrS s d (if readK s.me k then readSC s.me a else readSC s.me b))) s

/-- `plog.and` (R118). -/
def execPlogAnd (h : Header) (d a b : KReg) (s : State) : Host.Outcome State Fault Refusal :=
  issue (.plogAnd h d a b) (fun s => .done (wrK s d (readK s.me a && readK s.me b))) s

/-- `plog.or` (R118). -/
def execPlogOr (h : Header) (d a b : KReg) (s : State) : Host.Outcome State Fault Refusal :=
  issue (.plogOr h d a b) (fun s => .done (wrK s d (readK s.me a || readK s.me b))) s

/-- `plog.xor` (R118). -/
def execPlogXor (h : Header) (d a b : KReg) (s : State) : Host.Outcome State Fault Refusal :=
  issue (.plogXor h d a b) (fun s => .done (wrK s d (readK s.me a ^^ readK s.me b))) s

/-- `plog.andn` (R118). -/
def execPlogAndn (h : Header) (d a b : KReg) (s : State) : Host.Outcome State Fault Refusal :=
  issue (.plogAndn h d a b) (fun s => .done (wrK s d (readK s.me a && !readK s.me b))) s

/-! ## Moves and addresses (R119 to R125) -/

/-- `movi` (R119). -/
def execMovi (h : Header) (d : SReg) (imm : Word) (s : State) : Host.Outcome State Fault Refusal :=
  issue (.movi h d imm) (fun s => .done (wrS s d imm)) s

/-- The copy of `mov` by the kind of its destination (R120, R146). -/
def moveEff (ops : MovOps) (s : State) : Eff :=
  match ops with
  | .s d a => .done (wrS s d (readSC s.me a))
  | .v d a => withV1 a (fun s x => .done (wrV s d x)) s
  | .k d a => .done (wrK s d (readK s.me a))

/-- `mov` (R120). -/
def execMov (h : Header) (ops : MovOps) (s : State) : Host.Outcome State Fault Refusal :=
  issue (.mov h ops) (moveEff ops) s

/-- `lea` (R121). -/
def execLea (h : Header) (d : SReg) (ea : Addr) (s : State) : Host.Outcome State Fault Refusal :=
  issue (.lea h d ea) (fun s => .done (wrS s d (mAddress s.me ea))) s

/-- The fields of a distribution table entry (R123). -/
def dtDies (x : Word) : Nat := (x.extractLsb' 47 2).toNat
def dtSlab (x : Word) : Nat := (x.extractLsb' 41 6).toNat
def dtGran (x : Word) : Nat := (x.extractLsb' 36 5).toNat
def dtBase (x : Word) : Nat := (x.extractLsb' 0 36).toNat

/-- The lowest bit of the first failing field of an entry, from bit 63 down; a relation fails at its higher field
(R124, R442). -/
def dtFault (x : Word) : Option Nat :=
  if x.extractLsb' 49 15 != 0 then some 49
  else if dtDies x == 0 then
    if dtSlab x != 0 || dtGran x != 0 then some 47 else none
  else if dtSlab x < 21 || 56 < dtSlab x || dtSlab x < dtGran x then some 41
  else if dtGran x < 9 || 30 < dtGran x then some 36
  else none

/-- The address of byte offset o of the array an entry describes (R125). -/
def dtAddress (t o : Word) : Word :=
  let n := dtDies t
  let g := dtGran t
  let l := dtSlab t
  if n = 0 then o
  else
    let c := o.toNat >>> g
    BitVec.ofNat 64 (((dtBase t <<< 21) + ((c % 2 ^ n) <<< l) + ((c >>> n) <<< g) + o.toNat % 2 ^ g) % 2 ^ 57)

/-- An entry of the context's distribution table (R122). -/
def Ctx.dtEntry (c : Ctx) (e : Nat) : Word := sparseGet 0 c.dt e

def gaddrEff (d : SReg) (e o : SCon) (s : State) : Eff :=
  let x := readSC s.me e
  if 16 ≤ x.toNat then .trap .illegal 50
  else .done (wrS s d (dtAddress (s.me.dtEntry x.toNat) (readSC s.me o)))

/-- An index outside 0 to 15 is reported before a bad entry (R124 gives no order; DESIGN CHOICE, log 16). -/
def dtsetEff (e : SCon) (x : SReg) (s : State) : Eff :=
  let i := readSC s.me e
  let v := readS s.me x
  if 16 ≤ i.toNat then .trap .illegal 50
  else match dtFault v with
    | some b => .trap .illegal (BitVec.ofNat 64 (128 + b))
    | none => .done (s.setMe { s.me with dt := sparseAssign 0 s.me.dt i.toNat v })

/-- `gaddr` (R125). -/
def execGaddr (h : Header) (d : SReg) (e o : SCon) (s : State) : Host.Outcome State Fault Refusal :=
  issue (.gaddr h d e o) (gaddrEff d e o) s

/-- `dtset` (R124). -/
def execDtset (h : Header) (e : SCon) (x : SReg) (s : State) : Host.Outcome State Fault Refusal :=
  issue (.dtset h e x) (dtsetEff e x) s

end Sys2Proof.Machine
end

