-- ==== Sys2Proof/Machine/Simd.lean ====
section
/-! DEFINITION. The packed SIMD instructions (R145 to R165). -/

namespace Sys2Proof.Machine

/-! ## Lane-wise arithmetic and logic (R151 to R153) -/

/-- The tags of values: 1 to 10. -/
def isValueTag (t : Tag) : Bool := t != .b128

/-- The tags of shifts and unsigned comparisons: 0, 1, 8, 9 and 10. -/
def isRawTag (t : Tag) : Bool := t == .b128 || t == .i8 || t == .i16 || t == .i32 || t == .i64

def isIeeeTag (t : Tag) : Bool := t == .bf16 || t == .fp16 || t == .fp32
def isTaperTag (t : Tag) : Bool := t == .t6 || t == .t8

/-- A lane-wise operation on two registers of one accepted tag; a failing combination is TAG, REASON 0. -/
def vop2 (ok : Tag → Bool) (f : Int → Tag → Nat → Nat → Nat × BitVec 7) (d : VReg) (a b : VSrc) : State → Eff :=
  withV2 a b (fun s x y =>
    if x.tag != y.tag || !ok x.tag then tagTrap 0 x.tag y.tag .b128
    else finishV s d x.tag (List.zipWith (f s.me.scale.toInt x.tag) (lanesOf x) (lanesOf y)))

/-- An operation on values: NaR in, NaR out for tapered lanes; one rounding by `lane_put` (R150, R151). -/
def valueLane (sb : Int) (t : Tag) (f : Num × BitVec 7) (args : List Num) : Nat × BitVec 7 :=
  if isTaperTag t && args.any (· == .nar) then encodeElem t sb .nar
  else let r := encodeElem t sb f.1
       (r.1, f.2 ||| r.2)

def arithLane (f : Num → Num → Num × BitVec 7) (sb : Int) (t : Tag) (a b : Nat) : Nat × BitVec 7 :=
  let x := elemVal t sb a
  let y := elemVal t sb b
  valueLane sb t (f x y) [x, y]

/-- `lane_max` and `lane_min` (R151). -/
def minMaxLane (max : Bool) (sb : Int) (t : Tag) (a b : Nat) : Nat × BitVec 7 :=
  let x := elemVal t sb a
  let y := elemVal t sb b
  if isIeeeTag t then
    let r := numMinMax max x y
    ((encodeElem t sb r.1).1, r.2)
  else if x == .nar then (b, 0)
  else if y == .nar then (a, 0)
  else if max then (if numLt x y then b else a, 0)
  else (if numLt y x then b else a, 0)

def bitLane (f : Nat → Nat → Nat) (_ : Int) (_ : Tag) (a b : Nat) : Nat × BitVec 7 := (f a b, 0)
def andnLane (_ : Int) (t : Tag) (a b : Nat) : Nat × BitVec 7 := (a &&& (2 ^ t.width - 1 - b), 0)
def shlLane (_ : Int) (t : Tag) (a b : Nat) : Nat × BitVec 7 := ((a <<< (b % t.width)) % 2 ^ t.width, 0)
def shrLane (_ : Int) (t : Tag) (a b : Nat) : Nat × BitVec 7 := (a >>> (b % t.width), 0)
def sraLane (_ : Int) (t : Tag) (a b : Nat) : Nat × BitVec 7 :=
  (((signedOf t.width a / 2 ^ (b % t.width)) % 2 ^ t.width).toNat, 0)

/-- `vadd` (R151). -/
def execVadd (h : Header) (d : VReg) (a b : VSrc) (s : State) : Host.Outcome State Fault Refusal :=
  issue (.vadd h d a b) (vop2 isValueTag (arithLane numAdd) d a b) s

/-- `vsub` (R151). -/
def execVsub (h : Header) (d : VReg) (a b : VSrc) (s : State) : Host.Outcome State Fault Refusal :=
  issue (.vsub h d a b) (vop2 isValueTag (arithLane numSub) d a b) s

/-- `vmul` (R151). -/
def execVmul (h : Header) (d : VReg) (a b : VSrc) (s : State) : Host.Outcome State Fault Refusal :=
  issue (.vmul h d a b) (vop2 isValueTag (arithLane numMul) d a b) s

/-- `vmin` (R151). -/
def execVmin (h : Header) (d : VReg) (a b : VSrc) (s : State) : Host.Outcome State Fault Refusal :=
  issue (.vmin h d a b) (vop2 isValueTag (minMaxLane false) d a b) s

/-- `vmax` (R151). -/
def execVmax (h : Header) (d : VReg) (a b : VSrc) (s : State) : Host.Outcome State Fault Refusal :=
  issue (.vmax h d a b) (vop2 isValueTag (minMaxLane true) d a b) s

/-- `vand` (R151). -/
def execVand (h : Header) (d : VReg) (a b : VSrc) (s : State) : Host.Outcome State Fault Refusal :=
  issue (.vand h d a b) (vop2 (fun _ => true) (bitLane (· &&& ·)) d a b) s

/-- `vor` (R151). -/
def execVor (h : Header) (d : VReg) (a b : VSrc) (s : State) : Host.Outcome State Fault Refusal :=
  issue (.vor h d a b) (vop2 (fun _ => true) (bitLane (· ||| ·)) d a b) s

/-- `vxor` (R151). -/
def execVxor (h : Header) (d : VReg) (a b : VSrc) (s : State) : Host.Outcome State Fault Refusal :=
  issue (.vxor h d a b) (vop2 (fun _ => true) (bitLane (· ^^^ ·)) d a b) s

/-- `vandn` (R151). -/
def execVandn (h : Header) (d : VReg) (a b : VSrc) (s : State) : Host.Outcome State Fault Refusal :=
  issue (.vandn h d a b) (vop2 (fun _ => true) andnLane d a b) s

/-- `vshl` (R151). -/
def execVshl (h : Header) (d : VReg) (a b : VSrc) (s : State) : Host.Outcome State Fault Refusal :=
  issue (.vshl h d a b) (vop2 isRawTag shlLane d a b) s

/-- `vshr` (R151). -/
def execVshr (h : Header) (d : VReg) (a b : VSrc) (s : State) : Host.Outcome State Fault Refusal :=
  issue (.vshr h d a b) (vop2 isRawTag shrLane d a b) s

/-- `vsra` (R151). -/
def execVsra (h : Header) (d : VReg) (a b : VSrc) (s : State) : Host.Outcome State Fault Refusal :=
  issue (.vsra h d a b) (vop2 isRawTag sraLane d a b) s

/-- One lane of a fused multiply-add (R152). -/
def fmaLane (np na : Bool) (sb : Int) (t : Tag) (a b c : Nat) : Nat × BitVec 7 :=
  let x := elemVal t sb a
  let y := elemVal t sb b
  let z := elemVal t sb c
  valueLane sb t (numFma np na x y z) [x, y, z]

/-- The lane-wise fused operations (R152). -/
def vfmaEff (np na : Bool) (d : VReg) (a b : VSrc) (c : VReg) : State → Eff :=
  withV2 a b (fun s x y =>
    let z := readV s.me c
    if x.tag != y.tag || x.tag != z.tag || !isValueTag x.tag then tagTrap 0 x.tag y.tag z.tag
    else finishV s d x.tag ((List.range x.tag.lanes).map (fun i =>
      fmaLane np na s.me.scale.toInt x.tag (lane x i) (lane y i) (lane z i)))) (c := some c)

/-- `vfma` (R152). -/
def execVfma (h : Header) (d : VReg) (a b : VSrc) (c : VReg) (s : State) : Host.Outcome State Fault Refusal :=
  issue (.vfma h d a b c) (vfmaEff false false d a b c) s

/-- `vfms` (R152). -/
def execVfms (h : Header) (d : VReg) (a b : VSrc) (c : VReg) (s : State) : Host.Outcome State Fault Refusal :=
  issue (.vfms h d a b c) (vfmaEff false true d a b c) s

/-- `vfnma` (R152). -/
def execVfnma (h : Header) (d : VReg) (a b : VSrc) (c : VReg) (s : State) : Host.Outcome State Fault Refusal :=
  issue (.vfnma h d a b c) (vfmaEff true false d a b c) s

/-- A lane-wise operation on one register of tags 1 to 10. -/
def vop1 (f : Int → Tag → Nat → Nat × BitVec 7) (d : VReg) (a : VSrc) : State → Eff :=
  withV1 a (fun s x =>
    if !isValueTag x.tag then tagTrap 0 x.tag .b128 .b128
    else finishV s d x.tag ((lanesOf x).map (f s.me.scale.toInt x.tag)))

/-- The sign bit of a lane. -/
def topBit (t : Tag) : Nat := 2 ^ (t.width - 1)

/-- One lane of `vabs` (R153). -/
def absLane (sb : Int) (t : Tag) (a : Nat) : Nat × BitVec 7 :=
  if isIeeeTag t then (a % topBit t, 0)
  else if isTaperTag t then (if a = topBit t then a else a % topBit t, 0)
  else encodeElem t sb (elemVal t sb a).abs

/-- One lane of `vneg` (R153). -/
def negLane (sb : Int) (t : Tag) (a : Nat) : Nat × BitVec 7 :=
  if isIeeeTag t then (a ^^^ topBit t, 0)
  else if isTaperTag t then (if a = 0 || a = topBit t then a else a ^^^ topBit t, 0)
  else encodeElem t sb (elemVal t sb a).neg

/-- `vabs` (R153). -/
def execVabs (h : Header) (d : VReg) (a : VSrc) (s : State) : Host.Outcome State Fault Refusal :=
  issue (.vabs h d a) (vop1 absLane d a) s

/-- `vneg` (R153). -/
def execVneg (h : Header) (d : VReg) (a : VSrc) (s : State) : Host.Outcome State Fault Refusal :=
  issue (.vneg h d a) (vop1 negLane d a) s

/-! ## Comparisons and selection (R154, R155) -/

/-- The outcome of a comparison of two lanes by value; bytes of tag 0 are compared as raw bits, and NaR is equal only
to NaR (R154). -/
def cmpLane (c : FCmp) (sb : Int) (t : Tag) (a b : Nat) : Bool × BitVec 7 :=
  if t = .b128 then (match c with
    | .eq => (a == b, 0)
    | _ => (a != b, 0))
  else
    let x := elemVal t sb a
    let y := elemVal t sb b
    if isTaperTag t then (match c with
      | .eq => (a == b, 0)
      | .ne => (a != b, 0)
      | .lt => (numLt x y, 0)
      | .ge => (!x.isNanNar && !y.isNanNar && !numLt x y, 0)
      | .un => (x.isNanNar || y.isNanNar, 0))
    else fcmpOutcome c x y

/-- A lane mask: every bit of a lane is the outcome (R154). -/
def maskLane (f : Int → Tag → Nat → Nat → Bool × BitVec 7) (sb : Int) (t : Tag) (a b : Nat) : Nat × BitVec 7 :=
  let r := f sb t a b
  (if r.1 then 2 ^ t.width - 1 else 0, r.2)

def ltuLane (_ : Int) (_ : Tag) (a b : Nat) : Bool × BitVec 7 := (decide (a < b), 0)
def geuLane (_ : Int) (_ : Tag) (a b : Nat) : Bool × BitVec 7 := (decide (b ≤ a), 0)

/-- `vcmp.eq` (R154). -/
def execVcmpEq (h : Header) (d : VReg) (a b : VSrc) (s : State) : Host.Outcome State Fault Refusal :=
  issue (.vcmpEq h d a b) (vop2 (fun _ => true) (maskLane (cmpLane .eq)) d a b) s

/-- `vcmp.ne` (R154). -/
def execVcmpNe (h : Header) (d : VReg) (a b : VSrc) (s : State) : Host.Outcome State Fault Refusal :=
  issue (.vcmpNe h d a b) (vop2 (fun _ => true) (maskLane (cmpLane .ne)) d a b) s

/-- `vcmp.lt` (R154). -/
def execVcmpLt (h : Header) (d : VReg) (a b : VSrc) (s : State) : Host.Outcome State Fault Refusal :=
  issue (.vcmpLt h d a b) (vop2 isValueTag (maskLane (cmpLane .lt)) d a b) s

/-- `vcmp.ge` (R154). -/
def execVcmpGe (h : Header) (d : VReg) (a b : VSrc) (s : State) : Host.Outcome State Fault Refusal :=
  issue (.vcmpGe h d a b) (vop2 isValueTag (maskLane (cmpLane .ge)) d a b) s

/-- `vcmp.ltu` (R154). -/
def execVcmpLtu (h : Header) (d : VReg) (a b : VSrc) (s : State) : Host.Outcome State Fault Refusal :=
  issue (.vcmpLtu h d a b) (vop2 isRawTag (maskLane ltuLane) d a b) s

/-- `vcmp.geu` (R154). -/
def execVcmpGeu (h : Header) (d : VReg) (a b : VSrc) (s : State) : Host.Outcome State Fault Refusal :=
  issue (.vcmpGeu h d a b) (vop2 isRawTag (maskLane geuLane) d a b) s

/-- `vcmp.un` (R154). -/
def execVcmpUn (h : Header) (d : VReg) (a b : VSrc) (s : State) : Host.Outcome State Fault Refusal :=
  issue (.vcmpUn h d a b) (vop2 (fun t => isIeeeTag t || isTaperTag t) (maskLane (cmpLane .un)) d a b) s

/-- The bitwise selection of `vsel`; a T6 result has bits 127:96 zero (R147, R155). -/
def vselEff (d : VReg) (m a : VSrc) (b : VReg) : State → Eff :=
  withV2 m a (fun s x y =>
    let z := readV s.me b
    if y.tag != z.tag then tagTrap 0 x.tag y.tag z.tag
    else .done (wrV s d (trimT6 { bits := (x.bits &&& y.bits) ||| (~~~x.bits &&& z.bits), tag := y.tag }))) (c := some b)

/-- `vsel` (R155). -/
def execVsel (h : Header) (d : VReg) (k a : VSrc) (b : VReg) (s : State) : Host.Outcome State Fault Refusal :=
  issue (.vsel h d k a b) (vselEff d k a b) s

/-! ## Sums within segments (R156) -/

/-- The result tag of a segment sum; none for tags 0 and 10. -/
def sumTag : Tag → Option Tag
  | .i8 => some .i32
  | .i16 | .i32 => some .i64
  | .q4 | .t6 | .t8 | .bf16 | .fp16 | .fp32 => some .fp32
  | .b128 | .i64 => none

/-- The integer value of an element. -/
def Num.toInt : Num → Int
  | .fin n m e => (if n then -1 else 1) * (m * 2 ^ e.toNat : Nat)
  | _ => 0

/-- A leaf rounded to FP32; NaR becomes the canonical NaN with invalid (R100, R156). -/
def fp32Leaf (x : Num × BitVec 7) : Nat × BitVec 7 :=
  let r := putIeee fmtFP32 x.1
  (r.1, x.2 ||| r.2)

/-- The product leaf of `vdot`. -/
def dotLeaf (sb : Int) (t : Tag) (a b : Nat) : Num × BitVec 7 :=
  let x := elemVal t sb a
  let y := elemVal t sb b
  if x == .nar || y == .nar then (.nan false, flagNV) else numMul x y

/-- The leaf of `vsum`: a NaN becomes the canonical one (R98). -/
def sumLeaf (sb : Int) (t : Tag) (a : Nat) : Num × BitVec 7 :=
  match elemVal t sb a with
  | .nar => (.nan false, flagNV)
  | .nan g => (.nan false, if g then flagNV else 0)
  | x => (x, 0)

/-- FP32 addition with its flags, of sums that carry theirs. -/
def fp32AddF (a b : Nat × BitVec 7) : Nat × BitVec 7 :=
  let r := fp32Add a.1 b.1
  (r.1, a.2 ||| b.2 ||| r.2)

/-- The sum of one segment of 2^lv leaves (R106, R156). -/
def segSum (rt : Tag) (lv : Nat) (leaves : List (Num × BitVec 7)) : Nat × BitVec 7 :=
  if rt = .fp32 then treeSum fp32AddF (0, 0) lv (leaves.map fp32Leaf)
  else clampBits rt.width (treeSum (· + ·) 0 lv (leaves.map (fun x => x.1.toInt))) false

/-- Segment j of n leaves, summed (R156). -/
def leafSum (rt : Tag) (leaf : Nat → Num × BitVec 7) (n j : Nat) : Nat × BitVec 7 :=
  segSum rt (Nat.log2 n) ((List.range n).map (fun e => leaf (j * n + e)))

/-- One element read at a tag and encoded in another, at one scale base (R100). Between equal tags the bits stand as they are, but for
a signalling NaN, which becomes the canonical one: a quiet NaN that is copied has not been produced (R156, R157; DEDUCED, log 48). -/
def convertElem (src dst : Tag) (sb : Int) (b : Nat) : Nat × BitVec 7 :=
  let x := elemVal src sb b
  if src = dst && !x.isSig then (b, 0) else encodeElem dst sb x

/-- The common part of `vdot` and `vsum` after the tags have been accepted, over the sum of n elements that gives lane j: t1, t2 are
reported tags. -/
def segments (s : State) (d : VReg) (t rt t2 : Tag) (seg : BitVec 3) (sum : Nat → Nat → Nat × BitVec 7) : Eff :=
  let c := 16 / 2 ^ seg.toNat
  let n16 := t.lanes * 2 ^ seg.toNat
  if n16 < 16 then tagTrap 1 t t2 .b128
  else if rt.lanes < c then tagTrap 2 t t2 .b128
  else
    let n := n16 / 16
    finishV s d rt ((List.range rt.lanes).map (fun j => if j < c then sum n j else (0, 0)))

def vdotEff (d : VReg) (a b : VSrc) (seg : BitVec 3) : State → Eff :=
  withV2 a b (fun s x y =>
    match sumTag x.tag with
    | none => tagTrap 0 x.tag y.tag .b128
    | some rt =>
      if x.tag != y.tag then tagTrap 0 x.tag y.tag .b128
      else segments s d x.tag rt y.tag seg (leafSum rt (fun i => dotLeaf s.me.scale.toInt x.tag (lane x i) (lane y i))))

def vsumEff (d : VReg) (a : VSrc) (seg : BitVec 3) : State → Eff :=
  withV1 a (fun s x =>
    match sumTag x.tag with
    | none => tagTrap 0 x.tag .b128 .b128
    | some rt => segments s d x.tag rt .b128 seg (fun n j =>
        -- a sum of one FP32 element is a copy
        if n = 1 ∧ x.tag = .fp32 then convertElem .fp32 .fp32 s.me.scale.toInt (lane x j)
        else leafSum rt (fun i => sumLeaf s.me.scale.toInt x.tag (lane x i)) n j))

/-- `vdot` (R156). -/
def execVdot (h : Header) (d : VReg) (a b : VSrc) (seg : BitVec 3) (s : State) : Host.Outcome State Fault Refusal :=
  issue (.vdot h d a b seg) (vdotEff d a b seg) s

/-- `vsum` (R156). -/
def execVsum (h : Header) (d : VReg) (a : VSrc) (seg : BitVec 3) (s : State) : Host.Outcome State Fault Refusal :=
  issue (.vsum h d a seg) (vsumEff d a seg) s

/-! ## Conversions (R157 to R159) -/

/-- `vcvt`: lanes below both lane counts are converted; the rest are 0; amax sees the converted lanes (R104, R157). -/
def vcvtEff (d : VReg) (a : VSrc) (t : Tag) (sb : BitVec 8) (ctl : Bool) : State → Eff :=
  withV1 a (fun s x =>
    if x.tag = .b128 then tagTrap 0 x.tag .b128 .b128
    else if t = .b128 then tagTrap 3 x.tag .b128 .b128
    else
      let base := (if ctl then s.me.scale else sb).toInt
      let n := min x.tag.lanes t.lanes
      let r := finishV s d t ((List.range t.lanes).map (fun i =>
        if i < n then convertElem x.tag t base (lane x i) else (0, 0)))
      match r with
      | .done s' => .done (mergeAmax s' (amaxOf ((List.range n).map (fun i => elemVal x.tag base (lane x i)))))
      | e => e)

def vpackEff (d : VReg) (a b : VSrc) (t : Tag) : State → Eff :=
  withV2 a b (fun s x y =>
    if x.tag != y.tag || x.tag == .b128 then tagTrap 0 x.tag y.tag .b128
    else if t = .b128 then tagTrap 3 x.tag y.tag .b128
    else if t.lanes ≠ 2 * x.tag.lanes then tagTrap 4 x.tag y.tag .b128
    else finishV s d t ((lanesOf x ++ lanesOf y).map (convertElem x.tag t s.me.scale.toInt)))

def vunpkEff (hi : Bool) (d : VReg) (a : VSrc) (t : Tag) : State → Eff :=
  withV1 a (fun s x =>
    if x.tag = .b128 then tagTrap 0 x.tag .b128 .b128
    else if t = .b128 then tagTrap 3 x.tag .b128 .b128
    else if 2 * t.lanes ≠ x.tag.lanes then tagTrap 4 x.tag .b128 .b128
    else finishV s d t ((List.range t.lanes).map (fun i =>
      convertElem x.tag t s.me.scale.toInt (lane x (if hi then t.lanes + i else i)))))

/-- `vcvt` (R157). -/
def execVcvt (h : Header) (d : VReg) (a : VSrc) (t : Tag) (sb : BitVec 8) (ctl : Bool) (s : State) : Host.Outcome State Fault Refusal :=
  issue (.vcvt h d a t sb ctl) (vcvtEff d a t sb ctl) s

/-- `vpack` (R158). -/
def execVpack (h : Header) (d : VReg) (a b : VSrc) (t : Tag) (s : State) : Host.Outcome State Fault Refusal :=
  issue (.vpack h d a b t) (vpackEff d a b t) s

/-- `vunpk.lo` (R159). -/
def execVunpkLo (h : Header) (d : VReg) (a : VSrc) (t : Tag) (s : State) : Host.Outcome State Fault Refusal :=
  issue (.vunpkLo h d a t) (vunpkEff false d a t) s

/-- `vunpk.hi` (R159). -/
def execVunpkHi (h : Header) (d : VReg) (a : VSrc) (t : Tag) (s : State) : Host.Outcome State Fault Refusal :=
  issue (.vunpkHi h d a t) (vunpkEff true d a t) s

/-! ## Tags, lanes and permutes (R160 to R165) -/

def vextEff (d : SReg) (a : VSrc) (l : SCon) : State → Eff :=
  withV1 a (fun s x =>
    let i := (readSC s.me l).toNat
    if x.tag.lanes ≤ i then .trap .illegal 59 else .done (wrS s d (BitVec.ofNat 64 (lane x i))))

def vinsEff (d : VReg) (a : VSrc) (v l : SCon) : State → Eff :=
  withV1 a (fun s x =>
    let i := (readSC s.me l).toNat
    if x.tag.lanes ≤ i then .trap .illegal 68
    else .done (wrV s d (packLanes x.tag ((lanesOf x).set i ((readSC s.me v).toNat % 2 ^ x.tag.width)))))

def vpermEff (d : VReg) (a b : VSrc) : State → Eff :=
  withV2 a b (fun s x y =>
    if x.tag == .q4 || !(y.tag == .b128 || y.tag == .i8) then tagTrap 0 x.tag y.tag .b128
    else finishV s d x.tag ((List.range x.tag.lanes).map (fun i =>
      (lane x (lane { y with tag := .i8 } i % x.tag.lanes), 0))))

/-- `vtag` (R160). -/
def execVtag (h : Header) (d : VReg) (a : VSrc) (t : Tag) (s : State) : Host.Outcome State Fault Refusal :=
  issue (.vtag h d a t) (withV1 a (fun s x => .done (wrV s d { x with tag := t }))) s

/-- `vgtag` (R161). -/
def execVgtag (h : Header) (d : SReg) (a : VSrc) (s : State) : Host.Outcome State Fault Refusal :=
  issue (.vgtag h d a) (withV1 a (fun s x => .done (wrS s d (x.tag.bits.setWidth 64)))) s

/-- `vsplat` (R162). -/
def execVsplat (h : Header) (d : VReg) (a : SCon) (t : Tag) (s : State) : Host.Outcome State Fault Refusal :=
  issue (.vsplat h d a t) (fun s => .done (wrV s d (packLanes t (List.replicate t.lanes ((readSC s.me a).toNat % 2 ^ t.width))))) s

/-- `vext` (R163). -/
def execVext (h : Header) (d : SReg) (a : VSrc) (l : SCon) (s : State) : Host.Outcome State Fault Refusal :=
  issue (.vext h d a l) (vextEff d a l) s

/-- `vins` (R164). -/
def execVins (h : Header) (d : VReg) (a : VSrc) (x l : SCon) (s : State) : Host.Outcome State Fault Refusal :=
  issue (.vins h d a x l) (vinsEff d a x l) s

/-- `vperm` (R165). -/
def execVperm (h : Header) (d : VReg) (a b : VSrc) (s : State) : Host.Outcome State Fault Refusal :=
  issue (.vperm h d a b) (vpermEff d a b) s

end Sys2Proof.Machine
end

