-- ==== Sys2Proof/Machine/Vsfn.lean ====
section
/-! DEFINITION. The special functions of `vsfn`, correctly rounded (R166, R167). A function value that is not rational
is enclosed between two fixed-point numbers; the precision is doubled until both ends round to the same bits. -/

namespace Sys2Proof.Machine

/-! ## Fixed-point intervals: [lo, hi] · 2^−w -/

/-- An interval of fixed-point numbers. -/
structure Iv where
  lo : Int
  hi : Int
  deriving DecidableEq, Repr

/-- ⌈a / b⌉ for positive b. -/
def ceilDiv (a b : Int) : Int := -((-a) / b)

/-- An exact integer. -/
def ivInt (w : Nat) (n : Int) : Iv := ⟨n * 2 ^ w, n * 2 ^ w⟩

def ivAdd (a b : Iv) : Iv := ⟨a.lo + b.lo, a.hi + b.hi⟩
def ivSub (a b : Iv) : Iv := ⟨a.lo - b.hi, a.hi - b.lo⟩

def ivMul (w : Nat) (a b : Iv) : Iv :=
  let p := [a.lo * b.lo, a.lo * b.hi, a.hi * b.lo, a.hi * b.hi]
  ⟨(p.foldl min (a.lo * b.lo)) / 2 ^ w, ceilDiv (p.foldl max (a.lo * b.lo)) (2 ^ w)⟩

/-- Division by a positive integer. -/
def ivDivNat (a : Iv) (n : Nat) : Iv := ⟨a.lo / n, ceilDiv a.hi n⟩

/-- Quotient of nonnegative numbers by positive ones. -/
def ivDiv (w : Nat) (a b : Iv) : Iv := ⟨a.lo * 2 ^ w / b.hi, ceilDiv (a.hi * 2 ^ w) b.lo⟩

/-- m · 2^e. -/
def ivDyadic (w : Nat) (neg : Bool) (m : Nat) (e : Int) : Iv :=
  let x : Int := if neg then -(m : Int) else m
  let k := e + w
  if 0 ≤ k then ⟨x * 2 ^ k.toNat, x * 2 ^ k.toNat⟩ else ⟨x / 2 ^ k.natAbs, ceilDiv x (2 ^ k.natAbs)⟩

/-- A nonnegative number scaled by 2^k. -/
def ivShift (a : Iv) (k : Int) : Iv :=
  if 0 ≤ k then ⟨a.lo * 2 ^ k.toNat, a.hi * 2 ^ k.toNat⟩ else ⟨a.lo / 2 ^ k.natAbs, ceilDiv a.hi (2 ^ k.natAbs)⟩

/-- Σ z^(2k+1)/(2k+1) for k below n, for z in [−1/4, 1/4], with the tail. -/
def ivAtanh (w n : Nat) (z : Iv) : Iv :=
  let z2 := ivMul w z z
  let r := (List.range n).foldl (fun (acc : Iv × Iv) k => (ivAdd acc.1 (ivDivNat acc.2 (2 * k + 1)), ivMul w acc.2 z2)) (⟨0, 0⟩, z)
  let t := max r.2.lo.natAbs r.2.hi.natAbs + 1
  ⟨r.1.lo - 2 * t, r.1.hi + 2 * t⟩

/-- ln 2 = 2 atanh(1/3); the terms fall by 9. -/
def ivLn2 (w : Nat) : Iv :=
  let z := ivDivNat (ivInt w 1) 3
  let r := ivAtanh w (w / 3 + 8) z
  ⟨2 * r.lo, 2 * r.hi⟩

/-- e^y for y in [−1/2, 1/2], by the series folded from its last term. -/
def ivExpSmall (w : Nat) (y : Iv) : Iv :=
  ((List.range (w / 4 + 16)).reverse).foldl
    (fun acc k => ivAdd (ivInt w 1) (ivDivNat (ivMul w y acc) (k + 1))) ⟨2 ^ w / 2, 2 * 2 ^ w⟩

/-- e^x = r · 2^n for a dyadic x. -/
def ivExp (w : Nat) (neg : Bool) (m : Nat) (e : Int) : Iv × Int :=
  let x := ivDyadic w neg m e
  let l := ivLn2 w
  let n := (2 * x.lo + l.lo) / (2 * l.lo)
  (ivExpSmall w (ivSub x ⟨min (n * l.lo) (n * l.hi), max (n * l.lo) (n * l.hi)⟩), n)

/-- Σ (−1)^k / ((2k+1) q^(2k+1)), the arc tangent of 1/q. -/
def ivAtanInv (w q : Nat) : Iv :=
  let r := (List.range (w / 4 + 8)).foldl (fun (acc : Iv × Iv) k =>
      let t := ivDivNat acc.2 (2 * k + 1)
      (if k % 2 = 0 then ivAdd acc.1 t else ivSub acc.1 t, ivDivNat acc.2 (q * q)))
    (⟨0, 0⟩, ivDivNat (ivInt w 1) q)
  ⟨r.1.lo - r.2.hi - 1, r.1.hi + r.2.hi + 1⟩

/-- π = 16 atan(1/5) − 4 atan(1/239). -/
def ivPi (w : Nat) : Iv :=
  let a := ivAtanInv w 5
  let b := ivAtanInv w 239
  ⟨16 * a.lo - 4 * b.hi, 16 * a.hi - 4 * b.lo⟩

/-- The square root of a positive number. -/
def ivSqrt (w : Nat) (a : Iv) : Iv :=
  let n := bitLen (a.hi.toNat * 2 ^ w) / 2 + 1
  ⟨isqrt n (a.lo.toNat * 2 ^ w), isqrt n (a.hi.toNat * 2 ^ w) + 1⟩

/-! ## The functions: an enclosure r · 2^n of the magnitude -/

/-- The functions of `vsfn` (R166). -/
inductive SFun where
  | exp2 | log2 | rcp | rsqrt | tanh | sigm | silu | erf
  deriving DecidableEq, Repr

/-- The place of the leading bit of m · 2^e. -/
def leadOf (m : Nat) (e : Int) : Int := (bitLen m : Int) - 1 + e

/-- 2^x: x = n + f with f in [−1/2, 1/2). -/
def encExp2 (w : Nat) (neg : Bool) (m : Nat) (e : Int) : Iv × Int :=
  let x := ivDyadic w neg m e
  let n := (2 * x.lo + 2 ^ w) / (2 * 2 ^ w)
  (ivExpSmall w (ivMul w (ivSub x (ivInt w n)) (ivLn2 w)), n)

/-- |log2 x| with its sign: x = 2^k · f with f in [3/4, 3/2). -/
def encLog2 (w m : Nat) (e : Int) : Bool × Iv :=
  let b := bitLen m - 1
  let up := decide (3 * 2 ^ b ≤ 2 * m)
  let q := if up then b + 1 else b
  let k : Int := e + q
  let num : Int := (m : Int) - 2 ^ q
  let z : Iv := ⟨num * 2 ^ w / (m + 2 ^ q), ceilDiv (num * 2 ^ w) (m + 2 ^ q)⟩
  let a := ivAtanh w (w / 4 + 8) z
  let l := ivLn2 w
  -- 2·a / ln 2, by the sign of a
  let neg := decide (a.hi < 0)
  let mag : Iv := if neg then ⟨-2 * a.hi, -2 * a.lo⟩ else ⟨2 * a.lo, 2 * a.hi⟩
  let r := ivDiv w mag l
  let y := if neg then ivSub (ivInt w k) r else ivAdd (ivInt w k) r
  if y.hi < 0 then (true, ⟨-y.hi, -y.lo⟩) else (false, y)

/-- 1/(1 + e^−x) (R166). -/
def encSigm (w : Nat) (neg : Bool) (m : Nat) (e : Int) : Iv × Int :=
  let (y, n) := ivExp w true m e
  let d := ivAdd (ivInt w 1) (ivShift y n)
  if neg then (ivDiv w y d, n) else (ivDiv w (ivInt w 1) d, 0)

/-- tanh |x| = (1 − e^−2|x|)/(1 + e^−2|x|). -/
def encTanh (w m : Nat) (e : Int) : Iv :=
  let (y, n) := ivExp w true m (e + 1)
  let t := ivShift y n
  ivDiv w (ivSub (ivInt w 1) t) (ivAdd (ivInt w 1) t)

/-- erf |x| = 2/√π · e^(−x²) · Σ 2^k x^(2k+1)/(2k+1)!!, for |x| below 6. -/
def encErf (w m : Nat) (e : Int) : Iv :=
  let x := ivDyadic w false m e
  let x2 := ivMul w x x
  let r := (List.range (w + 160)).foldl (fun (acc : Iv × Iv) k =>
      (ivAdd acc.1 acc.2, ivDivNat (ivMul w acc.2 ⟨2 * x2.lo, 2 * x2.hi⟩) (2 * k + 3))) (⟨0, 0⟩, x)
  let sum : Iv := ⟨r.1.lo, r.1.hi + 2 * r.2.hi + 1⟩
  let (y, n) := ivExp w true (m * m) (2 * e)
  let p := ivMul w sum (ivShift y n)
  ivDiv w ⟨2 * p.lo, 2 * p.hi⟩ (ivSqrt w (ivPi w))

/-- A value a little below 1, or a very small one, where the function has left the reach of every format: the bounds
stand in units of 2^−300. -/
def nearOne : Iv := ⟨2 ^ 300 - 2 ^ 240, 2 ^ 300⟩
def nearZero : Iv := ⟨2, 2 ^ 10⟩

/-- The sign of a function's value and an enclosure lo·2^e to hi·2^e of its magnitude, at precision p, for a nonzero
finite x whose value is not a special case. -/
def encloseFun (f : SFun) (p : Nat) (neg : Bool) (m : Nat) (e : Int) : Bool × Iv × Int :=
  let lead := leadOf m e
  let w := p + 2 * (min 0 lead).natAbs + 16
  let big := decide (9 ≤ lead)
  match f with
  | .exp2 =>
    if decide (12 ≤ lead) then (false, ⟨2 ^ 300, 2 ^ 301⟩, if neg then -4000 else 4000)
    else
      let (y, n) := encExp2 w neg m e
      (false, y, n - w)
  | .log2 =>
    let w := p + 40
    let (s, y) := encLog2 w m e
    (s, y, -(w : Int))
  | .sigm =>
    if big then (false, if neg then nearZero else nearOne, -300)
    else
      let (y, n) := encSigm w neg m e
      (false, y, n - w)
  | .silu =>
    if big then (neg, if neg then nearZero else ⟨m * nearOne.lo, m * nearOne.hi⟩, if neg then -300 else e - 300)
    else
      let (y, n) := encSigm w neg m e
      (neg, ⟨m * y.lo, m * y.hi⟩, n - w + e)
  | .tanh => if decide (7 ≤ lead) then (neg, nearOne, -300) else (neg, encTanh w m e, -(w : Int))
  | .erf => if decide (3 ≤ lead) then (neg, ⟨2 ^ 300 - 2 ^ 250, 2 ^ 300⟩, -300) else (neg, encErf w m e, -(w : Int))
  | .rcp | .rsqrt => (false, ⟨0, 0⟩, 0)

/-- The rounded value of an enclosure, once both ends agree; each end is moved outward by less than one unit and made
odd, so that it stands for no exact value. -/
def roundEnclosure (fmt : Ieee) (x : Bool × Iv × Int) : Option (Nat × BitVec 7) :=
  let a := roundIeee fmt x.1 (4 * (x.2.1.lo - 1) + 1).toNat (x.2.2 - 2)
  let b := roundIeee fmt x.1 (4 * x.2.1.hi + 1).toNat (x.2.2 - 2)
  if a = b && decide (1 < x.2.1.lo) then some a else none

/-- Doubles the precision until the two ends of the enclosure round alike. -/
def roundFun (fmt : Ieee) (f : SFun) (neg : Bool) (m : Nat) (e : Int) : Nat → Nat → Nat × BitVec 7
  | 0, p => roundIeee fmt (encloseFun f p neg m e).1 (encloseFun f p neg m e).2.1.lo.toNat (encloseFun f p neg m e).2.2
  | n + 1, p =>
    match roundEnclosure fmt (encloseFun f p neg m e) with
    | some r => r
    | none => roundFun fmt f neg m e n (2 * p)

/-- 1/√x for a positive x, exact or with its last bit set to show what lies below. -/
def numRsqrt (m : Nat) (e : Int) : Num :=
  let (m, e) := if e % 2 = 0 then (m, e) else (2 * m, e - 1)
  let k := 2 * workBits + 2 * bitLen m
  let q := 2 ^ k / m
  let r := isqrt (k / 2 + 1) q
  .fin false (2 * r + (if r * r * m = 2 ^ k then 0 else 1)) (-(e / 2) - (k / 2 : Nat) - 1)

/-- One element of `vsfn` in a format (R166, R167). -/
def sfun (f : SFun) (fmt : Ieee) (x : Num) : Nat × BitVec 7 :=
  let one (n : Bool) := putIeee fmt (.fin n 1 0)
  let zero (n : Bool) := putIeee fmt (.fin n 0 0)
  let inf (n : Bool) := putIeee fmt (.inf n)
  let bad : Nat × BitVec 7 := (fmt.qnan, flagNV)
  let withDZ (y : Nat × BitVec 7) : Nat × BitVec 7 := (y.1, y.2 ||| flagDZ)
  match x with
  | .nan g => (fmt.qnan, if g then flagNV else 0)
  | .nar => (fmt.qnan, 0)
  | .inf n =>
    match f with
    | .exp2 => if n then zero false else inf false
    | .log2 => if n then bad else inf false
    | .rcp => zero n
    | .rsqrt => if n then bad else zero false
    | .tanh | .erf => one n
    | .sigm => if n then zero false else one false
    | .silu => if n then zero true else inf false
  | .fin n m e =>
    if m = 0 then
      match f with
      | .exp2 => one false
      | .log2 => withDZ (inf true)
      | .rcp | .rsqrt => withDZ (inf n)
      | .tanh | .erf | .silu => zero n
      | .sigm => putIeee fmt (.fin false 1 (-1))
    else
      let tz := ((List.range (bitLen m)).takeWhile (fun i => !m.testBit i)).length
      let ev := leadOf m e
      match f with
      | .exp2 =>
        -- an integer exponent is exact
        if 0 ≤ e + tz then
          let k := if decide (12 ≤ ev) then (4096 : Int) else (m * 2 ^ (e + tz).toNat / 2 ^ tz : Nat)
          putIeee fmt (.fin false 1 (if n then -k else k))
        else roundFun fmt f n m e 8 64
      | .log2 =>
        if n then bad
        else if m = 2 ^ tz then putIeee fmt (numOfInt ev 0)
        else roundFun fmt f n m e 8 64
      | .rcp => putIeee fmt (numDiv (.fin false 1 0) x).1
      | .rsqrt => if n then bad else putIeee fmt (numRsqrt m e)
      | _ => roundFun fmt f n m e 8 64

/-- `vsfn` accepts the IEEE lanes only (R166). -/
def vsfnEff (f : SFun) (d : VReg) (a : VSrc) : State → Eff :=
  withV1 a (fun s x =>
    let go (fmt : Ieee) := finishV s d x.tag ((lanesOf x).map (fun b => sfun f fmt (decodeIeee fmt b)))
    match x.tag with
    | .bf16 => go fmtBF16
    | .fp16 => go fmtFP16
    | .fp32 => go fmtFP32
    | t => tagTrap 0 t .b128 .b128)

/-- `vsfn.exp2` (R166, R167). -/
def execVsfnExp2 (h : Header) (d : VReg) (a : VSrc) (s : State) : Host.Outcome State Fault Refusal :=
  issue (.vsfnExp2 h d a) (vsfnEff .exp2 d a) s

/-- `vsfn.log2` (R166, R167). -/
def execVsfnLog2 (h : Header) (d : VReg) (a : VSrc) (s : State) : Host.Outcome State Fault Refusal :=
  issue (.vsfnLog2 h d a) (vsfnEff .log2 d a) s

/-- `vsfn.rcp` (R166, R167). -/
def execVsfnRcp (h : Header) (d : VReg) (a : VSrc) (s : State) : Host.Outcome State Fault Refusal :=
  issue (.vsfnRcp h d a) (vsfnEff .rcp d a) s

/-- `vsfn.rsqrt` (R166, R167). -/
def execVsfnRsqrt (h : Header) (d : VReg) (a : VSrc) (s : State) : Host.Outcome State Fault Refusal :=
  issue (.vsfnRsqrt h d a) (vsfnEff .rsqrt d a) s

/-- `vsfn.tanh` (R166, R167). -/
def execVsfnTanh (h : Header) (d : VReg) (a : VSrc) (s : State) : Host.Outcome State Fault Refusal :=
  issue (.vsfnTanh h d a) (vsfnEff .tanh d a) s

/-- `vsfn.sigm` (R166, R167). -/
def execVsfnSigm (h : Header) (d : VReg) (a : VSrc) (s : State) : Host.Outcome State Fault Refusal :=
  issue (.vsfnSigm h d a) (vsfnEff .sigm d a) s

/-- `vsfn.silu` (R166, R167). -/
def execVsfnSilu (h : Header) (d : VReg) (a : VSrc) (s : State) : Host.Outcome State Fault Refusal :=
  issue (.vsfnSilu h d a) (vsfnEff .silu d a) s

/-- `vsfn.erf` (R166, R167). -/
def execVsfnErf (h : Header) (d : VReg) (a : VSrc) (s : State) : Host.Outcome State Fault Refusal :=
  issue (.vsfnErf h d a) (vsfnEff .erf d a) s

end Sys2Proof.Machine
end

