-- ==== Sys2Proof/Machine/FoldEval.lean ====
section
/-! DEFINITION. The instructions that the fold unit can evaluate, with the meanings it evaluates them by (R256). -/

namespace Sys2Proof.Machine

/-- The meaning of a foldable instruction: the scalar, floating-point and SIMD instructions and the loads of R256. -/
def foldRun (i : Instr) : Option (State → Host.Outcome State Fault Refusal) :=
  match i with
  | .add h d a b => some (execAdd h d a b)
  | .sub h d a b => some (execSub h d a b)
  | .and h d a b => some (execAnd h d a b)
  | .or h d a b => some (execOr h d a b)
  | .xor h d a b => some (execXor h d a b)
  | .andn h d a b => some (execAndn h d a b)
  | .shl h d a b => some (execShl h d a b)
  | .shr h d a b => some (execShr h d a b)
  | .sra h d a b => some (execSra h d a b)
  | .rol h d a b => some (execRol h d a b)
  | .min h d a b => some (execMin h d a b)
  | .max h d a b => some (execMax h d a b)
  | .minu h d a b => some (execMinu h d a b)
  | .maxu h d a b => some (execMaxu h d a b)
  | .addImm h d a imm => some (execAddImm h d a imm)
  | .subImm h d a imm => some (execSubImm h d a imm)
  | .andImm h d a imm => some (execAndImm h d a imm)
  | .orImm h d a imm => some (execOrImm h d a imm)
  | .xorImm h d a imm => some (execXorImm h d a imm)
  | .andnImm h d a imm => some (execAndnImm h d a imm)
  | .shlImm h d a imm => some (execShlImm h d a imm)
  | .shrImm h d a imm => some (execShrImm h d a imm)
  | .sraImm h d a imm => some (execSraImm h d a imm)
  | .rolImm h d a imm => some (execRolImm h d a imm)
  | .minImm h d a imm => some (execMinImm h d a imm)
  | .maxImm h d a imm => some (execMaxImm h d a imm)
  | .minuImm h d a imm => some (execMinuImm h d a imm)
  | .maxuImm h d a imm => some (execMaxuImm h d a imm)
  | .mul h d a b => some (execMul h d a b)
  | .mulh h d a b => some (execMulh h d a b)
  | .mulhu h d a b => some (execMulhu h d a b)
  | .div h d a b => some (execDiv h d a b)
  | .divu h d a b => some (execDivu h d a b)
  | .rem h d a b => some (execRem h d a b)
  | .remu h d a b => some (execRemu h d a b)
  | .clz h d a => some (execClz h d a)
  | .ctz h d a => some (execCtz h d a)
  | .popc h d a => some (execPopc h d a)
  | .sext h d a w => some (execSext h d a w)
  | .zext h d a w => some (execZext h d a w)
  | .bext h d a p len => some (execBext h d a p len)
  | .bins h d a f p len => some (execBins h d a f p len)
  | .cmpEq h kt kf a b => some (execCmpEq h kt kf a b)
  | .cmpNe h kt kf a b => some (execCmpNe h kt kf a b)
  | .cmpLt h kt kf a b => some (execCmpLt h kt kf a b)
  | .cmpGe h kt kf a b => some (execCmpGe h kt kf a b)
  | .cmpLtu h kt kf a b => some (execCmpLtu h kt kf a b)
  | .cmpGeu h kt kf a b => some (execCmpGeu h kt kf a b)
  | .cmpEqImm h kt kf a imm => some (execCmpEqImm h kt kf a imm)
  | .cmpNeImm h kt kf a imm => some (execCmpNeImm h kt kf a imm)
  | .cmpLtImm h kt kf a imm => some (execCmpLtImm h kt kf a imm)
  | .cmpGeImm h kt kf a imm => some (execCmpGeImm h kt kf a imm)
  | .cmpLtuImm h kt kf a imm => some (execCmpLtuImm h kt kf a imm)
  | .cmpGeuImm h kt kf a imm => some (execCmpGeuImm h kt kf a imm)
  | .sel h d k a b => some (execSel h d k a b)
  | .plogAnd h d a b => some (execPlogAnd h d a b)
  | .plogOr h d a b => some (execPlogOr h d a b)
  | .plogXor h d a b => some (execPlogXor h d a b)
  | .plogAndn h d a b => some (execPlogAndn h d a b)
  | .movi h d imm => some (execMovi h d imm)
  | .mov h ops => some (execMov h ops)
  | .lea h d ea => some (execLea h d ea)
  | .fadd h r a b d => some (execFadd h r a b d)
  | .fsub h r a b d => some (execFsub h r a b d)
  | .fmul h r a b d => some (execFmul h r a b d)
  | .fdiv h r a b d => some (execFdiv h r a b d)
  | .fmin h r a b d => some (execFmin h r a b d)
  | .fmax h r a b d => some (execFmax h r a b d)
  | .fsqrt h r a d => some (execFsqrt h r a d)
  | .fma h r a b c d => some (execFma h r a b c d)
  | .fms h r a b c d => some (execFms h r a b c d)
  | .fnma h r a b c d => some (execFnma h r a b c d)
  | .fcmpEq h kt kf a b d => some (execFcmpEq h kt kf a b d)
  | .fcmpNe h kt kf a b d => some (execFcmpNe h kt kf a b d)
  | .fcmpLt h kt kf a b d => some (execFcmpLt h kt kf a b d)
  | .fcmpGe h kt kf a b d => some (execFcmpGe h kt kf a b d)
  | .fcmpUn h kt kf a b d => some (execFcmpUn h kt kf a b d)
  | .fcvt h r a src dst rnd => some (execFcvt h r a src dst rnd)
  | .fclass h r a d => some (execFclass h r a d)
  | .vadd h d a b => some (execVadd h d a b)
  | .vsub h d a b => some (execVsub h d a b)
  | .vmul h d a b => some (execVmul h d a b)
  | .vmin h d a b => some (execVmin h d a b)
  | .vmax h d a b => some (execVmax h d a b)
  | .vand h d a b => some (execVand h d a b)
  | .vor h d a b => some (execVor h d a b)
  | .vxor h d a b => some (execVxor h d a b)
  | .vandn h d a b => some (execVandn h d a b)
  | .vshl h d a b => some (execVshl h d a b)
  | .vshr h d a b => some (execVshr h d a b)
  | .vsra h d a b => some (execVsra h d a b)
  | .vfma h d a b c => some (execVfma h d a b c)
  | .vfms h d a b c => some (execVfms h d a b c)
  | .vfnma h d a b c => some (execVfnma h d a b c)
  | .vcmpEq h d a b => some (execVcmpEq h d a b)
  | .vcmpNe h d a b => some (execVcmpNe h d a b)
  | .vcmpLt h d a b => some (execVcmpLt h d a b)
  | .vcmpGe h d a b => some (execVcmpGe h d a b)
  | .vcmpLtu h d a b => some (execVcmpLtu h d a b)
  | .vcmpGeu h d a b => some (execVcmpGeu h d a b)
  | .vcmpUn h d a b => some (execVcmpUn h d a b)
  | .vsel h d k a b => some (execVsel h d k a b)
  | .vabs h d a => some (execVabs h d a)
  | .vneg h d a => some (execVneg h d a)
  | .vdot h d a b seg => some (execVdot h d a b seg)
  | .vsum h d a seg => some (execVsum h d a seg)
  | .vcvt h d a t sb ctl => some (execVcvt h d a t sb ctl)
  | .vtag h d a t => some (execVtag h d a t)
  | .vgtag h d a => some (execVgtag h d a)
  | .vsplat h d a t => some (execVsplat h d a t)
  | .vext h d a l => some (execVext h d a l)
  | .vins h d a x l => some (execVins h d a x l)
  | .vperm h d a b => some (execVperm h d a b)
  | .vpack h d a b t => some (execVpack h d a b t)
  | .vunpkLo h d a t => some (execVunpkLo h d a t)
  | .vunpkHi h d a t => some (execVunpkHi h d a t)
  | .vsfnExp2 h d a => some (execVsfnExp2 h d a)
  | .vsfnLog2 h d a => some (execVsfnLog2 h d a)
  | .vsfnRcp h d a => some (execVsfnRcp h d a)
  | .vsfnRsqrt h d a => some (execVsfnRsqrt h d a)
  | .vsfnTanh h d a => some (execVsfnTanh h d a)
  | .vsfnSigm h d a => some (execVsfnSigm h d a)
  | .vsfnSilu h d a => some (execVsfnSilu h d a)
  | .vsfnErf h d a => some (execVsfnErf h d a)
  | .ld h d ea sz => some (execLd h d ea sz)
  | .ldSx h d ea sz => some (execLdSx h d ea sz)
  | .ldv h d ea sz => some (execLdv h d ea sz)
  | .ldc h d ea sz => some (execLdc h d ea sz)
  | .ldcSx h d ea sz => some (execLdcSx h d ea sz)
  | _ => none

end Sys2Proof.Machine
end

