-- ==== Sys2Proof/Machine/Rings.lean ====
section
/-! DEFINITION. Rings: claims in circular order, takes in publication order, the waiters, and the ring instructions
(R23, R273 to R276, R301 to R305, R441). -/

namespace Sys2Proof.Machine

/-! ## The states of slots (R273, R274) -/

def Ring.setSlot (r : Ring) (i : Nat) (x : Slot) : Ring := { r with slots := r.slots.set i x }

/-- The ranks of R274 of those that ask for a slot in one cycle: the core's own contexts, its matrix engine, its own copy engine,
its loader or storer, `gemv` results, and deliveries from other cores by their identifiers; replies come last (log 41). -/
def rankCtx : Nat := 0
def rankEngine : Nat := 1
def rankMover : Nat := 3
def rankGemv : Nat := 4
def rankDelivery (own src : CoreId) : Nat := if src = own then 2 else 5 + src.toNat
def rankReply : Nat := 5 + 65536

/-- A request is heard in a cycle unless one of a later rank has been heard in it: then it is heard in the next (R274). -/
def hears (last : Nat × Nat) (now rank : Nat) : Bool := !(last.1 == now && decide (rank < last.2))

/-- A producer claims the position after the last one claimed, if it is free and nobody waits before it; otherwise it
waits. -/
def Ring.claim (r : Ring) (now rank : Nat) (w : Waiter) (h : Holder) : Option Nat × Ring :=
  if !hears r.heardFree now rank then (none, r)
  else
    let r := { r with heardFree := (now, rank) }
    let i := r.nextPos
    let first := match r.waitFree with
      | [] => true
      | x :: _ => x == w
    if first && r.slots.getD i (.filled []) == .free then
      (some i, { (r.setSlot i (.reserved h)) with nextPos := (i + 1) % r.slots.length, waitFree := r.waitFree.erase w })
    else (none, { r with waitFree := if r.waitFree.contains w then r.waitFree else r.waitFree ++ [w] })

/-- A consumer takes the oldest filled slot, with the release its publication carries; otherwise it waits. -/
def Ring.take (r : Ring) (now rank : Nat) (w : Waiter) (h : Holder) : Option (Nat × List AcqEntry) × Ring :=
  if !hears r.heardFill now rank then (none, r)
  else
    let r := { r with heardFill := (now, rank) }
    let first := match r.waitFill with
      | [] => true
      | x :: _ => x == w
    match r.filledOrder with
    | i :: rest =>
      if first then
        let rel := match r.slots.getD i .free with
          | .filled t => t
          | _ => []
        (some (i, rel), { (r.setSlot i (.taken h)) with filledOrder := rest, waitFill := r.waitFill.erase w })
      else (none, { r with waitFill := if r.waitFill.contains w then r.waitFill else r.waitFill ++ [w] })
    | [] => (none, { r with waitFill := if r.waitFill.contains w then r.waitFill else r.waitFill ++ [w] })

/-- A reserved slot becomes filled. -/
def Ring.publish (r : Ring) (i : Nat) (rel : List AcqEntry) : Ring :=
  { (r.setSlot i (.filled rel)) with filledOrder := r.filledOrder ++ [i] }

/-- A taken or reserved slot becomes free. -/
def Ring.free (r : Ring) (i : Nat) : Ring := r.setSlot i .free

/-- The slot that starts at a local address. -/
def Ring.slotAt (r : Ring) (a : Nat) : Option Nat :=
  if a < r.base.toNat ∨ (a - r.base.toNat) % 2 ^ r.lg ≠ 0 then none
  else
    let i := (a - r.base.toNat) / 2 ^ r.lg
    if i < r.slots.length then some i else none

/-- The holder is no context. -/
def deviceHolds : Holder → Bool
  | .ctx _ => false
  | _ => true

/-- A slot is reserved by a producer other than a context (R301). -/
def Ring.deviceReserved (r : Ring) : Bool := r.slots.any (fun x => match x with
  | .reserved h => deviceHolds h
  | _ => false)

/-- A slot is taken by the matrix engine or the storer (R305). -/
def Ring.deviceTaken (r : Ring) : Bool := r.slots.any (fun x => match x with
  | .taken h => deviceHolds h
  | _ => false)

/-- The waiter leaves both lists of a ring. -/
def Ring.forget (r : Ring) (w : Waiter) : Ring := { r with waitFree := r.waitFree.erase w, waitFill := r.waitFill.erase w }

/-! ## Definitions (R301, R305, R441) -/

/-- The bytes of a tile of a record. -/
def Desc.tileSize (d : Desc) : Nat := d.tile.foldl (· * ·) 1 * d.bits / 8

/-- The bytes of a tile of a TID. -/
def tidSize (s : State) (t : Tenant) (tid : Tid) : Nat :=
  match s.desc t tid with
  | some d => d.tileSize
  | none => 0

/-- The bytes of a tile of a captured record. -/
def DescCap.size (c : DescCap) : Nat := c.tile0 * c.tile1 * c.tag.width / 8

/-- The bytes of a result of a `gemv` that are still to be delivered to its ring. -/
def GemvOp.resLeft (g : GemvOp) : Nat := (g.gN - g.done) * (if g.bf16 then 2 else 4)

/-- The bytes a waiter needs in a slot that had 2^old bytes: a delivery's own, a tile's, and of a `gemv` result the slot that it
would have filled (R441, DEDUCED, log 35). -/
def waiterNeeds (s : State) (core : CoreId) (old : Nat) (w : Waiter) : Nat :=
  match w with
  | .ctx _ => 0
  | .pkt id => (match s.net.find? (fun p => p.id == id) with
    | some p => (match p.msg with
      | .delivery _ _ data => data.length
      | _ => 0)
    | none => 0)
  | .op id => (match (s.core core).ops.find? (fun o => o.id == id) with
    | some o => (match o.op with
      | .load tid .. | .drain tid .. => tidSize s o.tenant tid
      | _ => 0)
    | none => (match (s.core core).gemvs.find? (fun g => g.id == id) with
      | some g => min (2 ^ old) g.resLeft
      | none => 0))
  | .engine id => (match (s.core core).engine.find? (fun e => e.id == id) with
    | some e => (if e.op = .mma && e.slotA.isSome then e.capB.size else e.capA.size)
    | none => 0)

def waiterIsCtx : Waiter → Bool
  | .ctx _ => true
  | _ => false

/-- The new definition of a ring: every slot free, slot 0 next; waiters that no longer fit are cut short. -/
def defineRing (s : State) (core : CoreId) (ring : BitVec 4) (base lg n : Nat) : State :=
  let k := s.core core
  let r := k.ring ring
  let small (w : Waiter) : Bool := decide (2 ^ lg < waiterNeeds s core r.lg w)
  let cut := (r.waitFree ++ r.waitFill).filter small
  let r := { r with
    defined := true, base := BitVec.ofNat 17 base, lg := lg, slots := List.replicate n .free, nextPos := 0, filledOrder := []
    waitFree := r.waitFree.filter (fun w => !small w), waitFill := r.waitFill.filter (fun w => !small w), defNum := r.defNum + 1 }
  s.setCore core { (k.setRing ring r) with cuts := k.cuts ++ cut.map (fun w => (ring, w)) }

/-- A ring is undefined: contexts held in `racq` raise RING, every other waiter is cut short. -/
def undefineRing (s : State) (core : CoreId) (ring : BitVec 4) : State :=
  let k := s.core core
  let r := k.ring ring
  let ws := r.waitFree ++ r.waitFill
  let k := { (k.setRing ring { lg := r.lg, defNum := r.defNum + 1 }) with
    cuts := k.cuts ++ (ws.filter (fun w => !waiterIsCtx w)).map (fun w => (ring, w)) }
  ws.foldl (fun s w => match w with
    | .ctx n => takeTrap s core n .ring (ring.setWidth 64) (s.ctx core n).pc false
    | _ => s) (s.setCore core k)

/-- A defined ring of the core shares a byte with a range. -/
def ringOverlap (k : Core) (ring : BitVec 4) (base size : Nat) : Option Nat :=
  match k.rings.find? (fun e => e.2.defined && e.1 != ring.toNat
      && decide (e.2.base.toNat < base + size) && decide (base < e.2.base.toNat + e.2.slots.length * 2 ^ e.2.lg)) with
  | some e => some e.1
  | none => none

def rdefEff (base : SReg) (lg n : SCon) (ring : BitVec 4) (s : State) : Eff :=
  let b := readS s.me base
  let l := (readSC s.me lg).toNat
  let c := (readSC s.me n).toNat
  if l < 6 ∨ 14 < l then .trap .illegal 50
  else if c < 2 ∨ 64 < c then .trap .illegal 59
  else if b.toNat % 2 ^ l ≠ 0 then .trap .align b
  else if !isLocal b || decide (s.myCore.scratch < b.toNat + c * 2 ^ l) then .trap .xlatePerm b
  else match ringOverlap s.myCore ring b.toNat (c * 2 ^ l) with
    | some r => .trap .ring (BitVec.ofNat 64 r)
    | none =>
      if (s.myCore.ring ring).defined && (s.myCore.ring ring).deviceReserved then .hold s
      else .done (defineRing s s.curCore ring b.toNat l c)

def rresEff (ring : BitVec 4) (s : State) : Eff :=
  let r := s.myCore.ring ring
  if !r.defined then .done s
  else if r.deviceReserved || r.deviceTaken then .hold s
  else .done (undefineRing s s.curCore ring)

/-! ## Slots and contexts (R302, R303) -/

def racqEff (d : SReg) (ring : BitVec 4) (s : State) : Eff :=
  if !(s.myCore.ring ring).defined then .trap .ring (ring.setWidth 64)
  else withReports s (fun s =>
    let r := s.myCore.ring ring
    match r.take s.now rankCtx (.ctx s.curCtx) (.ctx s.myHandle) with
    | (some (i, rel), r') =>
      let s := s.setMyCore (s.myCore.setRing ring r')
      let s := acquireInto s s.curCore s.curCtx rel
      .done (wrS s d (BitVec.ofNat 64 (r.slotBase i)))
    | (none, r') => .hold (s.setMyCore (s.myCore.setRing ring r')))

def racqFreeEff (d : SReg) (ring : BitVec 4) (s : State) : Eff :=
  let r := s.myCore.ring ring
  if !r.defined then .trap .ring (ring.setWidth 64)
  else match r.claim s.now rankCtx (.ctx s.curCtx) (.ctx s.myHandle) with
    | (some i, r') => .done (wrS (s.setMyCore (s.myCore.setRing ring r')) d (BitVec.ofNat 64 (r.slotBase i)))
    | (none, r') => .hold (s.setMyCore (s.myCore.setRing ring r'))

/-- The slot that starts at an address, in a given state of this context. -/
def withSlot (a : SReg) (ring : BitVec 4) (want : Slot) (s : State) (k : Ring → Nat → Eff) : Eff :=
  let r := s.myCore.ring ring
  let bad : Eff := .trap .ring (ring.setWidth 64)
  if !r.defined then bad
  else match r.slotAt (readS s.me a).toNat with
    | some i => if r.slots.getD i .free == want then k r i else bad
    | none => bad

/-- A taken slot becomes free once the context's own reads of it have been made (R275). -/
def rrelEff (a : SReg) (ring : BitVec 4) (s : State) : Eff :=
  withSlot a ring (.taken (.ctx s.myHandle)) s (fun r i =>
    if s.myCore.workTouches s.myHandle false (r.slotBase i) (2 ^ r.lg) then .hold s else .done (s.setMyCore (s.myCore.setRing ring (r.free i))))

/-- A publication waits for every write of its producer to the slot (R275). -/
def rpubEff (a : SReg) (ring : BitVec 4) (s : State) : Eff :=
  withSlot a ring (.reserved (.ctx s.myHandle)) s (fun r i =>
    withRelease s (fun s =>
      if s.myCore.workTouches s.myHandle true (r.slotBase i) (2 ^ r.lg) then .hold s
      else
        let (tbl, s) := releaseMine s
        .done (s.setMyCore (s.myCore.setRing ring (r.publish i tbl)))))

/-- `rdef` (R301). -/
def execRdef (h : Header) (base : SReg) (lg n : SCon) (ring : BitVec 4) (s : State) : Host.Outcome State Fault Refusal :=
  issue (.rdef h base lg n ring) (rdefEff base lg n ring) s

/-- `racq` (R302). -/
def execRacq (h : Header) (d : SReg) (ring : BitVec 4) (s : State) : Host.Outcome State Fault Refusal :=
  issue (.racq h d ring) (racqEff d ring) s

/-- `racq.free` (R302). -/
def execRacqFree (h : Header) (d : SReg) (ring : BitVec 4) (s : State) : Host.Outcome State Fault Refusal :=
  issue (.racqFree h d ring) (racqFreeEff d ring) s

/-- `rrel` (R303). -/
def execRrel (h : Header) (a : SReg) (ring : BitVec 4) (s : State) : Host.Outcome State Fault Refusal :=
  issue (.rrel h a ring) (rrelEff a ring) s

/-- `rres` (R305). -/
def execRres (h : Header) (ring : BitVec 4) (s : State) : Host.Outcome State Fault Refusal :=
  issue (.rres h ring) (rresEff ring) s

/-- `rpub` (R303). -/
def execRpub (h : Header) (a : SReg) (ring : BitVec 4) (s : State) : Host.Outcome State Fault Refusal :=
  issue (.rpub h a ring) (rpubEff a ring) s

end Sys2Proof.Machine
end

