-- ==== Sys2Proof/Machine/Tasks.lean ====
section
/-! DEFINITION. Continuations, stages and queues, join counters, index ranges and system calls, with the events that
serve them (R222 to R243, R368). -/

namespace Sys2Proof.Machine

/-! ## Stages and their cores (R227, R228, R235) -/

/-- A core is assigned to a stage of a tenant. -/
def assignedTo (s : State) (core : CoreId) (t : Tenant) (st : BitVec 6) : Bool := (s.core core).stage == some (t, st)

/-- The listed cores assigned to a stage on a die, ascending. -/
def stageCores (s : State) (t : Tenant) (st : BitVec 6) (d : Die) : List CoreId :=
  ((s.cores.filter (fun e => e.2.stage == some (t, st))).map (fun e => (BitVec.ofNat 16 e.1 : CoreId))).filter (fun c => coreDie c == d)

/-- The free pool of a tenant on a die: its cores with no stage that are in flowing mode, or have left it with helpers that are not
idle yet (R235). -/
def freePool (s : State) (t : Tenant) (d : Die) : List CoreId :=
  ((s.cores.filter (fun e => (domFlowing e.2.dom || e.2.leaving) && e.2.stage.isNone)).map (fun e => (BitVec.ofNat 16 e.1 : CoreId))).filter
    (fun c => coreDie c == d && s.tenantOf c == t)

def helpersIdle (k : Core) : Bool := helpers.all (fun n => (k.ctx n).run == .idle)

/-- A core joins a stage: its idle helpers ask from then on. -/
def assignCore (s : State) (c : CoreId) (st : Option (Tenant × BitVec 6)) : State :=
  s.setCore c { s.core c with stage := st, asked := s.clock }

/-- The effective priority of a record that has waited w cycles (R227). -/
def effPri (pri : BitVec 2) (w : Nat) : Nat := min 3 (pri.toNat + w / 65536)

def RecEntry.eff (e : RecEntry) (now : Nat) : Nat := effPri e.r.pri (now - e.entry)

/-- The record served first: the highest effective priority, then the first that entered. -/
def bestRecord (now : Nat) : List RecEntry → Option RecEntry
  | [] => none
  | e :: t => match bestRecord now t with
    | none => some e
    | some b => if e.eff now < b.eff now then some b else some e

/-! ## Checks shared by the instructions -/

/-- A stage number of the issuing tenant that is declared. -/
def withStage (x : Word) (s : State) (k : BitVec 6 → Stage → Eff) : Eff :=
  if 63 < x.toNat then .trap .illegal 50
  else
    let n : BitVec 6 := x.setWidth 6
    if (s.stage s.myTenant n).declared then k n (s.stage s.myTenant n) else .trap .illegal 50

/-- An instruction that is held because a stage is full says so to the balancers (R236). -/
def holdFull (s : State) (n : BitVec 6) : Eff :=
  .hold (s.setStage s.myTenant n { s.stage s.myTenant n with heldFull := BitVec.allOnes 8 })

/-- A try form writes its predicate; a plain form only goes on. -/
def wrTry (k : Option KReg) (x : Bool) (s : State) : State :=
  match k with
  | some kd => wrK s kd x
  | none => s

/-! ## `park` (R225, R226) -/

/-- The fields of an event word. -/
def evKind (w : Word) : Nat := (w.extractLsb' 60 4).toNat
def evStage (w : Word) : BitVec 6 := w.extractLsb' 54 6
def evPri (w : Word) : BitVec 2 := w.extractLsb' 52 2

/-- The bits that a KIND leaves reserved. -/
def evReserved (w : Word) : Bool :=
  w.extractLsb' 16 36 != 0 || (match evKind w with
    | 1 => w.extractLsb' 4 12 != 0
    | 2 => w.extractLsb' 5 11 != 0
    | 3 => w.extractLsb' 13 3 != 0
    | _ => w.extractLsb' 0 16 != 0)

/-- A till that a record of a tenant may be bound to (R225). -/
def tillFit (x : Till) (t : Tenant) : Bool :=
  x.owned && x.owner == t && actKind x.act == 2 && x.arg == 0 && x.bound.isNone && (x.armed || (x.fired && !x.started))

/-- An event word whose KIND or reserved bits no state makes good (R225). -/
def eventWordBad (w : Word) : Bool := !(decide (1 ≤ evKind w) && decide (evKind w ≤ 5) && !evReserved w)

/-- Check 2 of R226. -/
def eventWordOk (s : State) (w : Word) : Bool :=
  decide (1 ≤ evKind w) && decide (evKind w ≤ 5) && !evReserved w && (s.stage s.myTenant (evStage w)).declared
    && (evKind w != 2 || (s.myCore.ring (w.extractLsb' 0 4)).defined)
    && (evKind w != 3 || tillFit (s.till (w.setWidth 13)) s.myTenant)

/-- The event that a `park` of the issuing context binds. -/
def boundEvent (s : State) (w : Word) : ParkEvent :=
  match evKind w with
  | 1 => .batch (w.setWidth 4)
  | 2 => .ring (w.setWidth 4) (w.getLsbD 4)
  | 3 => .till (w.setWidth 13)
  | 4 => .gemv s.me.gemvLast
  | _ => .strong (s.me.strongPrev.getD 0) ((s.me.calls.filter (·.2)).map (·.1))

/-- The EVVAL of an event of a parked record that has completed. A ring of a core that another tenant holds by now is not the
record's any more (R4). A record that waits for the `gemv` of a context that has issued none completes at once (DESIGN CHOICE,
log 40). -/
def eventValue (s : State) (e : RecEntry) : Option Word :=
  let k := s.core (handleCore e.owner)
  let mine := s.tenantOf (handleCore e.owner) == e.r.tenant
  match e.ev with
  | some (.batch n) => if k.ops.any (fun o => o.owner == e.owner && BitVec.ofNat 4 o.batch == n) then none else some 0
  | some (.ring r free) =>
    let x := k.ring r
    if mine && x.defined && (if free then x.slots.getD x.nextPos (.filled []) == .free else !x.filledOrder.isEmpty) then
      some (BitVec.ofNat 64 x.filledOrder.length)
    else none
  | some (.till t) => let x := s.till t
                      if x.fired && !x.started then some (BitVec.ofNat 64 x.count) else none
  | some (.gemv id) =>
    (match id with
     | none => some 0
     | some i => if k.gemvs.any (fun g => g.id == i) || k.engine.any (fun g => g.id == i) then none else some 0)
  | some (.strong q pending) => if pending.isEmpty then some (q.setWidth 64) else none
  | none => none

/-- What the completion of a bound event hands to the resumption: the publication that filled the ring, the firing of
the till (R243, R334). -/
def eventRelease (s : State) (e : RecEntry) : List AcqEntry :=
  match e.ev with
  | some (.ring r false) =>
    let x := (s.core (handleCore e.owner)).ring r
    (match x.filledOrder with
     | i :: _ => (match x.slots.getD i .free with
       | .filled t => t
       | _ => [])
     | [] => [])
  | some (.till id) => [tillEntry id (s.till id).arm]
  | _ => []

/-- A till whose firing starts the record has started one (R225). -/
def eventStarts (s : State) (e : RecEntry) : State :=
  match e.ev with
  | some (.till id) => s.setTill id { s.till id with bound := none, started := true }
  | _ => s

/-- The record that a `park` builds, with what stands beside it. -/
def parkRecord (s : State) (w mask : Word) (tbl : List AcqEntry) : RecEntry :=
  let c := s.me
  let (regs, tags) := packLive c mask
  { r := { id := s.nextId, pri := evPri w, stage := evStage w, tenant := s.myTenant, pc := c.pc + 16, mask := mask
           join := c.joinVal, vtags := tags, regs := regs }
    home := if evKind w = 1 ∨ evKind w = 2 ∨ evKind w = 4 then some s.curCore else none
    owner := s.myHandle, ev := some (boundEvent s w), src := s.curCore, rel := tbl, lineage := c.lineage }

/-- The record stands parked, or enters its queue when its event has completed; the context becomes idle. -/
def parkNow (w mask : Word) (s : State) : State :=
  let t := s.myTenant
  let (tbl, s) := releaseMine s
  let e := parkRecord s w mask tbl
  let s := { quotaTake s t 2 0 1 with nextId := s.nextId + 1 }
  let s := match eventValue s e with
    | some v =>
      let tl := eventRelease s e
      let s := eventStarts s e
      resumeParked s t e.r.stage e v tl
    | none =>
      let s := match e.ev with
        | some (.till id) => s.setTill id { s.till id with bound := some e.r.stage }
        | _ => s
      let x := s.stage t e.r.stage
      s.setStage t e.r.stage { x with parked := x.parked ++ [e] }
  becomeIdle s s.curCore s.curCtx

/-- Checks 1 to 3 are made at the issue; after the hold for posted stores only the till is checked again. Where the home of the stage is
out of service the record is dropped, an orphan, and the context is idle, in the try form too (DESIGN CHOICE, log 59). -/
def parkEff (k : Option KReg) (ev live : SReg) (s : State) : Eff :=
  let w := readS s.me ev
  let mask := readS s.me live
  let st := s.stage s.myTenant (evStage w)
  let checked := s.me.pend == .checked
  if s.curCtx = 15 then .trap .priv 0
  else if !checked && !eventWordOk s w then .trap .illegal 50
  else if maskBad mask then .trap .illegal 59
  else if !reportsSettled s then .hold (s.setMe { s.me with pend := .checked })
  else if evKind w == 3 && !tillFit (s.till (w.setWidth 13)) s.myTenant then .trap .illegal 50
  else if !reachable s (coreDie s.curCore) st.home then .gone (becomeIdle (orphanAtIssuer s s.curCore) s.curCore s.curCtx)
  else if !quotaFits s s.myTenant 2 0 1 then
    (match k with
     | some kd => .done (wrK s kd false)
     | none => .trap .quota 0)
  else if st.full then
    (match k with
     | some kd => .done (wrK s kd false)
     | none => holdFull (s.setMe { s.me with pend := .checked }) (evStage w))
  else withExchange st.home true (fun s => .gone (parkNow w mask s)) (s.setMe { s.me with pend := .checked })

/-- `park` (R226). -/
def execPark (h : Header) (ev live : SReg) (s : State) : Host.Outcome State Fault Refusal :=
  issue (.park h ev live) (parkEff none ev live) s

/-- `park.try` (R226). -/
def execParkTry (h : Header) (k : KReg) (ev live : SReg) (s : State) : Host.Outcome State Fault Refusal :=
  issue (.parkTry h k ev live) (parkEff (some k) ev live) s

/-- PARK_EVENT_COMPLETE (R225): the record of a stage named by the pick enters its queue if its event has completed. -/
def execParkEventComplete (s : State) : Host.Outcome State Fault Refusal :=
  let x := s.stage s.pick.tenant s.pick.stage
  match x.parked.find? (fun e => e.r.id == s.pick.id) with
  | none => .next s
  | some e =>
    match eventValue s e with
    | none => .next s
    | some v =>
      let tl := eventRelease s e
      let s := eventStarts s e
      .next (resumeParked (s.setStage s.pick.tenant s.pick.stage { x with parked := x.parked.erase e }) s.pick.tenant s.pick.stage e v tl)

/-! ## `enq` (R229) -/

/-- The end of an `enq`: the record's quota, the stage's room, and the queue. -/
def enqueue (k : Option KReg) (n : BitVec 6) (bs : List Byte) (s : State) : Eff :=
  let t := s.myTenant
  let x := s.stage t n
  if !reachable s (coreDie s.curCore) x.home then .done (wrTry k false (orphanAtIssuer (releaseMine s).2 s.curCore))
  else if !quotaFits s t 2 0 1 then
    (match k with
     | some kd => .done (wrK s kd false)
     | none => .trap .quota 0)
  else if x.full then
    (match k with
     | some kd => .done (wrK s kd false)
     | none => holdFull s n)
  else withRequest [320] x.home true 0 (fun s =>
    let (tbl, s) := releaseMine s
    let r := { recOfBytes bs with stage := n, tenant := t, id := s.nextId }
    let s := enterQueue { quotaTake s t 2 0 1 with nextId := s.nextId + 1 } t n { r := r, src := s.curCore, rel := tbl }
    .done (wrTry k true s)) s

def enqEff (k : Option KReg) (stg : SCon) (a : SReg) (s : State) : Eff :=
  withStage (readSC s.me stg) s (fun n _ =>
    withRecord false (readS s.me a) 320 64 s (fun s bs =>
      match recFault false bs with
      | some o => .trap .illegal (BitVec.ofNat 64 (128 + o))
      | none => withRelease s (enqueue k n bs)))

/-- `enq` (R229). -/
def execEnq (h : Header) (stg : SCon) (a : SReg) (s : State) : Host.Outcome State Fault Refusal :=
  issue (.enq h stg a) (enqEff none stg a) s

/-- `enq.try` (R229). -/
def execEnqTry (h : Header) (k : KReg) (stg : SCon) (a : SReg) (s : State) : Host.Outcome State Fault Refusal :=
  issue (.enqTry h k stg a) (enqEff (some k) stg a) s

/-! ## Dispatch (R224, R228, R238) -/

/-- What a core of a stage can start. -/
inductive Work where
  | record (e : RecEntry)
  | chunk (q : Nat)

/-- The next undealt chunk that a die's distributor holds. -/
def Range.nextOn (r : Range) (d : Die) : Option Nat := (r.dealt.find? (fun e => e.1 == d)).map (·.2)

/-- The work served to a core: records that may run on it, and the chunks dealt to its die, in one order of priority; those of
one level and one cycle by the core that sent them (R227). -/
def workFor (s : State) (t : Tenant) (st : BitVec 6) (core : CoreId) : Option Work :=
  let x := s.stage t st
  let now := (s.die x.home).cycle
  let may (e : RecEntry) : Bool := match e.home with
    | some c => c == core || !assignedTo s c t st
    | none => true
  let rec1 := bestRecord now (x.queue.filter may)
  let chunk := x.range.bind (fun r => (r.nextOn (coreDie core)).map (fun q => (q, r)))
  match rec1, chunk with
  | some e, none => some (.record e)
  | none, some (q, _) => some (.chunk q)
  | none, none => none
  | some e, some (q, r) =>
    let pc := effPri x.pri (now - r.retired)
    let pe := e.eff now
    let first := decide (r.retired < e.entry) || (r.retired == e.entry && decide (r.src.toNat < e.src.toNat))
    if pe < pc ∨ (pe = pc ∧ first) then some (.chunk q) else some (.record e)

/-- A record starts on a context (R224): its quota unit comes back. -/
def startRecord (s : State) (core : CoreId) (n : CtxNum) (t : Tenant) (st : BitVec 6) (e : RecEntry) : State :=
  let x := s.stage t st
  let s := s.setStage t st { x with queue := x.queue.erase e }
  let s := if e.quota then quotaReturn s t 2 0 1 else s
  let s := startCtx s core n e.r.pc e.r.evval e.r.join e.rel
  s.setCtx core n { loadLive (s.ctx core n) e.r with joinVal := e.r.join, lineage := e.lineage }

/-- The bounds of chunk q. -/
def Range.bounds (r : Range) (q : Nat) : Word × Word :=
  let lo := r.first.toNat + q * r.chunk
  (BitVec.ofNat 64 lo, BitVec.ofNat 64 (min (lo + r.chunk) r.last.toNat))

/-- A chunk starts on a context (R238). -/
def startChunk (s : State) (core : CoreId) (n : CtxNum) (t : Tenant) (st : BitVec 6) (q : Nat) : State :=
  let x := s.stage t st
  match x.range with
  | none => s
  | some r =>
    let run := s.nextId
    let s := s.setStage t st { x with range := some { r with dealt := r.dealt.erase (coreDie core, q), started := r.started ++ [(q, run)] } }
    let s := startCtx { s with nextId := run + 1 } core n x.distPc (r.bounds q).1 (r.bounds q).2 r.rel
    s.setCtx core n { s.ctx core n with lineage := some { tenant := t, stage := st, range := r.id, chunk := q, run := run } }

/-- A message that has arrived names an idle context: it takes it before a dispatch and a `start` (R199, R228). -/
def messageDue (s : State) (core : CoreId) (n : CtxNum) : Bool :=
  s.net.any (fun p => match p.msg with
    | .amsg t _ _ _ _ => t == core ++ n && arrivable s p && !p.waiting
    | _ => false)

/-- The lowest idle helper that no message takes. -/
def idleHelper (s : State) (core : CoreId) : Option CtxNum :=
  helpers.find? (fun n => (s.ctx core n).run == .idle && !messageDue s core n)

/-- Two cores are served the same piece of work. -/
def sameWork : Option Work → Work → Bool
  | some (.record a), .record b => a == b
  | some (.chunk a), .chunk b => a == b
  | _, _ => false

/-- The core that sent a piece of work. -/
def Work.src (w : Work) (x : Stage) : CoreId :=
  match w with
  | .record e => e.src
  | .chunk _ => (x.range.map (·.src)).getD 0

/-- What a core dispatches now: it is the first that asked of those that the work is served to, those of one cycle by their
identifiers (R228), and the record can cross to its die. -/
def dispatchFor (s : State) (core : CoreId) : Option (Tenant × BitVec 6 × CtxNum × Work) :=
  match (s.core core).stage, idleHelper s core with
  | some (t, st), some n =>
    if !s.inService (coreDie core) then none
    else (match workFor s t st core with
      | none => none
      | some w =>
        let mine := (s.core core).asked
        let rival (c : CoreId) : Bool :=
          c != core && s.inService (coreDie c) && (s.core c).hasIdle && sameWork (workFor s t st c) w
            && (decide ((s.core c).asked < mine) || ((s.core c).asked == mine && decide (c.toNat < core.toNat)))
        let cores := (s.cores.filter (fun e => e.2.stage == some (t, st))).map (fun e => (BitVec.ofNat 16 e.1 : CoreId))
        if cores.any rival || (crossing s (s.stage t st).home (coreDie core) true).isNone then none else some (t, st, n, w))
  | _, _ => none

/-- RECORD_DISPATCH (R228, R238): the core named by the pick asks its stage, and its lowest idle helper starts what is
served. The dispatch is charged after the fact to the purse of what it serves (R371). -/
def execRecordDispatch (s : State) : Host.Outcome State Fault Refusal :=
  let core := s.pick.core
  match dispatchFor s core with
  | none => .next s
  | some (t, st, n, w) =>
    let x := s.stage t st
    let s := chargeAfter ((crossing s x.home (coreDie core) true).getD s) t (coreDie (w.src x)) x.home 0
    let s := s.setCore core { s.core core with asked := s.clock }
    .next (match w with
      | .record e => startRecord s core n t st e
      | .chunk q => startChunk s core n t st q)

/-! ## `start` (R199) -/

/-- `start` after its release: a helper starts, the try form reports, or the plain form is held. A dispatch that is due comes
first (R228). -/
def startEff (d : SReg) (k : Option KReg) (p : SReg) (a b : SCon) (s : State) : Eff :=
  if s.curCtx ≠ 0 then .trap .priv 0
  else
    let pc := readS s.me p
    if pc % 16 ≠ 0 then .trap .align pc
    else
      let a1 := readSC s.me a
      let a2 := readSC s.me b
      withRelease s (fun s =>
        if (dispatchFor s s.curCore).isSome then .hold s
        else match idleHelper s s.curCore with
        | some n =>
          let (tbl, s) := releaseMine s
          let s := startCtx s s.curCore n pc a1 a2 tbl
          let s := s.setCtx s.curCore n { s.ctx s.curCore n with lineage := s.me.lineage }
          let s := wrS s d ((s.handle s.curCore n).setWidth 64)
          .done (wrTry k true s)
        | none => match k with
          | some kd => .done (wrK (wrS s d 0) kd false)
          | none => .hold s)

/-- `start` (R199). -/
def execStart (h : Header) (d p : SReg) (a b : SCon) (s : State) : Host.Outcome State Fault Refusal :=
  issue (.start h d p a b) (startEff d none p a b) s

/-- `start.try` (R199). -/
def execStartTry (h : Header) (d : SReg) (k : KReg) (p : SReg) (a b : SCon) (s : State) : Host.Outcome State Fault Refusal :=
  issue (.startTry h d k p a b) (startEff d (some k) p a b) s

/-! ## Join counters (R230 to R232) -/

def mkCounter (gen : BitVec 16) (t : Tenant) (d : Die) (slot : Nat) : Word :=
  gen ++ t ++ (0 : BitVec 9) ++ d ++ BitVec.ofNat 29 slot

def counterHome (h : Word) : Die := h.extractLsb' 29 3
def counterSlot (h : Word) : Nat := (h.extractLsb' 0 29).toNat

/-- The lowest counter slot of a sector that is not used. -/
def freeCounter (k : Sector) : Nat :=
  ((List.range (k.counters.length + 1)).find? (fun i => !(sparseGet ({} : Counter) k.counters i).used)).getD k.counters.length

/-- The end of a `jinit`: the quotas, the parent's place in its stage, and the counter, at a home that has been fenced too (DESIGN
CHOICE, log 44). -/
def createCounter (d : SReg) (k : Option KReg) (n : Nat) (bs : List Byte) (s : State) : Eff :=
  let t := s.myTenant
  let r := { recOfBytes bs with tenant := t }
  let x := s.stage t r.stage
  let no (s : State) : Eff := .done (wrTry k false (wrS s d 0))
  if !(quotaFits s t 3 0 1 && quotaFits s t 2 0 1) then (if k.isSome then no s else .trap .quota 0)
  else if x.full then (if k.isSome then no s else .hold s)
  else withExchange x.home true (fun s =>
    let sec := s.sector x.home
    let slot := freeCounter sec
    let old := sparseGet ({} : Counter) sec.counters slot
    let s := quotaTake (quotaTake s t 3 0 1) t 2 0 1
    let s := s.setStage t r.stage { s.stage t r.stage with parents := x.parents + 1 }
    let s := s.setSector x.home { s.sector x.home with
      counters := sparsePut sec.counters slot { gen := old.gen, used := true, tenant := t, count := n, parent := { r with id := s.nextId } } }
    .done (wrTry k true (wrS { s with nextId := s.nextId + 1 } d (mkCounter old.gen t x.home slot)))) s

def jinitEff (d : SReg) (k : Option KReg) (n : SCon) (a : SReg) (s : State) : Eff :=
  let c := (readSC s.me n).toNat
  if c = 0 ∨ 2 ^ 24 ≤ c then .trap .illegal 50
  else withRecord false (readS s.me a) 320 64 s (fun s bs =>
    let st : BitVec 6 := (wordAt bs 0).extractLsb' 2 6
    match recFault true bs with
    | some o => if o ≠ 0 ∧ !(s.stage s.myTenant st).declared then .trap .illegal 128 else .trap .illegal (BitVec.ofNat 64 (128 + o))
    | none => if !(s.stage s.myTenant st).declared then .trap .illegal 128 else createCounter d k c bs s)

/-- `jinit` (R231). -/
def execJinit (h : Header) (d : SReg) (n : SCon) (a : SReg) (s : State) : Host.Outcome State Fault Refusal :=
  issue (.jinit h d n a) (jinitEff d none n a) s

/-- `jinit.try` (R231). -/
def execJinitTry (h : Header) (d : SReg) (k : KReg) (n : SCon) (a : SReg) (s : State) : Host.Outcome State Fault Refusal :=
  issue (.jinitTry h d k n a) (jinitEff d (some k) n a) s

def jdoneEff (c : SReg) (s : State) : Eff :=
  let x := readS s.me c
  if x.extractLsb' 41 7 ≠ s.myTenant then .trap .tenant 0
  else withRelease s (withAdmission [8] (counterHome x) (fun s =>
    let (tbl, s) := releaseMine s
    .done (sendFrom s s.curCore s.myHandle (counterHome x) (.jdone x) tbl true)))

/-- `jdone` (R232). -/
def execJdone (h : Header) (c : SReg) (s : State) : Host.Outcome State Fault Refusal :=
  issue (.jdone h c) (jdoneEff c) s

/-- A `jdone` at the home of its counter. -/
def joinAt (s : State) (x : Word) (src : CoreId) (rel : List AcqEntry) : State :=
  let d := counterHome x
  let sec := s.sector d
  let c := sparseGet ({} : Counter) sec.counters (counterSlot x)
  if !c.used || c.gen != x.extractLsb' 48 16 || c.tenant != x.extractLsb' 41 7 || x.extractLsb' 32 9 != 0 then orphanAtIssuer s src
  else
    let rel := rel.foldl acqAdd c.rel
    if 1 < c.count then
      s.setSector d { sec with counters := sparsePut sec.counters (counterSlot x) { c with count := c.count - 1, rel := rel } }
    else
      let s := s.setSector d { sec with counters := sparsePut sec.counters (counterSlot x) { gen := c.gen + 1 } }
      let s := quotaReturn s c.tenant 3 0 1
      let st := s.stage c.tenant c.parent.stage
      let s := s.setStage c.tenant c.parent.stage { st with parents := st.parents - 1 }
      enterQueue s c.tenant c.parent.stage { r := c.parent, src := src, rel := rel }

/-- JOIN_DECREMENT (R232): the `jdone` named by the pick reaches the counter's home. -/
def execJoinDecrement (s : State) : Host.Outcome State Fault Refusal :=
  match findPkt s s.pick.id with
  | some p =>
    (match p.msg with
     | .jdone x => .next (joinAt (dropPkt s p.id) x p.src p.rel)
     | _ => .next s)
  | none => .next s

/-! ## `stdecl` and the balancer (R233 to R236) -/

/-- The lowest bit of the first failing field of a declaration, from bit 255 down (R234, R442). -/
def declFault (bs : List Byte) : Option Nat :=
  let ctrl := wordAt bs 0
  let cores := wordAt bs 8
  let min := (cores.extractLsb' 0 12).toNat
  let max := (cores.extractLsb' 16 12).toNat
  if wordAt bs 24 ≠ 0 then some 192
  else if wordAt bs 16 % 16 ≠ 0 then some 128
  else if cores.extractLsb' 28 36 ≠ 0 then some 92
  else if max < 1 ∨ 3200 < max ∨ max < min then some 80
  else if cores.extractLsb' 12 4 ≠ 0 then some 76
  else if 3200 < min then some 64
  else if ctrl.extractLsb' 27 37 ≠ 0 then some 27
  else if !(ctrl.extractLsb' 16 8).getLsbD (ctrl.extractLsb' 24 3).toNat then some 24
  else if (ctrl.extractLsb' 0 13).toNat < 1 ∨ 4096 < (ctrl.extractLsb' 0 13).toNat then some 0
  else none

/-- The fields that a declaration sets. -/
def declare (x : Stage) (bs : List Byte) : Stage :=
  let ctrl := wordAt bs 0
  let cores := wordAt bs 8
  { x with
    declared := true, distPc := wordAt bs 16, min := (cores.extractLsb' 0 12).toNat, max := (cores.extractLsb' 16 12).toNat
    cap := (ctrl.extractLsb' 0 13).toNat, pri := ctrl.extractLsb' 13 2, dies := ctrl.extractLsb' 16 8, home := ctrl.extractLsb' 24 3 }

/-- Cores on dies that a stage no longer names return to the pool. -/
def releaseCores (s : State) (t : Tenant) (st : BitVec 6) (keep : BitVec 8) : State :=
  { s with cores := s.cores.map (fun e =>
      if e.2.stage == some (t, st) && !keep.getLsbD (coreDie (BitVec.ofNat 16 e.1)).toNat then (e.1, { e.2 with stage := none }) else e) }

/-- Free pool cores of a die join a stage, lowest first. -/
def takeFree (s : State) (t : Tenant) (st : BitVec 6) (d : Die) (n : Nat) : State :=
  ((freePool s t d).take n).foldl (fun s c => assignCore s c (some (t, st))) s

/-- The dies that a mask names. -/
def diesOf (m : BitVec 8) : List Die := ((List.range 8).filter m.getLsbD).map (BitVec.ofNat 3)

/-- A till of the tenant with a stored record names the stage. -/
def tillNames (s : State) (t : Tenant) (st : BitVec 6) : Bool :=
  (allTills s).any (fun e => e.2.owned && e.2.owner == t && e.2.stored.isSome && actKind e.2.act == 2 && actStage e.2.act == st)

/-- `stdecl` (R233, R234). In a redeclaration QUOTA is checked on the increase first, then HOME, then CAP (DESIGN CHOICE, log 39). -/
def stdeclEff (stg : SCon) (a : SReg) (s : State) : Eff :=
  let x := readSC s.me stg
  if s.curCtx ≠ 0 then .trap .priv 0
  else if 63 < x.toNat then .trap .illegal 50
  else withRecord false (readS s.me a) 32 32 s (fun s bs =>
    let t := s.myTenant
    let n : BitVec 6 := x.setWidth 6
    let st := s.stage t n
    let new := declare st bs
    let fin (home : Die) (f : State → State) : Eff := withExchange home true (fun s => .done (f s)) s
    match declFault bs with
    | some b => .trap .illegal (BitVec.ofNat 64 (128 + b))
    | none =>
      if (wordAt bs 0).getLsbD 15 then
        if !st.declared then
          if !quotaFits s t 1 0 new.cap then .trap .quota 0
          else fin new.home (fun s =>
            (diesOf new.dies).foldl (fun s d => takeFree s t n d new.min) ((quotaTake s t 1 0 new.cap).setStage t n new))
        else if st.cap < new.cap ∧ !quotaFits s t 1 0 (new.cap - st.cap) then .trap .quota 0
        else if new.home ≠ st.home then .trap .illegal 152
        else if new.cap < st.occupancy then .trap .illegal 128
        else fin new.home (fun s =>
          releaseCores ((quotaTake (quotaReturn s t 1 0 st.cap) t 1 0 new.cap).setStage t n new) t n new.dies)
      else if !st.declared then .trap .illegal 50
      else if !st.queue.isEmpty || !st.parked.isEmpty || st.parents != 0 || st.range.isSome || tillNames s t n then .hold s
      else fin st.home (fun s => releaseCores ((quotaReturn s t 1 0 st.cap).setStage t n {}) t n 0))

/-- `stdecl` (R234). -/
def execStdecl (h : Header) (stg : SCon) (a : SReg) (s : State) : Host.Outcome State Fault Refusal :=
  issue (.stdecl h stg a) (stdeclEff stg a) s

/-- The declared stages of a tenant that name a die, ascending. -/
def stagesOn (s : State) (t : Tenant) (d : Die) : List (BitVec 6) :=
  ((s.tenantSt t).stages.filter (fun e => e.2.declared && e.2.dies.getLsbD d.toNat)).map (fun e => BitVec.ofNat 6 e.1)

/-- Stages above MIN that may give a core, lowest occupancy first, and of equal ones the lowest stage number (DESIGN CHOICE, log 39). -/
def donors (s : State) (t : Tenant) (d : Die) (quarter : Bool) : List (BitVec 6) :=
  let ok (n : BitVec 6) : Bool :=
    let x := s.stage t n
    decide (x.min < (stageCores s t n d).length) && (!quarter || decide (4 * x.queue.length < x.cap))
  ((stagesOn s t d).filter ok).mergeSort (fun a b =>
    let x := s.stage t a
    let y := s.stage t b
    decide (x.queue.length * y.cap ≤ y.queue.length * x.cap))

/-- The core that a donor gives: the free pool first, then stages in order; only a core whose helpers are idle moves. -/
def donorCore (s : State) (t : Tenant) (d : Die) (quarter : Bool) (dst : BitVec 6) : Option CoreId :=
  (((freePool s t d) ++ ((donors s t d quarter).filter (· != dst)).flatMap (fun n => stageCores s t n d)).find?
    (fun c => helpersIdle (s.core c)))

/-- Step 1 of R236 for one stage. -/
def fillMin (t : Tenant) (d : Die) (n : BitVec 6) : Nat → State → State
  | 0, s => s
  | f + 1, s =>
    if (stageCores s t n d).length < (s.stage t n).min then
      match donorCore s t d false n with
      | some c => fillMin t d n f (assignCore s c (some (t, n)))
      | none => s
    else s

/-- Steps 2 and 3 of R236; a stage with an empty queue counts as priority 0 (DESIGN CHOICE, log 39). -/
def recipients (s : State) (t : Tenant) (d : Die) : List (BitVec 6) :=
  let ok (n : BitVec 6) : Bool :=
    let x := s.stage t n
    decide ((stageCores s t n d).length < x.max) && (decide (x.cap < 2 * x.queue.length) || x.heldFull.getLsbD d.toNat)
  let pri (n : BitVec 6) : Nat :=
    let x := s.stage t n
    match bestRecord (s.die x.home).cycle x.queue with
    | some e => e.eff (s.die x.home).cycle
    | none => 0
  ((stagesOn s t d).filter ok).mergeSort (fun a b => decide (pri b ≤ pri a))

/-- One round of a die's balancer for a tenant. -/
def balanceTenant (d : Die) (s : State) (t : Tenant) : State :=
  let s := (stagesOn s t d).foldl (fun s n => fillMin t d n (s.stage t n).min s) s
  let s := (recipients s t d).foldl (fun s n => match donorCore s t d true n with
    | some c => assignCore s c (some (t, n))
    | none => s) s
  (stagesOn s t d).foldl (fun s n =>
    let x := s.stage t n
    s.setStage t n { x with heldFull := x.heldFull &&& ~~~(1#8 <<< d.toNat) }) s

/-- STAGE_BALANCE (R236): the round of the picked die, once in every 4,096 of its cycles. -/
def execStageBalance (s : State) : Host.Outcome State Fault Refusal :=
  let d := s.pick.die
  let x := s.die d
  if x.cycle / 4096 ≤ x.balWin then .next s
  else
    let s := s.setDie d { x with balWin := x.cycle / 4096 }
    .next ((s.tenants.map (fun e => (BitVec.ofNat 7 e.1 : Tenant))).foldl (balanceTenant d) s)

/-! ## `dist` (R237 to R239) -/

def distEff (stg : SCon) (first last : SReg) (chunk : BitVec 20) (s : State) : Eff :=
  withStage (readSC s.me stg) s (fun n x =>
    let a := (readS s.me first).toNat
    let b := (readS s.me last).toNat
    let c := chunk.toNat
    let total := (b - a + c - 1) / c
    if x.distPc = 0 then .trap .illegal 50
    else if 2 ^ 24 < total then .trap .illegal 68
    else if b ≤ a then .done s
    else if x.range.isSome then .hold s
    else withRelease s (withExchange x.home true (fun s =>
      let (tbl, s) := releaseMine s
      let x := s.stage s.myTenant n
      let r : Range := { id := s.nextId, first := readS s.me first, last := readS s.me last, chunk := c, total := total
                         retired := (s.die x.home).cycle, src := s.curCore, rel := tbl }
      .done ({ s with nextId := s.nextId + 1 }.setStage s.myTenant n { x with range := some r }))))

/-- `dist` (R237). -/
def execDist (h : Header) (stg : SCon) (first last : SReg) (chunk : BitVec 20) (s : State) :
    Host.Outcome State Fault Refusal :=
  issue (.dist h stg first last chunk) (distEff stg first last chunk) s

/-- The healthy dies that a stage names; the first is the master distributor, the second its deputy (R238, R239). -/
def distributors (s : State) (x : Stage) : List Die := (diesOf x.dies).filter s.inService

/-- The next chunks that are neither dealt nor recorded. -/
def Range.undealt (r : Range) (n : Nat) : List Nat :=
  ((List.range (r.total - r.nextDeal)).map (· + r.nextDeal)).filter (fun q => !r.master.contains q) |>.take n

/-- DIST_CHUNK_DEAL (R238): the master deals the next eight chunks of the picked stage to the distributor of the picked
die, which holds fewer than four; they go there in a packet (R351). What stands at a die that leaves DIES stays there (DESIGN CHOICE,
log 39). -/
def execDistChunkDeal (s : State) : Host.Outcome State Fault Refusal :=
  let x := s.stage s.pick.tenant s.pick.stage
  let d := s.pick.die
  match x.range with
  | none => .next s
  | some r =>
    if !(distributors s x).contains d || decide (4 ≤ (r.dealt.filter (fun e => e.1 == d)).length) then .next s
    else
      let qs := r.undealt 8
      let r := { r with dealt := r.dealt ++ qs.map (fun q => (d, q)), nextDeal := (qs.getLast?.map (· + 1)).getD r.total }
      let s := if qs.isEmpty then s else carry s s.pick.tenant ((distributors s x).headD x.home) d false
      .next (s.setStage s.pick.tenant s.pick.stage { x with range := some r })

/-- A context or a record descends from a run of a chunk. -/
def lineageAlive (s : State) (l : Lineage) : Bool :=
  s.cores.any (fun e => e.2.ctxs.any (fun c => c.2.run != .idle && c.2.lineage == some l))
    || s.away.any (fun e => e.2.ctx.lineage == some l) || s.saves.any (fun e => e.2.ctxs.any (fun c => c.2.lineage == some l))
    || s.tenants.any (fun e => e.2.stages.any (fun x =>
        x.2.queue.any (fun r => r.lineage == some l) || x.2.parked.any (fun r => r.lineage == some l)))

/-- A range whose chunks are all recorded is complete. -/
def endRange (s : State) (x : Stage) (r : Range) : Option Range :=
  let two := decide (2 ≤ (distributors s x).length)
  if r.master.length = r.total ∧ (!two ∨ r.deputy.length = r.total) then none else some r

/-- DIST_CHUNK_COMPLETE (R238): the chunk numbered by the pick, whose last descendant has exited, is recorded by the
master; the next such event records it in the deputy's bitmap, for which a packet goes from the master (R351). -/
def execDistChunkComplete (s : State) : Host.Outcome State Fault Refusal :=
  let x := s.stage s.pick.tenant s.pick.stage
  let q := s.pick.num
  match x.range with
  | none => .next s
  | some r =>
    let done (e : Nat × Nat) : Bool := e.1 == q && !lineageAlive s { tenant := s.pick.tenant, stage := s.pick.stage, range := r.id, chunk := q, run := e.2 }
    if r.master.contains q then
      let ds := distributors s x
      let m := ds.headD x.home
      let u := if r.deputy.contains q then s else carry s s.pick.tenant m ((ds.drop 1).headD m) false
      let r := { r with deputy := if r.deputy.contains q then r.deputy else r.deputy ++ [q] }
      .next (u.setStage s.pick.tenant s.pick.stage { x with range := endRange s x r })
    else match r.started.find? done with
      | none => .next s
      | some e =>
        let r := { r with started := r.started.erase e, master := r.master ++ [q] }
        .next (s.setStage s.pick.tenant s.pick.stage { x with range := endRange s x r })

/-! ## System calls (R240 to R242) -/

/-- The instance that a call goes to. A page that is not mapped has no home: sector 0 answers (DEDUCED, log 41). -/
def callInstance (s : State) (svc : BitVec 12) (a : Word) : Die :=
  if 0x800 ≤ svc.toNat then a.setWidth 3 else dieOf s s.myTenant (va57 a)

def scallEff (strong : Bool) (svc : BitVec 12) (ring : BitVec 4) (s : State) : Eff :=
  let r := s.myCore.ring ring
  if !r.defined || decide (2 ^ r.lg < 64) then .trap .ring (ring.setWidth 64)
  else if 16 ≤ s.me.calls.length then .hold s
  else
    let d := callInstance s svc (s.me.getS 1)
    withRelease s (withPacket [64] d true (fun s =>
      let c := s.me
      let (tbl, s) := releaseMine s
      let call : Call := {
        id := s.nextId, owner := s.myHandle, ring := ring, strong := strong, tenant := s.myTenant, svc := svc, seq := c.callSeq
        prev := c.strongPrev, args := [1, 2, 3, 4, 5, 6].map (fun (i : BitVec 6) => c.getS i), rel := tbl }
      let prev := if strong then some c.callSeq else c.strongPrev
      let me : Ctx := { s.me with callSeq := c.callSeq + 1, strongPrev := prev, calls := c.calls ++ [(c.callSeq, strong)] }
      let s := { s with nextId := s.nextId + 1 }.setMe me
      -- the coordinator answers for a fenced sector (R422)
      if (s.die d).fenced then
        let reply : Reply := { id := call.id, owner := call.owner, ring := ring, seq := call.seq, svc := svc, status := 6, res := [], die := coreDie s.curCore }
        .done { s with replies := s.replies ++ [reply] }
      else if !reachable s (coreDie s.curCore) d then .done (orphanAtIssuer s s.curCore)
      else .done (s.setSector d { s.sector d with calls := (s.sector d).calls ++ [call] })))

/-- `scall` (R240). -/
def execScall (h : Header) (svc : BitVec 12) (ring : BitVec 4) (s : State) : Host.Outcome State Fault Refusal :=
  issue (.scall h svc ring) (scallEff false svc ring) s

/-- `scall.sc` (R240). -/
def execScallSc (h : Header) (svc : BitVec 12) (ring : BitVec 4) (s : State) : Host.Outcome State Fault Refusal :=
  issue (.scallSc h svc ring) (scallEff true svc ring) s

/-- The 64 bytes of a reply (R241). -/
def replyBytes (r : Reply) : List Byte :=
  natBytes 8 (r.seq.toNat + r.svc.toNat * 2 ^ 32 + r.status.toNat * 2 ^ 48)
    ++ (((r.res ++ List.replicate 6 0).take 6).flatMap (fun (w : Word) => natBytes 8 w.toNat)) ++ List.replicate 8 0

/-- A call that has been answered leaves the records that wait for strong replies. -/
def answerParked (s : State) (h : BitVec 28) (seq : BitVec 32) : State :=
  { s with tenants := s.tenants.map (fun e => (e.1, { e.2 with stages := e.2.stages.map (fun x => (x.1, { x.2 with
      parked := x.2.parked.map (fun r => match r.ev with
        | some (.strong q p) => if r.owner == h then { r with ev := some (.strong q (p.erase seq)) } else r
        | _ => r) })) })) }

/-- REPLY_PUBLISH (R241): the reply named by the pick fills a slot, waits for one, or is an orphan. It crosses to the core's
die, and is charged after the fact to the purse of its call (R351, R371). -/
def execReplyPublish (s : State) : Host.Outcome State Fault Refusal :=
  match s.replies.find? (fun r => r.id == s.pick.id) with
  | none => .next s
  | some r =>
    let core := handleCore r.owner
    let n := handleCtx r.owner
    let gone (s : State) : State := answerParked { s with replies := s.replies.erase r } r.owner r.seq
    match crossing s r.die (coreDie core) true with
    | none => .next s
    | some u =>
    let u := chargeAfter u (s.tenantOf core) (coreDie core) r.die 64
    if !s.handleLive r.owner then
      let k := u.core core
      .next (orphan (gone (u.setCore core (k.setRing r.ring ((k.ring r.ring).forget (.pkt r.id))))) core)
    else
      let k := s.core core
      let k := { k with cuts := k.cuts.filter (fun e => e.2 != Waiter.pkt r.id) }
      let x := k.ring r.ring
      if k.splitting || !x.defined || decide (2 ^ x.lg < 64) then .next s
      else match x.claim (s.cycleAt core) rankReply (.pkt r.id) (.device r.id) with
        | (none, x') => .next (s.setCore core (k.setRing r.ring x'))
        | (some i, x') =>
          let k := (k.setRing r.ring (x'.publish i r.rel)).writeLocal (x.slotBase i) (slotPad x (replyBytes r))
          let c := k.ctx n
          .next (gone (u.setCore core (k.setCtx n { c with calls := c.calls.filter (fun e => e.1 != r.seq) })))
where
  slotPad (x : Ring) (bs : List Byte) : List PByte := good (bs ++ List.replicate (2 ^ x.lg - bs.length) 0)

end Sys2Proof.Machine
end

