-- ==== Sys2Proof/Machine/Fold.lean ====
section
/-! DEFINITION. The fold unit and handles: `fold`, the walk over a routine, residual code, `callh`, `relh` and `hstat`
(R245 to R269). -/

namespace Sys2Proof.Machine

/-! ## Known registers (R245) -/

/-- Registers with known values by register code; an s value stands in the low 64 bits, a k value in bit 0. -/
abbrev KMap := Sparse VVal

def codeValue (c : Ctx) (code : RegCode) : VVal :=
  if code.toNat < 0x40 then { bits := (c.getS (code.setWidth 6)).setWidth 128 }
  else if code.toNat < 0x60 then c.getV (code.setWidth 5)
  else { bits := (BitVec.ofBool (c.getK (code.setWidth 3))).setWidth 128 }

def putCode (c : Ctx) (code : RegCode) (x : VVal) : Ctx :=
  if code.toNat < 0x40 then c.setS (code.setWidth 6) (x.bits.setWidth 64)
  else if code.toNat < 0x60 then c.setV (code.setWidth 5) x
  else c.setK (code.setWidth 3) (x.bits.getLsbD 0)

def isKnown (k : KMap) (code : RegCode) : Bool := (sparseFind k code.toNat).isSome

def knownS (k : KMap) (a : SReg) : Option Word := (sparseFind k (sCode a.r).toNat).map (fun x => x.bits.setWidth 64)
def knownSC (k : KMap) : SCon → Option Word
  | .reg r e => knownS k { r := r, early := e }
  | .con c => some (c.signExtend 64)

def knownTag (k : KMap) (r : BitVec 5) : Option Tag := (sparseFind k (vCode r).toNat).map (·.tag)

/-- What two states know in common. -/
def meet (a b : KMap) : KMap := a.filter (fun e => sparseFind b e.1 == some e.2)

/-! ## Paths and points (R255) -/

/-- A path of the walk: where it stands, what is known, what the residual code has set, the registers the routine has
written on it, the owed merges, the rolled bodies it stands in, each with the registers that only R257 has made late, and its
residual code so far. -/
structure Walk where
  addr : Word
  known : KMap
  actual : KMap
  written : List RegCode := []
  flags : BitVec 7 := 0
  amax : BitVec 33 := 0
  rolled : List (Word × Word × List RegCode) := []
  code : List Resid := []

/-- A point, or a stub that only sets registers and links. -/
structure FoldPoint where
  walk : Walk
  stub : Bool := false
  body : Option ResidPoint := none

/-- The fold unit's work so far. -/
structure FoldState where
  points : List FoldPoint := []
  steps : Nat := 0
  emitted : Nat := 0
  partly : Bool := false
  deferred : Bool := false
  pages : List Nat := []
  lines : List Nat := []

/-- How a request ends before it is done; a word that stands on the host waits while the CXL link is down (R419). -/
inductive FoldEnd where
  | outcome (n steps : Nat)
  | trap (cause : Cause) (einfo : Word) (foldpc : Option Word)
  | wait (w : PageWait)
  | poison (addr : Word)
  | link (addr : Word)
  | hole

/-- Registers whose residual value is not yet that of the original run. -/
def Walk.dirty (w : Walk) : List RegCode :=
  (w.known.filter (fun e => sparseFind w.actual e.1 != some e.2)).map (fun e => BitVec.ofNat 8 e.1)

/-- Emits residual instructions that count (R260). -/
def emit (f : FoldState) (w : Walk) (rs : List Resid) : FoldState × Walk :=
  ({ f with emitted := f.emitted + rs.length }, { w with code := w.code ++ rs })

/-- The set of one register. -/
def setOf (code : RegCode) (x : VVal) : Resid :=
  if code.toNat < 0x40 then .setS (code.setWidth 6) (x.bits.setWidth 64)
  else if code.toNat < 0x60 then .setV (code.setWidth 5) x
  else .setK (code.setWidth 3) (x.bits.getLsbD 0)

/-- Sets some registers to their known values: s, then k as R267 says, then v, whose place is the model's choice (log 42). -/
def emitSets (f : FoldState) (w : Walk) (codes : List RegCode) : FoldState × Walk :=
  let known := w.known.filter (fun e => codes.contains (BitVec.ofNat 8 e.1))
  let part (lo hi : Nat) : List (Nat × VVal) := known.filter (fun e => decide (lo ≤ e.1) && decide (e.1 < hi))
  let all := part 0 0x40 ++ part 0x60 0x68 ++ part 0x40 0x60
  let (f, w) := emit f w (all.map (fun e => setOf (BitVec.ofNat 8 e.1) e.2))
  (f, { w with actual := all.foldl (fun m e => sparsePut m e.1 e.2) w.actual })

/-- The owed merge, if there is one. -/
def emitMerge (f : FoldState) (w : Walk) : FoldState × Walk :=
  if w.flags = 0 ∧ w.amax = 0 then (f, w)
  else
    let (f, w') := emit f w [.merge w.flags w.amax]
    (f, { w' with flags := 0, amax := 0 })

/-- Brings the state to that of the original run (R260). -/
def flush (f : FoldState) (w : Walk) : FoldState × Walk :=
  let (f, w) := emitSets f w w.dirty
  emitMerge f w

/-- Registers become late in a rolled body (R257). -/
def loseRolled (w : Walk) (codes : List RegCode) : Walk :=
  let drop (m : KMap) : KMap := m.filter (fun e => !codes.contains (BitVec.ofNat 8 e.1) || constCode (BitVec.ofNat 8 e.1))
  { w with known := drop w.known, actual := drop w.actual, written := w.written.filter (fun c => !codes.contains c) }

/-- Registers become late by another rule, whatever made them late before. -/
def lose (w : Walk) (codes : List RegCode) : Walk :=
  { loseRolled w codes with rolled := w.rolled.map (fun r => (r.1, r.2.1, r.2.2.filter (fun c => !codes.contains c))) }

/-- A register is late for no other reason than R257. -/
def Walk.rolledOnly (w : Walk) (code : RegCode) : Bool :=
  w.rolled.any (fun r => r.1.toNat ≤ w.addr.toNat && w.addr.toNat ≤ r.2.1.toNat && r.2.2.contains code)

/-- A register takes a known value that the residual code has not set. -/
def learn (w : Walk) (code : RegCode) (x : VVal) : Walk :=
  if constCode code then w
  else { w with known := sparsePut w.known code.toNat x, written := if w.written.contains code then w.written else w.written ++ [code] }

/-! ## Links (R255, R258) -/

def samePoint (p : FoldPoint) (addr : Word) (known : KMap) (flags : BitVec 7) (amax : BitVec 33) : Bool :=
  !p.stub && p.walk.addr == addr && p.walk.known == known && p.walk.flags == flags && p.walk.amax == amax

/-- Other paths may come to a point: of the registers it takes for granted only that they hold known values (R255, R261). -/
def Walk.shared (w : Walk) : Walk := { w with actual := meet w.actual w.known }

/-- A path reaches a point: an equal one, the intersection that a backward transfer asks for, or a new one. Where sets or a
merge must come first, they stand in a stub. -/
def linkTo (f : FoldState) (w : Walk) (addr : Word) (back : Bool) : FoldState × Nat :=
  let w := { w with addr := addr, code := [] }
  match f.points.findIdx? (fun p => samePoint p addr w.known w.flags w.amax) with
  | some i => stubFor f w i true
  | none =>
    let at_ := f.points.filter (fun p => !p.stub && p.walk.addr == addr)
    if back && !at_.isEmpty then
      let known := at_.foldl (fun k p => meet k p.walk.known) w.known
      match f.points.findIdx? (fun p => samePoint p addr known 0 0) with
      | some i => stubFor f w i true
      | none =>
        let gone := (w.known.filter (fun e => (sparseFind known e.1).isNone)).map (fun e => (BitVec.ofNat 8 e.1 : RegCode))
        let target := lose { w with flags := 0, amax := 0 } gone
        stubFor { f with points := f.points ++ [{ walk := target.shared }] } w f.points.length false
    else ({ f with points := f.points ++ [{ walk := w.shared }] }, f.points.length)
where
  /-- The sets and the merge before a point; an existing point asks for every register the routine has written. -/
  stubFor (f : FoldState) (w : Walk) (i : Nat) (old : Bool) : FoldState × Nat :=
    match f.points[i]? with
    | none => (f, i)
    | some p =>
      let assumed (c : RegCode) : Bool := match sparseFind p.walk.known c.toNat with
        | none => true
        | some x => sparseFind p.walk.actual c.toNat == some x
      let need := w.dirty.filter (fun c => (old && w.written.contains c) || assumed c)
      let (f1, w1) := if p.walk.flags == w.flags && p.walk.amax == w.amax then (f, w) else emitMerge f w
      let (f2, w2) := emitSets f1 w1 need
      if w2.code.isEmpty then (f2, i)
      else ({ f2 with points := f2.points ++ [{ walk := w2, stub := true, body := some { code := w2.code ++ [.link i] } }] }, f2.points.length)

/-- The path ends: its point has its residual code. -/
def endPath (f : FoldState) (i : Nat) (w : Walk) (next taken : Option Nat) : FoldState :=
  { f with points := f.points.modify i (fun p => { p with body := some { code := w.code, next := next, taken := taken } }) }

/-! ## What the unit knows of a word -/

def sourceCodes (i : Instr) : List RegCode := (i.operands.filter (·.src)).map (·.code)
def destCodes (i : Instr) : List RegCode := ((i.operands.filter (·.dst)).map (·.code)).filter (fun c => decide (c.toNat < 0x68))

/-- The guards: decided by one known 0, or by two known values; late otherwise (R56). -/
def guardKnown (h : Header) (k : KMap) : Option Bool :=
  let one (g : BitVec 3) (n : Bool) : Option Bool := (sparseFind k (kCode g).toNat).map (fun x => x.bits.getLsbD 0 ^^ n)
  match one h.g0 h.g0n, one h.g1 h.g1n with
  | some false, _ | _, some false => some false
  | some true, some true => some true
  | _, _ => none

/-- The lowest slot bit of a late marked source (R246, R252, R257). -/
def lateMark (i : Instr) (w : Walk) : Option Nat :=
  let bad := i.operands.filter (fun o => o.src && o.early && !(decide (o.code.toNat < 0x68) && isKnown w.known o.code)
    && !w.rolledOnly o.code)
  match bad with
  | [] => none
  | o :: os => some (os.foldl (fun m x => min m x.pos) o.pos)

/-- The divisor of a divide. -/
def divisor : Instr → Option SCon
  | .div _ _ _ b | .divu _ _ _ b | .rem _ _ _ b | .remu _ _ _ b => some b
  | _ => none

/-- The v sources of a SIMD instruction with their modifiers. -/
def vSources : Instr → List (BitVec 5 × BitVec 12)
  | .vadd _ _ a b | .vsub _ _ a b | .vmul _ _ a b | .vmin _ _ a b | .vmax _ _ a b | .vcmpEq _ _ a b | .vcmpNe _ _ a b
  | .vcmpLt _ _ a b | .vcmpGe _ _ a b | .vcmpUn _ _ a b | .vcmpLtu _ _ a b | .vcmpGeu _ _ a b | .vand _ _ a b | .vor _ _ a b
  | .vxor _ _ a b | .vandn _ _ a b | .vperm _ _ a b | .vpack _ _ a b _ => [(a.r, a.mod), (b.r, b.mod)]
  | .vshl _ _ a _ | .vshr _ _ a _ | .vsra _ _ a _ | .vcvt _ _ a _ _ _ | .vunpkLo _ _ a _ | .vunpkHi _ _ a _ | .vsfnExp2 _ _ a
  | .vsfnLog2 _ _ a | .vsfnRcp _ _ a | .vsfnRsqrt _ _ a | .vsfnTanh _ _ a | .vsfnSigm _ _ a | .vsfnSilu _ _ a
  | .vsfnErf _ _ a => [(a.r, a.mod)]
  | .vdot _ _ a b _ => [(a.r, a.mod), (b.r, b.mod)]
  | .vfma _ _ a b c | .vfms _ _ a b c | .vfnma _ _ a b c | .vsel _ _ a b c => [(a.r, a.mod), (b.r, b.mod), (c.r, 0)]
  | .vabs _ _ a | .vneg _ _ a => [(a.r, a.mod)]
  | .vsum _ _ a _ => [(a.r, a.mod)]
  | .vtag _ _ a _ => [(a.r, a.mod)]
  | .vgtag _ _ a => [(a.r, a.mod)]
  | .vext _ _ a _ => [(a.r, a.mod)]
  | .vins _ _ a _ _ => [(a.r, a.mod)]
  | _ => []

def scaledTag (t : Tag) : Bool := t == .t6 || t == .t8 || t == .q4

/-- A SIMD instruction reads `ctl.scale` (R150, R256). -/
def readsScale (i : Instr) (k : KMap) : Bool :=
  let any (p : Tag → Bool) : Bool := (vSources i).any (fun s => (knownTag k s.1).any p)
  match i with
  | .vpack .. | .vunpkLo .. | .vunpkHi .. => true
  | .vcvt _ _ _ _ _ ctl => ctl
  | .vabs .. | .vneg .. => any (· == .q4)
  | .vadd .. | .vsub .. | .vmul .. | .vmin .. | .vmax .. | .vcmpEq .. | .vcmpNe .. | .vcmpLt .. | .vcmpGe .. | .vcmpUn ..
  | .vdot .. | .vfma .. | .vfms .. | .vfnma .. | .vsum .. => any scaledTag
  | _ => false

/-- The kept word reads a control register. -/
def readsControl (i : Instr) (k : KMap) : Bool :=
  match i with
  | .mfc .. | .time .. => true
  | _ => readsScale i k

/-- A path ends, or leaves, at the word. -/
def endsPath : Instr → Bool
  | .ret .. | .exit .. | .eret .. | .trap .. => true
  | _ => false

/-- The address of a memory operand and its alignment, when it is known. -/
def knownAddr (i : Instr) (k : KMap) : Option (Word × Nat) :=
  let go (ea : Addr) (al : Nat) : Option (Word × Nat) :=
    match knownS k ea.base, knownS k ea.idx with
    | some b, some x => some (mAddress ((({} : Ctx).setS ea.base.r b).setS ea.idx.r x) ea, al)
    | _, _ => none
  match i with
  | .ld _ _ ea z | .ldSx _ _ ea z | .st _ _ ea z | .ldc _ _ ea z | .ldcSx _ _ ea z => go ea (sizeBytes z)
  | .ldv _ _ ea _ | .stv _ _ ea _ => go ea 16
  | .amo _ _ ea z _ _ _ _ => go ea (sizeBytes z)
  | .red _ ea z _ _ _ _ => go ea (sizeBytes z)
  | .cas _ _ ea z _ _ _ => go ea (sizeBytes z)
  | .lda _ _ ea z _ | .stl _ _ ea z _ => go ea (sizeBytes z)
  | _ => none

/-- A value for `ctl.dom` that the checks of R213 refuse at every core: at the one in the corner of its rectangle too. -/
def domAlwaysBad (x : Word) : Bool :=
  let die : Die := BitVec.ofNat 3 (lowestDie (domDies x))
  (domFault (die ++ (BitVec.ofNat 5 (domX0 x) ++ (BitVec.ofNat 5 (domY0 x) ++ (0 : BitVec 3)))) x).isSome

/-- A modifier fails on the known tag of its register (R146). -/
def modDoomed (k : KMap) (a : VSrc) : Bool := (sparseFind k (vCode a.r).toNat).any (fun x => modBad x a.mod)

/-- A modifier can fail on what its register may hold: no tag has fewer than two lanes, so that a segment of 8 bytes or more always
holds an element (R89, R146, R267). -/
def modRisk (k : KMap) (a : VSrc) : Bool :=
  if (knownTag k a.r).isSome then modDoomed k a else a.mod.extractLsb' 10 2 != 0 && decide ((a.mod.extractLsb' 7 3).toNat < 3)

/-- A value that names no live handle, of a tenant: another tenant's, or one with generation 0 or with reserved bits set (R262). -/
def neverHandle (t : Tenant) (v : Word) : Bool :=
  v.extractLsb' 41 7 != t || v.extractLsb' 48 16 == 0 || v.extractLsb' 12 29 != 0

/-- A word that the unit keeps, and that its known operands make trap, whatever else holds (R253): the checks of operand values,
of addresses and of identifiers that the description of each instruction lists. -/
def doomed (t : Tenant) (i : Instr) (k : KMap) : Bool :=
  let con (x : SCon) (p : Word → Bool) : Bool := (knownSC k x).any p
  let reg (x : SReg) (p : Word → Bool) : Bool := (knownS k x).any p
  let big (x : SCon) (n : Nat) : Bool := con x (fun v => decide (n < v.toNat))
  let odd (p : SReg) : Bool := reg p (fun v => v % 16 != 0)
  let local_ (x : SReg) (al : Nat) : Bool := reg x (fun v => v.toNat % al != 0 || !isLocal v)
  let noTid (x : Word) : Bool := x == 0 || decide (1024 ≤ x.toNat)
  let badTid (tid : Tid) : Bool := noTid (tid.setWidth 64)
  let count (x : SCon) (lo hi : Nat) : Bool := con x (fun v => decide (v.toNat < lo) || decide (hi < v.toNat))
  let foreign (x : SReg) : Bool := reg x (fun v => v.extractLsb' 41 7 != t)
  let till (x : SReg) : Bool := reg x (fun v => v.extractLsb' 13 51 != 0)
  match i with
  | .gaddr _ _ e _ => big e 15
  | .dtset _ e x => big e 15 || reg x (fun v => (dtFault v).isSome)
  | .bwait _ n => big n 15
  | .wait _ _ m => con m (fun v => v == 0 || decide (65535 < v.toNat))
  | .start _ _ p _ _ | .startTry _ _ _ p _ _ => odd p
  | .amsg _ c p _ | .amsgTry _ _ c p _ => odd p || reg c (fun v => !coreExists (v.extractLsb' 4 16))
  | .mmvGet _ _ _ p => big p 127
  | .mmvPut _ _ a p => big p 127 || (knownTag k a.r).any (· != .fp32) || modDoomed k a
  | .mload _ _ a | .mstore _ a _ | .mspill _ a | .mrest _ a => local_ a 64
  | .mma _ _ a b _ _ _ => reg a noTid || reg b noTid
  | .mcvt _ _ x _ => reg x noTid
  | .gemv _ a n r tid _ _ mem => badTid tid || local_ a 16 || count n 1 8192 || (mem && reg r (fun v => v.toNat % 64 != 0 || isLocal v))
  | .xsend _ a ch => big ch 63 || modDoomed k a
  | .xsel _ _ ch => big ch 63
  | .sig _ c b => big b 65535 || reg c (fun v => v.extractLsb' 28 36 != 0)
  | .ret _ => (sparseFind k 63).any (fun v => v.bits.setWidth 64 % (16 : Word) != 0)
  | .mtc _ x r => if r = .dom then con x domAlwaysBad else con x (fun v => v &&& ctlReserved r != 0 || ctlValueBad r v)
  | .mtcStatus _ x => con x (fun v => v &&& ctlReserved .status != 0)
  | .mtcMxcnt _ x => con x (fun v => v &&& ctlReserved .mxcnt != 0)
  | .mtcLmcfg _ x => con x (fun v => v &&& ctlReserved .lmcfg != 0 || ctlValueBad .lmcfg v)
  | .dom _ x => reg x domAlwaysBad
  | .rdef _ b lg n _ => count lg 6 14 || count n 2 64 || local_ b 64
      || (match knownS k b, knownSC k lg with
        | some v, some l => decide (l.toNat ≤ 14) && v.toNat % 2 ^ l.toNat != 0
        | _, _ => false)
  | .send _ a c n _ => count n 1 16384 || local_ a 16 || reg c (fun v => v.extractLsb' 16 48 != 0 || !coreExists (v.setWidth 16))
  | .cpy _ a => local_ a 32
  | .tsub _ _ n tid _ | .tdrain _ _ n tid _ => badTid tid || count n 1 65535
  | .ldt _ _ n o tid _ | .stt _ n o _ tid =>
    (tid != 0 && badTid tid) || con o (fun v => v.toNat % 16 != 0 || decide (512 ≤ v.toNat)) || big n (2 ^ 48 - 1)
  | .gath _ _ x tid cnt => badTid tid ||
      (List.range (cnt.toNat + 1)).any (fun j => (knownTag k (x.r + BitVec.ofNat 5 j)).any (· != .i32))
  | .tfind _ _ n tid => (tid != 0 && badTid tid) || big n (2 ^ 48 - 1)
  | .tnear _ _ d tid => badTid tid || big d 255
  | .thalo _ _ d tid => badTid tid || big d 7
  | .tdrop _ tid | .tflush _ tid => badTid tid
  | .tdef _ x a => con x noTid || reg a (fun v => v.toNat % 128 != 0)
  | .tget _ x a => con x noTid || reg a (fun v => v.toNat % 128 != 0)
  | .tkill _ x => con x noTid
  | .tilset _ x a => till x || local_ a 64
  | .tilget _ _ x => till x
  | .tilarm _ x => till x
  | .park _ e m | .parkTry _ _ e m => reg e eventWordBad || reg m maskBad
  | .enq _ st a | .enqTry _ _ st a => big st 63 || local_ a 64
  | .jinit _ _ n a | .jinitTry _ _ _ n a => count n 1 (2 ^ 24 - 1) || local_ a 64
  | .jdone _ x => foreign x
  | .stdecl _ st a => big st 63 || reg a (fun v => !isLocal v)
  | .dist _ st a b c => big st 63 || (match knownS k a, knownS k b with
      | some x, some y => decide (2 ^ 24 < (y.toNat - x.toNat + c.toNat - 1) / c.toNat)
      | _, _ => false)
  | .relh _ x | .callh _ x => reg x (neverHandle t)
  | .hstat _ _ x => foreign x
  | .fold _ _ _ e _ => odd e
  | .csave _ x | .crest _ x | .nispl _ x => big x 10
  | .jrnl _ _ _ e => big e 255
  | .unassignedOp _ => true
  | _ =>
    let tag : Bool := match i with
      | .stv _ v _ z => z != .b128 && (knownTag k v.r).any (· != z)
      | _ => false
    tag || (match knownAddr i k with
      | some (a, al) => a.toNat % al != 0 || !canonical a
      | none => false)

/-- The kept word can trap: its description lists a cause that its known operands leave possible (R267). Of a SIMD word the
tags decide it (`simdRisk`). -/
def canTrap (t : Tenant) (i : Instr) (k : KMap) : Bool :=
  let known (x : SCon) : Bool := (knownSC k x).isSome
  let good (l : List Bool) : Bool := !l.all id || doomed t i k
  match i with
  | .nop .. | .br .. | .land .. | .loop .. => false
  | .mzero .. | .mwait .. | .pref .. | .prefi .. | .rres .. | .seal .. | .fence .. | .xfence .. | .yield .. | .tlbi .. | .tlbiAll ..
  | .time .. | .mfc .. => false
  | .gaddr _ _ e _ => good [known e]
  | .dtset _ e x => good [known e, (knownS k x).isSome]
  | .bwait _ n => good [known n]
  | .wait _ _ m => good [known m]
  | .mmvGet _ _ _ p => good [known p]
  | .mmvPut _ _ a p => good [known p, (knownTag k a.r).isSome, !modRisk k a]
  | .xsel _ _ ch => good [known ch]
  | .xsend _ a ch => good [known ch, !modRisk k a]
  | .mtc _ x r => (match r with
      | .foldst | .foldpc => false
      | .flags | .amax | .scale | .wdog | .foldbud | .mmchk => good [known x]
      | _ => true)
  | .mtcStatus _ x | .mtcMxcnt _ x => good [known x]
  | .hstat _ _ x | .jdone _ x => good [(knownS k x).isSome]
  | .mov _ (.v _ a) => modRisk k a
  | _ =>
    match divisor i with
    | some b => (knownSC k b).isNone
    | none =>
      match encode i with
      | none => true
      | some w =>
        let op := (w.extractLsb' 0 8).toNat
        !((0x10 ≤ op ∧ op ≤ 0x1A) ∨ op = 0x1D ∨ (0x20 ≤ op ∧ op ≤ 0x24))

/-! ## Evaluation (R256) -/

/-- What evaluating a word comes to. -/
inductive Evaluated where
  | ok (t : Ctx) (pc : Word)
  | traps
  | poison (addr : Word)
  | no

/-- The unit runs a word on a context that stands nowhere (number 11 names none), with the known registers; nothing of the
machine but that context's result is used. The bytes come over FD: no purse and no packet of the core's own accesses holds
them. -/
def runOn (s : State) (core : CoreId) (w : Walk) (run : State → Host.Outcome State Fault Refusal) : Evaluated :=
  let c : Ctx := { run := .live, pc := w.addr, mmOff := true }
  let c := w.known.foldl (fun c e => putCode c (BitVec.ofNat 8 e.1) e.2) c
  let t := s.tenantOf core
  let s := s.setTenantSt t { s.tenantSt t with mem := [], fab := [] }
  let s := { s with net := [], dies := s.dies.map (fun (e : Nat × DieState) => (e.1, { e.2 with know := List.replicate 64 0, deliv := List.replicate 8 0 })) }
  let s := { (s.setCtx core 11 c) with curCore := core, curCtx := 11 }
  match run s with
  | .next u =>
    let d := u.ctx core 11
    if d.run != .live then .traps
    else match d.reports with
      | r :: _ => .poison r.einfo
      | [] => if d.pc == w.addr then .no else .ok d d.pc
  | _ => .no

def evalWord (s : State) (core : CoreId) (w : Walk) (i : Instr) : Evaluated :=
  match foldRun i with
  | some f => runOn s core w f
  | none => .no

/-- A SIMD word (R256). -/
def isSimd (i : Instr) : Bool := match encode i with
  | some x => decide (0x30 ≤ (x.extractLsb' 0 8).toNat) && decide ((x.extractLsb' 0 8).toNat ≤ 0x40)
  | none => false

/-- The path with each tag that its late v sources may have. -/
def tagTries (w : Walk) (i : Instr) : List Walk :=
  let late := ((vSources i).map (·.1)).dedup.filter (fun r => (knownTag w.known r).isNone)
  let learnV (w : Walk) (r : BitVec 5) (t : Tag) : Walk := { w with known := sparsePut w.known (vCode r).toNat { tag := t } }
  late.foldl (fun (ws : List Walk) r => ws.flatMap (fun w => (List.range 11).map (fun n => learnV w r (tagOfCode n)))) [w]

/-- A word evaluated on a path traps. -/
def evalTraps (s : State) (core : CoreId) (i : Instr) (w : Walk) : Bool :=
  match evalWord s core w i with
  | .traps => true
  | _ => false

/-- A SIMD word that raises TAG, or ILLEGAL, whatever its late sources are (R253): with any tags of those in v; one in s or in k
has no part in these traps, but for a lane number, of which 0 is always good. -/
def tagDoomed (s : State) (core : CoreId) (w : Walk) (i : Instr) : Bool :=
  isSimd i && (tagTries w i).all (evalTraps s core i)

/-- A SIMD word that some value of its late sources makes trap (R145, R146, R267): a tag of those in v, or a late lane number. -/
def simdRisk (s : State) (core : CoreId) (w : Walk) (i : Instr) : Bool :=
  let lane : Bool := match i with
    | .vext _ _ _ l | .vins _ _ _ _ l => (knownSC w.known l).isNone
    | _ => false
  lane || (tagTries w i).any (evalTraps s core i)

/-- The frozen page that holds a whole access of n bytes. -/
def frozenPage (s : State) (t : Tenant) (a : Word) (n : Nat) : Option Nat :=
  if isLocal a || !canonical a then none
  else match leafOf (s.tenantSt t) (va57 a), leafOf (s.tenantSt t) (va57 a + n - 1) with
    | some (k, l), some (k', _) => if k == k' && l.p && !l.mig && l.frz && l.rd && !l.host then some k else none
    | _, _ => none

/-- The frozen page that a routine word stands in (R261, R285). -/
def frozenCode (s : State) (t : Tenant) (a : Word) : Option Nat :=
  match leafOf (s.tenantSt t) (va57 a) with
  | some (k, l) => if !isLocal a && canonical a && l.p && !l.mig && l.frz && !l.host then some k else none
  | none => none

/-- The line at its home that a byte of a frozen page stands in. -/
def frozenLine (s : State) (t : Tenant) (a : Word) : Option Nat :=
  (frozenPage s t a 1).bind (fun _ => (physOf s t (va57 a)).map (fun p => p / 256 * 256))

/-- What the unit has read: lines at their homes, each once in a request, and frozen pages. -/
def FoldState.reads (f : FoldState) (lines pages : Option Nat) : FoldState :=
  { f with lines := (f.lines ++ lines.toList).dedup, pages := (f.pages ++ pages.toList).dedup }

/-- The bytes a foldable load reads. -/
def loadBytes : Instr → Nat
  | .ld _ _ _ z | .ldSx _ _ _ z | .ldc _ _ _ z | .ldcSx _ _ _ z => sizeBytes z
  | .ldv _ _ _ t => if t = .t6 then 12 else 16
  | _ => 0

/-! ## One word (R255) -/

/-- A word over FD. -/
def foldFetch (s : State) (core : CoreId) (a : Word) : Except FoldEnd (BitVec 128) :=
  let read (bs : List PByte) : Except FoldEnd (BitVec 128) :=
    match cleanBytes (wordIn bs a) with
    | (w, none) => .ok (wordOfBytes w)
    | (_, some i) => .error (.poison (a + BitVec.ofNat 64 i))
  match fetchAt s core a with
  | .line bs => read bs
  | .absent p _ _ => if linkHolds s p then .error (.link a) else read (lineAt s p)
  | .bad _ => .error (.trap .fetch a (some a))
  | .wait w => .error (.wait { w with fold := true })
  | .hole => .error .hole

/-- The line that a word over FD is read from at its home. -/
def foldLine (s : State) (core : CoreId) (a : Word) : Option Nat :=
  match fetchAt s core a with
  | .absent p _ _ => some (p / 256 * 256)
  | _ => none

/-- A word is kept (R260). Known sources and guards stand as values. `safe` says that its known operands rule a trap out. Before a
write of `ctl.flags` or `ctl.amax` the owed merges are emitted, since the original run makes them first (R261, DESIGN CHOICE,
log 42). -/
def keepWord (t : Tenant) (f : FoldState) (w : Walk) (raw : BitVec 128) (i : Instr) (lateGuards ends later : Bool)
    (safe : Bool := false) : FoldState × Walk :=
  let full := ends || later || (canTrap t i w.known && !safe) || readsControl i w.known || endsPath i
  let (f, w) := if full then flush f w
    else if lateGuards then emitSets f w ((w.dirty).filter (destCodes i).contains) else (f, w)
  let (f, w) := match i with
    | .mtc _ _ .flags | .mtc _ _ .amax => emitMerge f w
    | _ => (f, w)
  let h := i.header
  let codes := (sourceCodes i).filter (fun c => decide (c.toNat < 0x68)) ++ [kCode h.g0, kCode h.g1]
  let vals := codes.dedup.filterMap (fun c => if constCode c then none else (sparseFind w.known c.toNat).map (fun x => (c, x)))
  let (f, w) := emit f w [if later then .deferred w.addr raw vals else .keep w.addr raw vals]
  (f, lose w (destCodes i))

/-- The registers that the words of a loop body write (R257, R259). -/
def bodyWrites (s : State) (core : CoreId) (env : DecodeEnv) (lo : Word) (n : Nat) : List RegCode :=
  ((List.range n).flatMap (fun j =>
    match foldFetch s core (lo + BitVec.ofNat 64 (16 * j)) with
    | .ok raw => (match decodeWord env raw with
      | .ok i => (destCodes i).filter (fun c => !constCode c)
      | .error _ => [])
    | .error _ => [])).dedup

/-- The result of a step: the path goes on, or has ended. -/
abbrev Stepped := Except FoldEnd (FoldState × Option Walk)

/-- A kept transfer: both successors become points, the fall-through first. -/
def keepTransfer (tn : Tenant) (f : FoldState) (p : Nat) (w : Walk) (raw : BitVec 128) (i : Instr) (late : Bool) (off : BitVec 40) : FoldState :=
  let a := w.addr
  let t := a + off.signExtend 64 * 16
  let (f, w) := keepWord tn f w raw i late false false
  let (f, n) := linkTo f w (a + 16) false
  let (f, k) := linkTo f w t (decide (t.toNat ≤ a.toNat))
  endPath f p w (some n) (some k)

/-- What follows a kept word that is no transfer: the path goes straight on, or with late guards its one successor becomes a
point (R255). -/
def keepOn (f : FoldState) (p : Nat) (w : Walk) (late : Bool) : FoldState × Option Walk :=
  if late then
    let (f, n) := linkTo f w (w.addr + 16) false
    (endPath f p w (some n) none, none)
  else (f, some { w with addr := w.addr + 16 })

/-- `loop` with a known count (R259). A loop with a forward target has no words from L to it: b is 0 (DESIGN CHOICE, log 42). -/
def foldLoop (s : State) (core : CoreId) (env : DecodeEnv) (rlim : Nat) (f : FoldState) (p : Nat) (w : Walk) (raw : BitVec 128)
    (i : Instr) (c : SReg) (off : BitVec 40) (n : Word) : FoldState × Option Walk :=
  let a := w.addr
  let t := a + off.signExtend 64 * 16
  let code := sCode c.r
  let put (x : Word) : Walk := learn w code { bits := x.setWidth 128 }
  if n.toNat ≤ 1 then (f, some { (if n = 0 then w else put 0) with addr := a + 16 })
  else
    let b := if t.toNat ≤ a.toNat then (a.toNat - t.toNat) / 16 + 1 else 0
    if (n.toNat - 1) * b ≤ rlim - f.emitted then (f, some { put (n - 1) with addr := t })
    else
      let body := (bodyWrites s core env t b ++ [code]).dedup
      let f := (List.range b).foldl (fun (f : FoldState) j => f.reads none (frozenCode s (s.tenantOf core) (t + BitVec.ofNat 64 (16 * j))))
        { f with partly := true }
      let (f, w) := emitSets f w (w.dirty.filter body.contains)
      let known := w.known
      let (f, w) := keepWord (s.tenantOf core) f w raw i false false false
      let only := body.filter (fun c => isKnown known c || w.rolledOnly c)
      let wl := loseRolled w body
      let (f, k1) := linkTo f wl (a + 16) false
      let wl := { wl with rolled := (t, a, only) :: wl.rolled }
      let (f, k2) := linkTo f wl t true
      (endPath f p w (some k1) (some k2), none)

/-- A `jt`: decided, kept because it would trap, or an exit point (R258). -/
inductive JtFold where
  | follow (a : Word) (page : Nat) (line : Option Nat) | traps | leaves | poison (addr : Word)

/-- A `jt` of the path. With a known index and a frozen table whose target word cannot be read yet it is an exit point (DESIGN CHOICE,
log 43). -/
def foldJt (s : State) (core : CoreId) (w : Walk) (h : Header) (x b : SReg) (pad : BitVec 16) (bound : BitVec 22) : JtFold :=
  match knownS w.known x, knownS w.known b with
  | some i, some base =>
    if bound.toNat ≤ i.toNat ∨ base % 8 ≠ 0 then .traps
    else match frozenPage s (s.tenantOf core) (base + 8 * i) 8 with
      | none => .leaves
      | some page => match runOn s core w (execJt h x b pad bound) with
        | .ok _ pc => .follow pc page (frozenLine s (s.tenantOf core) (base + 8 * i))
        | .traps => .traps
        | .poison a => .poison a
        | .no => .leaves
  | some i, none => if bound.toNat ≤ i.toNat then .traps else .leaves
  | _, _ => .leaves

/-- The unit leaves the routine to plain code. -/
def foldExit (f : FoldState) (p : Nat) (w : Walk) : FoldState :=
  let (f, w) := flush f w
  endPath f p { w with code := w.code ++ [.exitPoint w.addr] } none none

/-- The path with the late guards of a word passing. -/
def guardsPassing (h : Header) (w : Walk) : Walk :=
  let pass (k : KMap) (g : BitVec 3) (n : Bool) : KMap :=
    if isKnown k (kCode g) then k else sparsePut k (kCode g).toNat { bits := (BitVec.ofBool (!n)).setWidth 128 }
  { w with known := pass (pass w.known h.g0 h.g0n) h.g1 h.g1n }

/-- A word with passing guards, every source known, that can be evaluated; or one that is kept. -/
def foldPlain (s : State) (core : CoreId) (f : FoldState) (p : Nat) (w : Walk) (raw : BitVec 128) (i : Instr) (g : Option Bool) :
    Stepped :=
  let known := (sourceCodes i).all (fun c => decide (c.toNat < 0x68) && isKnown w.known c)
  let passing := guardsPassing i.header w
  let safe := if isSimd i then !simdRisk s core passing i
    else known && loadBytes i == 0 && (match evalWord s core passing i with
      | .ok .. => true
      | _ => false)
  let keep (ends : Bool) : Stepped :=
    let (f, w) := keepWord (s.tenantOf core) f w raw i g.isNone ends false safe
    if ends || (endsPath i && g.isSome) then .ok (endPath f p w none none, none) else .ok (keepOn f p w g.isNone)
  let page := (knownAddr i w.known).bind (fun e => frozenPage s (s.tenantOf core) e.1 (loadBytes i))
  if g.isSome && !known && tagDoomed s core w i then keep true
  else if g.isNone || !known || (loadBytes i != 0 && page.isNone) then keep false
  else match evalWord s core w i with
    | .no => keep false
    | .traps => keep true
    | .poison a => .error (.poison a)
    | .ok c _ =>
      if readsScale i w.known then keep false
      else
        let w' := (destCodes i).foldl (fun w d => learn w d (codeValue c d)) w
        .ok (f.reads ((knownAddr i w.known).bind (fun e => frozenLine s (s.tenantOf core) e.1)) page,
          some { w' with addr := w.addr + 16, flags := w.flags ||| c.flags, amax := amaxMerge w.amax c.amax })

/-- One fold step (R251, R255). -/
def foldStep (s : State) (core : CoreId) (env : DecodeEnv) (rlim : Nat) (f : FoldState) (p : Nat) (w : Walk) : Stepped :=
  let tn := s.tenantOf core
  match foldFetch s core w.addr with
  | .error e => .error e
  | .ok raw =>
    match decodeWord env raw with
    | .error _ =>
      let (f, w) := flush f w
      let (f, w) := emit f w [.keep w.addr raw []]
      .ok (endPath f p w none none, none)
    | .ok i =>
      match lateMark i w with
      | some bit => .error (.trap .foldBind (BitVec.ofNat 64 bit) (some w.addr))
      | none =>
        let g := guardKnown i.header w.known
        let on (a : Word) : Stepped := .ok (f, some { w with addr := a })
        let zero := (divisor i).any (fun b => knownSC w.known b == some 0)
        if g == some false then on (w.addr + 16)
        else match i with
          | .nop _ => on (w.addr + 16)
          | .land .. => on (w.addr + 16)
          | .br _ off => if g.isSome then on (w.addr + off.signExtend 64 * 16) else .ok (keepTransfer tn f p w raw i true off, none)
          | .loop _ c off =>
            (match g, knownS w.known c with
             | some _, some n => .ok (foldLoop s core env rlim f p w raw i c off n)
             | _, _ => .ok (keepTransfer tn f p w raw i g.isNone off, none))
          | .jt h x b pad bound =>
            if g.isNone then .ok (foldExit f p w, none)
            else (match foldJt s core w h x b pad bound with
              | .follow a page line => .ok (f.reads line (some page), some { w with addr := a })
              | .poison a => .error (.poison a)
              | .leaves => .ok (foldExit f p w, none)
              | .traps => let (f, w) := keepWord tn f w raw i false true false
                          .ok (endPath f p w none none, none))
          | .brl .. => .ok (foldExit f p w, none)
          | .callh .. =>
            if g.isSome && doomed tn i w.known then
              let (f, w) := keepWord tn f w raw i false true false
              .ok (endPath f p w none none, none)
            else .ok (foldExit f p w, none)
          | _ =>
            if zero then
              let (f, w') := keepWord tn f w raw i g.isNone false true
              .ok (keepOn { f with deferred := true } p w' g.isNone)
            else if g.isSome && doomed tn i w.known then
              let (f, w) := keepWord tn f w raw i false true false
              .ok (endPath f p w none none, none)
            else foldPlain s core f p w raw i g

/-- The walk: the oldest unbuilt point next; one step for each word, at most SLIM (R255). It answers the work so far, and how the
request ended if it was not done. -/
def foldWalk (s : State) (core : CoreId) (env : DecodeEnv) (slim rlim : Nat) : Nat → FoldState → Option (Nat × Walk) →
    FoldState × Option FoldEnd
  | 0, f, _ => (f, some (.outcome 1 f.steps))
  | n + 1, f, none =>
    match f.points.findIdx? (fun p => p.body.isNone) with
    | none => (f, none)
    | some i => foldWalk s core env slim rlim n f ((f.points[i]?).map (fun p => (i, { p.walk with code := [] })))
  | n + 1, f, some (p, w) =>
    if slim ≤ f.steps then (f, some (.outcome 1 slim))
    else
      let f := { f with steps := f.steps + 1 }.reads (foldLine s core w.addr) (frozenCode s (s.tenantOf core) w.addr)
      match foldStep s core env rlim f p w with
      | .error (.poison a) => (f.reads (frozenLine s (s.tenantOf core) a) none, some (.poison a))
      | .error e => (f, some e)
      | .ok (f, w') => if rlim < f.emitted then (f, some (.outcome 3 f.steps))
        else foldWalk s core env slim rlim n f (w'.map (fun x => (p, x)))

/-- The state known at the entry (R245). -/
def entryKnown (c : Ctx) (mask : BitVec 8) : KMap × KMap :=
  let base : KMap := [(0, {}), (0x60, { bits := 1 })]
  let early := (List.range 8).filter mask.getLsbD
  (early.foldl (fun m i => sparsePut m (i + 1) { bits := (c.getS (BitVec.ofNat 6 (i + 1))).setWidth 128 }) base, base)

/-- A whole request (R252, R255): the work, and how it ended if it was not done. An entry word is a `land` where OP and AUX bit 0
say so; one that fails another check of R70 is kept by R253 (DESIGN CHOICE, log 42). -/
def foldTrace (s : State) (core : CoreId) (n : CtxNum) (entry : Word) (mask : BitVec 8) : FoldState × Option FoldEnd :=
  let c := s.ctx core n
  let env : DecodeEnv := { handler := n == 15, matrixOff := decide (s.svc.toNat < 2) }
  match foldFetch s core entry with
  | .error e => ({}, some e)
  | .ok raw =>
    if raw.extractLsb' 0 8 ≠ 0x05 ∨ !raw.getLsbD 106 then
      (({} : FoldState).reads (foldLine s core entry) none, some (.trap .foldEntry entry (some entry)))
    else
      let (known, actual) := entryKnown c mask
      let slim := (c.foldbud.extractLsb' 32 21).toNat
      let rlim := (c.foldbud.extractLsb' 0 17).toNat
      foldWalk s core env slim rlim (2 * slim + 3) { points := [{ walk := { addr := entry, known := known, actual := actual } }] } none

/-- What a request comes to. -/
def foldRequest (s : State) (core : CoreId) (n : CtxNum) (entry : Word) (mask : BitVec 8) : Except FoldEnd FoldState :=
  match foldTrace s core n entry mask with
  | (f, none) => .ok f
  | (_, some e) => .error e

/-! ## `fold` (R247, R250, R252, R262) -/

/-- A request takes one of the two entries of its core's port and one of the eight of the cluster's queue; contexts that wait go
in order (R18, R247). -/
def withFoldRoom (s : State) (k : State → Eff) : Eff :=
  let c := s.myCore
  let first := match c.foldWait with
    | [] => true
    | n :: _ => n == s.curCtx
  if first && decide (c.foldPort.length < 2) && decide ((s.cluster (coreCluster s.curCore)).folds.length < 8) then
    k (s.setMyCore { c with foldWait := c.foldWait.erase s.curCtx, foldPort := c.foldPort ++ [s.curCtx] })
  else .hold (s.setMyCore { c with foldWait := if c.foldWait.contains s.curCtx then c.foldWait else c.foldWait ++ [s.curCtx] })

def foldEff (dh ds e : SReg) (mask : BitVec 8) (s : State) : Eff :=
  match s.me.pend with
  | .folding => .hold s
  | .folded h st => .done (wrS (wrS (s.setMe { s.me with foldst := st }) dh h) ds st)
  | .foldTrap c x pc => .trapWith (s.setMe { s.me with foldpc := pc }) c x
  | _ =>
    let a := readS s.me e
    if a % 16 ≠ 0 then .trap .align a
    else withFoldRoom s (fun s =>
      let cl := coreCluster s.curCore
      let k := s.cluster cl
      let s := s.setCluster cl { k with folds := k.folds ++ [(s.curCore, s.curCtx, a, mask)] }
      .hold (s.setMe { s.me with pend := .folding }))

/-- `fold` (R247). -/
def execFold (h : Header) (dh ds e : SReg) (mask : BitVec 8) (s : State) : Host.Outcome State Fault Refusal :=
  issue (.fold h dh ds e mask) (foldEff dh ds e mask) s

/-- The lowest handle slot that is free and whose home is in place (R262, R422). -/
def freeHandle (s : State) (ts : TenantState) : Option Nat :=
  (List.range 4096).find? (fun q => !(sparseGet ({} : HandleSlot) ts.handles q).used && !(s.die (BitVec.ofNat 3 q)).fenced)

def mkFoldHandle (gen : BitVec 16) (t : Tenant) (slot : Nat) : Word := gen ++ t ++ (0 : BitVec 9) ++ BitVec.ofNat 32 slot

/-- A done request takes a slot and its arena bytes, or ends with QUOTA or outcome ARENA (R250, R252, R262, R268). -/
def grantHandle (s : State) (t : Tenant) (f : FoldState) (foldpc : Word) : State × Pend :=
  let ts := s.tenantSt t
  let bytes := 256 + 16 * f.emitted
  match freeHandle s ts with
  | none => (s, .foldTrap .quota 0 foldpc)
  | some q =>
    if !quotaFits s t 6 0 1 then (s, .foldTrap .quota 0 foldpc)
    else if !quotaFits s t 7 0 bytes then (s, .folded 0 (BitVec.ofNat 64 (f.steps * 2 ^ 32 + 2)))
    else
      let old := sparseGet ({} : HandleSlot) ts.handles q
      let slot : HandleSlot := { gen := old.gen, used := true, points := f.points.map (fun p => p.body.getD {}), rescnt := f.emitted
                                 bytes := bytes, pages := f.pages, partly := f.partly, deferred := f.deferred }
      let s := s.setTenantSt t { ts with handles := sparsePut ts.handles q slot }
      let st := f.steps * 2 ^ 32 + f.emitted * 2 ^ 15 + f.deferred.toNat * 2 ^ 9 + f.partly.toNat * 2 ^ 8
      (quotaTake (quotaTake s t 6 0 1) t 7 0 bytes, .folded (mkFoldHandle old.gen t q) (BitVec.ofNat 64 st))

/-- The lines that a request has read over FD cross between dies and count as reads at their homes, however it ended (R283, R351). -/
def countFold (s : State) (t : Tenant) (d : Die) (f : FoldState) : State :=
  f.lines.foldl (fun s p => countPageRead (carry s t d (homeDie p) false) p d) s

/-- FOLD_REQUEST_SERVE (R247, R255): the picked cluster's fold unit serves its oldest request. A word whose page is absent
sends the context to the collector, and the request is made again; one whose word stands on a host that the CXL link does not
reach waits in its place, as a held access of the context (R419). -/
def execFoldRequestServe (s : State) : Host.Outcome State Fault Refusal :=
  let cl := s.pick.cluster
  let k := s.cluster cl
  match k.folds with
  | [] => .next s
  | (core, n, entry, mask) :: rest =>
    let whole := s
    let s := s.setCluster cl { k with folds := rest }
    let s := s.setCore core { s.core core with foldPort := (s.core core).foldPort.erase n }
    let c := s.ctx core n
    if c.pend != .folding then .next s
    else
      let fin (s : State) (p : Pend) : Host.Outcome State Fault Refusal := .next (s.setCtx core n { s.ctx core n with pend := p })
      let s := { s with curCore := core, curCtx := n }
      let counted := countFold s (s.tenantOf core) (coreDie core) (foldTrace s core n entry mask).1
      match foldRequest s core n entry mask with
      | .ok f => let (s, p) := grantHandle counted (s.tenantOf core) f c.foldpc
                 fin s p
      | .error (.link a) =>
        let e := (core, n, va57 a / 64 * 64)
        if s.linkDownAt.isNone then
          fin (if c.reports.any (·.cause == .hostlinkDown) then s
            else addReport s s.myHandle { cause := .hostlinkDown, epc := c.pc, einfo := canon (va57 a / 64 * 64) }) .none
        else .next (if whole.heldHost.contains e then whole else { whole with heldHost := whole.heldHost ++ [e] })
      | .error (.outcome o steps) => fin counted (.folded 0 (BitVec.ofNat 64 (steps * 2 ^ 32 + o)))
      | .error (.trap cause x pc) => fin counted (.foldTrap cause x (pc.getD c.foldpc))
      | .error (.wait w) => fin (waitForPage counted w) .none
      | .error (.poison a) => fin (consumed counted a) (.folded 0 0)
      | .error .hole => .fault .noSuchFrame

/-! ## Residual code (R260, R261, R263) -/

/-- The slot a handle names, if it is of the tenant's present generation. -/
def handleSlot (s : State) (h : Word) : Option HandleSlot :=
  let slot := (h.extractLsb' 0 32).toNat
  let x := sparseGet ({} : HandleSlot) (s.tenantSt (h.extractLsb' 41 7)).handles slot
  if slot < 4096 ∧ h.extractLsb' 32 9 = 0 ∧ x.used ∧ x.gen = h.extractLsb' 48 16 then some x else none

/-- Where residual code goes on from a place: links are followed at once. -/
def seatAt (pts : List ResidPoint) : Nat → Nat → Nat → Option (Nat × Nat × Resid)
  | 0, _, _ => none
  | n + 1, p, i =>
    let x := pts.getD p {}
    match x.code[i]? with
    | some (.link q) => seatAt pts n q 0
    | some r => some (p, i, r)
    | none => match x.next with
      | some q => seatAt pts n q 0
      | none => none

/-- The routine address that a residual instruction stands for: the next kept word of its point. -/
def residPc (pts : List ResidPoint) (p i : Nat) : Option Word :=
  (((pts.getD p {}).code).drop i).findSome? (fun r => match r with
    | .keep pc _ _ | .deferred pc _ _ | .exitPoint pc => some pc
    | _ => none)

/-- The issuing context stands at a place of residual code. -/
def seat (s : State) (h : Word) (p i : Nat) : State :=
  match handleSlot s h with
  | none => s
  | some x => match seatAt x.points (x.points.length + 1) p i with
    | none => s
    | some (p, i, _) =>
      let c := s.me
      s.setMe { c with resid := some { handle := h, point := p, index := i }, pc := (residPc x.points p i).getD c.pc, fline := none }

/-- The die that is home to the slot a handle names (R262). -/
def handleHome (h : Word) : Die := BitVec.ofNat 3 (h.extractLsb' 0 12).toNat

/-- A `callh` whose handle has been pinned goes on in its residual code (R136, R263). -/
def enterResid (h : Word) (s : State) : Eff :=
  let r := s.me.pc + 16
  pushLink r s (fun s =>
    let s := seat (s.setMe (s.me.setS 63 r)) h 0 0
    .goto s s.me.pc)

def callhEff (x : SReg) (s : State) : Eff :=
  let h := readS s.me x
  let t := s.myTenant
  if h.extractLsb' 41 7 ≠ t then .trap .tenant 0
  else match handleSlot s h with
    | none => .trap .handleStale h
    | some slot =>
      if slot.released then .trap .handleStale h
      else
        withExchange (handleHome h) false (fun s =>
          let q := (h.extractLsb' 0 32).toNat
          let ts := s.tenantSt t
          match enterResid h (s.setTenantSt t { ts with handles := sparsePut ts.handles q { slot with pins := slot.pins + 1 } }) with
          | .hold _ => .hold s
          | e => e) s

def relhEff (x : SReg) (s : State) : Eff :=
  let h := readS s.me x
  let t := s.myTenant
  if h.extractLsb' 41 7 ≠ t then .trap .tenant 0
  else match handleSlot s h with
    | none => .trap .handleStale h
    | some slot =>
      if slot.released then .trap .handleStale h
      else
        withExchange (handleHome h) false (fun s =>
          let q := (h.extractLsb' 0 32).toNat
          let ts := s.tenantSt t
          .done (reclaim (s.setTenantSt t { ts with handles := sparsePut ts.handles q { slot with released := true } }) t q)) s

/-- The value of `hstat` (R265). -/
def hstatWord (x : HandleSlot) : Word :=
  BitVec.ofNat 64 (x.rescnt * 2 ^ 47 + x.deferred.toNat * 2 ^ 41 + x.partly.toNat * 2 ^ 40 + min x.pins (2 ^ 20 - 1) * 4
    + (if x.released then 2 else 1))

def hstatEff (d x : SReg) (s : State) : Eff :=
  let h := readS s.me x
  if h.extractLsb' 41 7 ≠ s.myTenant then .trap .tenant 0
  else withExchange (handleHome h) false (fun s => match handleSlot s h with
    | none => .done (wrS s d 0)
    | some slot => .done (wrS s d (hstatWord slot))) s

/-- `callh` (R263). -/
def execCallh (h : Header) (x : SReg) (s : State) : Host.Outcome State Fault Refusal := issue (.callh h x) (callhEff x) s

/-- `relh` (R264). -/
def execRelh (h : Header) (x : SReg) (s : State) : Host.Outcome State Fault Refusal := issue (.relh h x) (relhEff x) s

/-- `hstat` (R265). -/
def execHstat (h : Header) (d x : SReg) (s : State) : Host.Outcome State Fault Refusal :=
  issue (.hstat h d x) (hstatEff d x) s

/-- What the issuing context does in residual code. -/
inductive ResidTurn where
  /-- A set, a merge or the leaving of residual code. -/
  | next (s : State)
  /-- A kept word runs. -/
  | run (i : Instr) (s : State)
  /-- A deferred divide with DZT set (R254). -/
  | foldTrap (i : Instr) (s : State)
  | illegal (einfo : Nat) (s : State)

/-- A residual instruction that is no kept word retires. -/
def residRetire (s : State) (c : Ctx) (h : Word) (p i : Nat) : State :=
  let k := s.myCore
  let s := s.setMyCore ((k.setCtx s.curCtx { c with nextIssue := s.now + 1 }).usedSlot s.curCtx)
  seat s h p (i + 1)

/-- The next residual instruction of the issuing context. -/
def residTurn (env : DecodeEnv) (r : ResidPos) (s : State) : ResidTurn :=
  let c := s.me
  match handleSlot s r.handle with
  | none => .next (s.setMe { c with resid := none })
  | some x =>
    match seatAt x.points (x.points.length + 1) r.point r.index with
    | none => .next (leaveResid s)
    | some (p, i, item) =>
      let s := s.setMe { c with resid := some { handle := r.handle, point := p, index := i } }
      let c := s.me
      let retire (c : Ctx) : ResidTurn := .next (residRetire s c r.handle p i)
      let load (vals : List (RegCode × VVal)) (pc : Word) : State :=
        s.setMe { (vals.foldl (fun c e => putCode c e.1 e.2) c) with pc := pc }
      match item with
      | .setS n v => retire (c.setS n v)
      | .setV n v => retire (c.setV n v)
      | .setK n v => retire (c.setK n v)
      | .merge f a => retire { c with flags := c.flags ||| f, amax := amaxMerge c.amax a }
      | .exitPoint pc => (match exchange s (coreDie s.curCore) (handleHome r.handle) false with
        | some s => let s := leaveResid s
                    .next (s.setMe { s.me with pc := pc, fline := none })
        | none => .next (holdMe s))
      | .link q => .next (seat s r.handle q 0)
      | .keep pc w vals =>
        (match decodeWord env w with
         | .ok i => .run i (load vals pc)
         | .error e => .illegal e (load vals pc))
      | .deferred pc w vals =>
        (match decodeWord env w with
         | .ok i => if c.dzt then .foldTrap i (load vals pc) else .run i (load vals pc)
         | .error e => .illegal e (load vals pc))

/-- The known values of a kept word stand in the residual code, not in the registers (R260): a register that the word does not
write has again what it held before. -/
def unload (i : Instr) (was loaded t : State) : State :=
  let codes := (sourceCodes i ++ [kCode i.header.g0, kCode i.header.g1]).filter (fun c =>
    decide (c.toNat < 0x68) && !(destCodes i).contains c && codeValue was.me c != codeValue loaded.me c)
  t.setMe (codes.foldl (fun x c => putCode x c (codeValue was.me c)) t.me)

/-- After a kept word: a context that retired it goes on at the next residual instruction, or at a successor (R255). -/
def residAfter (i : Instr) (was before : State) (t : State) : State :=
  let t := unload i was before t
  let c := t.me
  match before.me.resid, c.resid with
  | some r, some r' =>
    if c.run != .live || r != r' || (c.pc == before.me.pc && !t.myCore.issued) then t
    else match handleSlot t r.handle with
      | none => t
      | some x =>
        let p := x.points.getD r.point {}
        if c.pc == before.me.pc + 16 || p.taken.isNone || r.index + 1 < p.code.length then seat t r.handle r.point (r.index + 1)
        else seat t r.handle (p.taken.getD 0) 0
  | _, _ => t

end Sys2Proof.Machine
end

