-- ==== Sys2Proof/Machine/Movement.lean ====
section
/-! DEFINITION. Movement and tensor housekeeping: batches, `send`, `cpy`, `tsub`, `tdrain`, `gath`, the tile operations
and descriptor records, with the events that complete them (R286 to R289, R306 to R322, R348, R361, R441). -/

namespace Sys2Proof.Machine

/-! ## Batches (R306 to R309) -/

/-- The batch has an operation that is not complete. -/
def batchOpen (k : Core) (h : BitVec 28) (b : Nat) : Bool := k.ops.any (fun o => o.owner == h && o.batch == b)

/-- A parked record of a context waits for one of its batches. -/
def batchParked (s : State) (o : CopyOp) : Bool :=
  let hit (r : RecEntry) : Bool := r.owner == o.owner && r.ev == some (.batch (BitVec.ofNat 4 o.batch))
  s.tenants.any (fun e => e.2.stages.any (fun x => x.2.parked.any hit))

/-- An operation completes: a sealed batch with nothing left is finished. A completion for an incarnation that has ended, and
is saved nowhere, is an orphan of its core, unless a parked record takes it (R200, R205, R226). -/
def finishOp (s : State) (core : CoreId) (id : Nat) : State :=
  let k := s.core core
  match k.ops.find? (fun o => o.id == id) with
  | none => s
  | some o =>
    let k := { k with ops := k.ops.filter (fun x => x.id != id), cuts := k.cuts.filter (fun e => e.2 != .op id) }
    let s := forgetTicket (s.setCore core (k.settleLeft o.owner)) o.tenant (coreDie core) (.op core id)
    if s.handleLive o.owner then
      let n := handleCtx o.owner
      let c := s.ctx core n
      s.setCtx core n { c with sealed := c.sealed.filter (batchOpen k o.owner) }
    else if stillThere s o.owner || batchParked s o then s
    else orphan s core

/-- Acceptance by the copy engine: at most 64 operations are unfinished, and contexts that wait go in order (R18,
R309). -/
def withCopyRoom (s : State) (k : State → Eff) : Eff :=
  let c := s.myCore
  let first := match c.copyWait with
    | [] => true
    | n :: _ => n == s.curCtx
  if first && decide (c.ops.length < 64) then k (s.setMyCore { c with copyWait := c.copyWait.erase s.curCtx })
  else .hold (s.setMyCore { c with copyWait := if c.copyWait.contains s.curCtx then c.copyWait else c.copyWait ++ [s.curCtx] })

/-- An operation of the issuing context joins its open batch. -/
def newOp (s : State) (op : BatchOp) (pages : List Nat) (frames : Sparse Nat := []) (rel : List AcqEntry := []) : State × Nat :=
  let k := s.myCore
  let o : CopyOp := { id := s.nextId, owner := s.myHandle, batch := s.me.batch, tenant := s.myTenant, op := op
                      rc := s.me.rc, bar := coreBar s.curCore k.dom, ep := k.ep, off := s.me.mmOff, rel := rel, pages := pages, frames := frames }
  ({ (s.setMyCore { k with ops := k.ops ++ [o] }) with nextId := s.nextId + 1 }, s.nextId)

/-- The issuing context of an operation as the party of its writes (R348). -/
def opParty (o : CopyOp) : Party :=
  { who := o.owner, rc := o.rc, bar := o.bar, ep := o.ep, table := [], ovf := false, off := o.off }

/-- Records the writes of an engine. -/
def recordOp (s : State) (o : CopyOp) (gs : List Gran) (h : TillHits) : State :=
  if o.off then s else recordGrans s (opParty o) gs h

/-- Changes an operation of a core. -/
def mapOp (s : State) (core : CoreId) (id : Nat) (f : CopyOp → CopyOp) : State :=
  let k := s.core core
  s.setCore core { k with ops := k.ops.map (fun x => if x.id = id then f x else x) }

/-- The items of an accepted operation at the purses of its die, from those that are admitted; what is held holds the
operation (R371, R372). -/
def admitOp (s : State) (core : CoreId) (o : CopyOp) (mem fab : List Nat) : Except State State :=
  match askBoth o.tenant (coreDie core) (.op core o.id) o.items o.fabItems mem fab s with
  | .error (m, f, u) => .error (mapOp u core o.id (fun x => { x with items := m, fabItems := f }))
  | .ok u => .ok (mapOp u core o.id (fun x => { x with items := mem.length, fabItems := fab.length }))

/-- The next tile of an operation is admitted: each tile is an item, which leaves its die when its home is another. The items of
the operation count the tile that is being moved. -/
def admitTile (s : State) (core : CoreId) (o : CopyOp) (size : Nat) (home : Die) : Except State State :=
  (admitOp s core o [coins size] (if home = coreDie core then [] else [coins size])).map
    (fun u => chargeForwards u o.tenant (coreDie core) home [size])

def sealEff (d : SReg) (s : State) : Eff :=
  let c := s.me
  if 15 ≤ c.sealed.length then .hold s
  else
    let c' := { c with
      sealed := if batchOpen s.myCore s.myHandle c.batch then c.sealed ++ [c.batch] else c.sealed
      batch := c.batch + 1 }
    .done (wrS (s.setMe c') d (BitVec.ofNat 64 (c.batch % 16)))

def bwaitEff (n : SCon) (s : State) : Eff :=
  let x := (readSC s.me n).toNat
  if 15 < x then .trap .illegal 41
  else if x < s.me.sealed.length then .hold s
  else .done s

/-- `seal` (R307). -/
def execSeal (h : Header) (d : SReg) (s : State) : Host.Outcome State Fault Refusal :=
  issue (.seal h d) (sealEff d) s

/-- `bwait` (R308). -/
def execBwait (h : Header) (n : SCon) (s : State) : Host.Outcome State Fault Refusal :=
  issue (.bwait h n) (bwaitEff n) s

/-! ## Order on the paths CP and ST (R292) -/

/-- A copy or a tile operation of CP that is not performed yet. -/
def cpPending : BatchOp → Bool
  | .copy .. | .tile .. => true
  | _ => false

/-- Every earlier operation of the same context on CP has been performed. -/
def cpFirst (k : Core) (o : CopyOp) : Bool :=
  k.ops.all (fun x => !(x.owner == o.owner && decide (x.id < o.id) && cpPending x.op))

/-- The next tile of an operation of ST, with its TID, ring and direction, and the number of the last. -/
def stNext : BatchOp → Option (Bool × Tid × BitVec 4 × Nat × Nat)
  | .load tid first count ring done => some (false, tid, ring, first + done, first + count)
  | .drain tid first count ring done => some (true, tid, ring, first + done, first + count)
  | _ => none

/-- An earlier operation of ST stands before the next tile of another one: two that write, two that fill one ring, or one that
still has that tile of the TID before it. Tiles that are only read, or that no earlier operation touches, may pass, or a
stream that waits for its ring would hold the stream that feeds it (R292, DEDUCED, log 25). -/
def stBehind (a b : BatchOp) : Bool :=
  match stNext a, stNext b with
  | some (da, ta, ra, qa, ea), some (db, tb, rb, qb, _) =>
    (da && db) || (!da && !db && ra == rb) || (ta == tb && decide (qa ≤ qb) && decide (qb < ea))
  | _, _ => false

def stFirst (k : Core) (o : CopyOp) : Bool :=
  k.ops.all (fun x => !(x.owner == o.owner && decide (x.id < o.id) && stBehind x.op o.op))

/-! ## `send` (R310) -/

/-- The checks on a target core shared by `send` and `cpy`. -/
def withTarget (v : Word) (k : CoreId → Eff) : Eff :=
  let c : CoreId := v.setWidth 16
  if v.extractLsb' 16 48 ≠ 0 ∨ !coreExists c then .trap .illegal 50 else k c

def withTenantOf (c : CoreId) (s : State) (k : Eff) : Eff :=
  if s.tenantOf c ≠ s.myTenant then .trap .tenant (c.setWidth 64) else k

/-- A delivery leaves: its packet, or at a die out of service an orphan, with the operation complete. -/
def sendDeliveryFrom (s : State) (core : CoreId) (o : CopyOp) (c : CoreId) (ring : BitVec 4) (data : List PByte)
    (rel : List AcqEntry) : State :=
  if reachable s (coreDie core) (coreDie c) then
    sendFrom s core o.owner (coreDie c) (.delivery c ring data) rel false (some o.id)
  else finishOp (orphanAtIssuer s core) core o.id

def sendEff (a c : SReg) (n : SCon) (ring : BitVec 4) (s : State) : Eff :=
  withRelease s (fun s => withCopyRoom s (fun s =>
    let src := readS s.me a
    let len := (readSC s.me n).toNat
    if len < 1 ∨ 16384 < len then .trap .illegal 59
    else withTarget (readS s.me c) (fun tc =>
      if src % 16 ≠ 0 then .trap .align src
      else if !isLocal src || decide (s.myCore.scratch < src.toNat + len) then .trap .xlatePerm src
      else withTenantOf tc s
        (if s.myCore.ops.any (fun o => o.owner == s.myHandle && (match o.op with
            | .copy .. => true
            | _ => false)) then .hold s
        else withAdmission (itemBytes len) (coreDie tc) (fun s =>
          let data := s.myCore.readLocal src.toNat len
          let (tbl, s) := releaseMine s
          let (s, id) := newOp s .delivery []
          match s.myCore.ops.find? (fun o => o.id == id) with
          | some o => .done (sendDeliveryFrom s s.curCore o tc ring data tbl)
          | none => .done s) s))))

/-- `send` (R310). -/
def execSend (h : Header) (a c : SReg) (n : SCon) (ring : BitVec 4) (s : State) : Host.Outcome State Fault Refusal :=
  issue (.send h a c n ring) (sendEff a c n ring) s

/-- The operation a delivery belongs to completes at its sender. -/
def finishDelivery (s : State) (p : Pkt) : State :=
  match p.opId with
  | some id => finishOp s p.src id
  | none => s

/-- A delivery is dropped at the ring's core (R205, R310, R441). -/
def dropDelivery (s : State) (p : Pkt) (core : CoreId) (ring : BitVec 4) : State :=
  let k := s.core core
  let k := k.setRing ring ((k.ring ring).forget (.pkt p.id))
  let k := { k with cuts := k.cuts.filter (fun e => e.2 != .pkt p.id) }
  finishDelivery (dropPkt (orphan (s.setCore core k) core) p.id) p

/-- The whole slot that holds some bytes, zero after them. -/
def slotImage (r : Ring) (data : List PByte) : List PByte := data ++ List.replicate (2 ^ r.lg - data.length) (0, false)

/-- SEND_DELIVERY (R310, R354, R441): the delivery named by the pick claims a slot, fills and publishes it; it waits for
a slot, or is dropped when its ring is undefined or too small. While an `mtc` to `ctl.lmcfg` is held it waits in its turn
(R271); one of a cycle that comes after a later rank has been heard stays for the next (R274). -/
def execSendDelivery (s : State) : Host.Outcome State Fault Refusal :=
  match findPkt s s.pick.id with
  | some p =>
    (match p.msg with
     | .delivery core ring data =>
       let k := s.core core
       let r := k.ring ring
       let w : Waiter := .pkt p.id
       -- a core that another tenant holds by now drops it (R4, R205)
       if s.tenantOf core ≠ p.tenant || k.cuts.contains (ring, w) || !r.defined || decide (2 ^ r.lg < data.length) then
         .next (dropDelivery s p core ring)
       else if k.splitting then
         .next (parkPkt (s.setCore core (k.setRing ring
           { r with waitFree := if r.waitFree.contains w then r.waitFree else r.waitFree ++ [w] })) p.id)
       else if !hears r.heardFree (s.cycleAt core) (rankDelivery core p.src) then .next s
       else
         (match r.claim (s.cycleAt core) (rankDelivery core p.src) w (.device p.id) with
          | (some i, r') =>
            let k := (k.setRing ring (r'.publish i p.rel)).writeLocal (r.slotBase i) (slotImage r data)
            .next (finishDelivery (dropPkt (s.setCore core k) p.id) p)
          | (none, r') => .next (parkPkt (s.setCore core (k.setRing ring r')) p.id))
     | _ => .next s)
  | none => .next s

/-! ## `cpy` (R311, R312) -/

/-- A signed 40-bit stride. -/
def strideAt (bs : List Byte) (i : Nat) : Int := (BitVec.ofNat 40 (bytesNat ((bs.drop i).take 5))).toInt

/-- EXT of a dimension. -/
def extAt (bs : List Byte) (d : Nat) : Nat := bytesNat ((bs.drop (0x20 + 4 * d)).take 4)

/-- The offset of the first failing 8 bytes of a copy record (R312 check 2). A relation between two fields fails at
the higher one (R442). -/
def copyRecFault (bs : List Byte) : Option Nat :=
  let ctrl := wordAt bs 0x10
  let rank := (ctrl.extractLsb' 0 4).toNat
  let ring := ctrl.getLsbD 8
  let rankOk := decide (1 ≤ rank) && decide (rank ≤ 8)
  let byteBad (i : Nat) : Bool :=
    let b := bs.getD i 0
    if 0x18 ≤ i ∧ i < 0x20 then b != 0
    else if 0x20 ≤ i ∧ i < 0x40 then rankOk && decide (rank ≤ (i - 0x20) / 4) && b != 0
    else if 0x40 ≤ i ∧ i < 0x68 then rankOk && decide (rank ≤ (i - 0x40) / 5) && b != 0
    else if 0x68 ≤ i ∧ i < 0x90 then (ring || (rankOk && decide (rank ≤ (i - 0x68) / 5))) && b != 0
    else if 0x90 ≤ i then b != 0
    else false
  let extBad (i : Nat) : Bool := rankOk && (List.range rank).any (fun d => (0x20 + 4 * d) / 8 == i && extAt bs d == 0)
  let total := ((List.range rank).map (extAt bs)).foldl (· * ·) 1
  let bad (i : Nat) : Bool :=
    if i = 2 then
      !rankOk || ctrl.getLsbD 7 || decide (4 < (ctrl.extractLsb' 4 3).toNat) || ctrl.extractLsb' 13 3 != 0
        || ctrl.extractLsb' 32 32 != 0 || (!ring && (ctrl.extractLsb' 9 4 != 0 || ctrl.extractLsb' 16 16 != 0))
        || (ring && wordAt bs 8 != 0)
    else (List.range 8).any (fun j => byteBad (8 * i + j)) || extBad i
      || (rankOk && decide (2 ^ 40 < total) && (0x20 + 4 * (rank - 1)) / 8 == i)
  ((List.range 20).find? bad).map (8 * ·)

/-- Source and destination address of each element, in ascending number (R311). -/
def copyElems (src dst : Word) (ext : List Nat) (sstr dstr : List Int) : List (Word × Word) :=
  (List.range (ext.foldl (· * ·) 1)).map (fun k =>
    let i := digits ext k
    let off (st : List Int) : Int := (i.zip st).foldl (fun a e => a + (e.1 : Int) * e.2) 0
    (src + BitVec.ofInt 64 (off sstr), dst + BitVec.ofInt 64 (off dstr)))

/-- Translates the pages of a list of addresses in order, each page once; the first address that fails raises its cause under a
map (R309). -/
def withPagesAs (m : Cause → Cause) (k : AccKind) (as : List Word) (f : Sparse Nat) (s : State) (go : State → Sparse Nat → Eff) : Eff :=
  takePages m k (pageHeads s as) f s go

def withPageList : AccKind → List Word → Sparse Nat → State → (State → Sparse Nat → Eff) → Eff := withPagesAs id

/-- The 64 KiB parts that a list of global addresses touches. -/
def partsOf (as : List Word) : List Nat := (as.map (fun a => va57 a / 65536)).dedup

/-- The parsed operation of a copy record. -/
def copyOf (bs : List Byte) (toRing : Option (CoreId × BitVec 4)) : BatchOp :=
  let ctrl := wordAt bs 0x10
  let rank := (ctrl.extractLsb' 0 4).toNat
  .copy (wordAt bs 0) (wordAt bs 8) (ctrl.extractLsb' 4 3).toNat ((List.range rank).map (extAt bs))
    ((List.range rank).map (fun d => strideAt bs (0x40 + 5 * d))) ((List.range rank).map (fun d => strideAt bs (0x68 + 5 * d))) toRing

/-- Checks 3 to 6 of R312 and the acceptance. -/
def acceptCopy (bs : List Byte) (s : State) : Eff :=
  let ctrl := wordAt bs 0x10
  let ring := ctrl.getLsbD 8
  let rank := (ctrl.extractLsb' 0 4).toNat
  let esz := (ctrl.extractLsb' 4 3).toNat
  let src := wordAt bs 0
  let dst := wordAt bs 8
  let sstr := (List.range rank).map (fun d => strideAt bs (0x40 + 5 * d))
  let dstr := (List.range rank).map (fun d => strideAt bs (0x68 + 5 * d))
  let off (x : Int) : Bool := x % (2 ^ esz : Nat) != 0
  if src.toNat % 2 ^ esz ≠ 0 ∨ sstr.any off then .trap .align src
  else if dst.toNat % 2 ^ esz ≠ 0 ∨ dstr.any off then .trap .align dst
  else
    let go (toRing : Option (CoreId × BitVec 4)) : Eff :=
      let es := copyElems src dst ((List.range rank).map (extAt bs)) sstr dstr
      let srcs := es.map (·.1)
      let dsts := if ring then [] else es.map (·.2)
      let high (a : Word) : Bool := isLocal a && decide (s.myCore.scratch < a.toNat + 2 ^ esz)
      match (es.flatMap (fun e => if ring then [e.1] else [e.1, e.2])).find? high with
      | some a => .trap .xlatePerm a
      | none =>
        let gs := srcs.filter (fun a => !isLocal a)
        let gd := dsts.filter (fun a => !isLocal a)
        withPageList .read gs [] s (fun s fr => withPageList .write gd fr s (fun s fr =>
          let (tbl, s) := if ring then releaseMine s else ([], s)
          .done (newOp s (copyOf bs toRing) (partsOf (gs ++ gd)) fr tbl).1))
    if ring then
      withTarget (ctrl.extractLsb' 16 16 |>.setWidth 64) (fun tc =>
        withTenantOf tc s (go (some (tc, ctrl.extractLsb' 9 4))))
    else go none

def cpyEff (a : SReg) (s : State) : Eff :=
  let wait := (wordAt ((s.myCore.readLocal (readS s.me a).toNat 160).map (·.1)) 0x10).getLsbD 8
  -- a delivery to a ring is a release, as a `send` is
  let go (s : State) : Eff := withCopyRoom s (fun s =>
    withRecord true (readS s.me a) 160 32 s (fun s bs =>
      match copyRecFault bs with
      | some o => .trap .illegal (BitVec.ofNat 64 (128 + o))
      | none => acceptCopy bs s))
  if wait then withRelease s go else go s

/-- `cpy` (R312). -/
def execCpy (h : Header) (a : SReg) (s : State) : Host.Outcome State Fault Refusal := issue (.cpy h a) (cpyEff a) s

/-- The bytes of an element at its source. -/
def copyRead (s : State) (core : CoreId) (t : Tenant) (a : Word) (n : Nat) : List PByte :=
  if isLocal a then (s.core core).readLocal a.toNat n
  else match physOf s t (va57 a) with
    | some p => flatBytes s p n
    | none => List.replicate n (0, true)

/-- The write of one element: local, or performed at home, counted and recorded; host memory has room for it once older dirty
granules are written back (R418). What a copy reads and writes takes no hint of the instruction (R46, R293, DEDUCED, log 61). -/
def copyWrite (s : State) (core : CoreId) (o : CopyOp) (a : Word) (bs : List PByte) : State :=
  if isLocal a then s.setCore core ((s.core core).writeLocal a.toNat bs)
  else match physOf s o.tenant (va57 a), leafOf (s.tenantSt o.tenant) (va57 a) with
    | some p, some (_, l) =>
      let addrs := addrRange (va57 a) bs.length
      let hits := tillsCounting s o.tenant addrs
      let s := recordOp s o (flatGrans l p bs.length) hits
      countTills (some (coreDie core))
        (performFlat (makeHostRoom s p bs.length) o.tenant (va57 a) p bs (coreDie core) (some (core, o.owner)) .plain 0) addrs hits
    | _, _ => s

/-- The line of a host-homed page can be reached now, and for a write what it ends can be probed. -/
def copyCan (s : State) (t : Tenant) (n : Nat) (write : Bool) (a : Word) : Bool :=
  isLocal a || (match physOf s t (va57 a) with
    | some p => !linkHolds s p && (!write || probesGo s (homeDie p) (flatHolders s t (va57 a) n))
    | none => true)

/-- The die that homes the bytes at an address: the core's own for local memory. -/
def copyDie (s : State) (core : CoreId) (t : Tenant) (a : Word) : Die := if isLocal a then coreDie core else dieOf s t (va57 a)

/-- The dies other than the core's own that some elements of a copy are read from and written to. -/
def copyAway (s : State) (core : CoreId) (t : Tenant) (toRing : Option CoreId) (es : List (Word × Word)) : List Die :=
  ((es.flatMap (fun e => [copyDie s core t e.1, match toRing with
    | some c => coreDie c
    | none => copyDie s core t e.2])).filter (· != coreDie core)).dedup

/-- The elements of the items of a copy, 512 bytes each. -/
def copyParts (n : Nat) (es : List (Word × Word)) : List (List (Word × Word)) :=
  (List.range (itemBytes (es.length * n)).length).map (fun i => (es.drop (i * (512 / n))).take (512 / n))

/-- The items of a copy at MEM, and those that leave the die at FAB (R371). -/
def copyItems (s : State) (core : CoreId) (t : Tenant) (n : Nat) (es : List (Word × Word)) (toRing : Option CoreId) :
    List Nat × List Nat :=
  let ps := copyParts n es
  (ps.map (fun p => coins (p.length * n)), (ps.filter (fun p => copyAway s core t toRing p != [])).map (fun p => coins (p.length * n)))

/-- What other dies forward of the items of a copy (R371). -/
def copyForwards (s : State) (core : CoreId) (t : Tenant) (n : Nat) (es : List (Word × Word)) (toRing : Option CoreId) : State :=
  (copyParts n es).foldl (fun s p => (copyAway s core t toRing p).foldl (fun s d => chargeForwards s t (coreDie core) d [p.length * n]) s) s

/-- The items of a copy whose packets are dropped on the way to a die that is not in service (R438). -/
def copyLost (s : State) (core : CoreId) (t : Tenant) (toRing : Option CoreId) (p : List (Word × Word)) : Bool :=
  (copyAway s core t toRing p).any (unserved s (coreDie core))

/-- The flat lines that a copy reads count as reads of its die (R283). -/
def countCopyReads (s : State) (core : CoreId) (t : Tenant) (as : List Word) : State :=
  (((as.filter (fun a => !isLocal a)).filterMap (fun a => (physOf s t (va57 a)).map (· / 512 * 512))).dedup).foldl
    (fun s p => countPageRead s p (coreDie core)) s

/-- COPY_COMPLETE (R312): once the items of the copy named by the pick are admitted, it is performed element by element, or
leaves for its ring. It has no reply of its own to charge, as the worked purse of R372 shows. An item that a die out of service would
take part in is dropped, an orphan of the core, and of a copy to a ring every item with it (R438; DESIGN CHOICE, log 59). -/
def execCopyComplete (s : State) : Host.Outcome State Fault Refusal :=
  let core := s.pick.core
  let k := s.core core
  match k.ops.find? (fun o => o.id == s.pick.id) with
  | none => .next s
  | some o =>
    match o.op with
    | .copy src dst esz ext sstr dstr toRing =>
      let t := o.tenant
      let n := 2 ^ esz
      let parts := copyParts n (copyElems src dst ext sstr dstr)
      let lost := parts.filter (copyLost s core t (toRing.map (·.1)))
      let es := if lost.isEmpty then copyElems src dst ext sstr dstr else if toRing.isSome then []
        else (parts.filter (fun p => !copyLost s core t none p)).flatten
      let u := s.lend t o.frames
      let ok := cpFirst k o && es.all (fun e => copyCan u t n false e.1 && (toRing.isSome || copyCan u t n true e.2))
      let dies := es.flatMap (fun e => copyDie s core t e.1 :: (if toRing.isSome then [] else [copyDie s core t e.2]))
      if !ok || (exchangeAll s (coreDie core) dies).isNone then .next s
      else
        let (mem, fab) := copyItems s core t n es (toRing.map (·.1))
        match admitOp s core o mem fab with
        | .error s => .next s
        | .ok s =>
          let s := copyForwards ((exchangeAll s (coreDie core) dies).getD s) core t n es (toRing.map (·.1))
          let s := lost.foldl (fun s _ => orphanAtIssuer s core) s
          (match (if lost.isEmpty then toRing else none) with
           | some (tc, ring) =>
             let data := es.flatMap (fun e => copyRead u core t e.1 n)
             let s := lent s t o.frames (fun s => countCopyReads s core t (es.map (·.1)))
             .next (sendDeliveryFrom (mapOp s core o.id (fun x => { x with op := .delivery })) core o tc ring data o.rel)
           | none =>
             let s := lent s t o.frames (fun s =>
               es.foldl (fun s e => copyWrite s core o e.2 (copyRead s core t e.1 n)) (countCopyReads s core t (es.map (·.1))))
             .next (finishOp s core o.id))
    | _ => .next s

/-! ## `tsub` and `tdrain` (R313, R314, R361) -/

/-- The installed record a TID names. -/
def withDesc (tid : Tid) (s : State) (k : State → Desc → Eff) : Eff :=
  match lookDesc s tid with
  | some (d, s) => k s d
  | none => .trap .tidInvalid (tid.setWidth 64)

/-- Of every run of some tiles the first byte, and the first one of the last page it reaches: a run of at most 512 bytes lies on two
pages at most (R309). -/
def tileEnds (d : Desc) (qs : List Nat) : List Word :=
  qs.flatMap (fun q => (d.runs q).flatMap (fun r => [canon r.2.1, canon (max r.2.1 ((r.2.1 + r.2.2 - 1) / 4096 * 4096))]))

def streamEff (drain : Bool) (f n : SCon) (tid : Tid) (ring : BitVec 4) (s : State) : Eff :=
  withCopyRoom s (fun s => withDesc tid s (fun s d =>
    let first := (readSC s.me f).toNat
    let count := (readSC s.me n).toNat
    let r := s.myCore.ring ring
    if count < 1 ∨ 65535 < count then .trap .illegal 50
    else if d.tileCount < first + count then .trap .illegal 41
    else if !r.defined || decide (2 ^ r.lg < d.tileSize) then .trap .ring (ring.setWidth 64)
    else
      let ends := tileEnds d ((List.range count).map (first + ·))
      withPageList (if drain then .write else .read) ends [] s (fun s fr =>
        .done (newOp s (if drain then .drain tid first count ring 0 else .load tid first count ring 0) (partsOf ends) fr).1)))

/-- `tsub` (R313). -/
def execTsub (h : Header) (f n : SCon) (tid : Tid) (ring : BitVec 4) (s : State) : Host.Outcome State Fault Refusal :=
  issue (.tsub h f n tid ring) (streamEff false f n tid ring) s

/-- `tdrain` (R314). -/
def execTdrain (h : Header) (f n : SCon) (tid : Tid) (ring : BitVec 4) (s : State) : Host.Outcome State Fault Refusal :=
  issue (.tdrain h f n tid ring) (streamEff true f n tid ring) s

/-- An operation that is cut short: each tile not done is an orphan at its core, and it completes (R441). -/
def cutOp (s : State) (core : CoreId) (o : CopyOp) (ring : BitVec 4) (left : Nat) : State :=
  let s := (List.range left).foldl (fun s _ => orphan s core) s
  let k := s.core core
  finishOp (s.setCore core (k.setRing ring ((k.ring ring).forget (.op o.id)))) core o.id

/-- The loader or the storer goes on under a ring, or is cut short. -/
def ringLost (k : Core) (o : CopyOp) (ring : BitVec 4) (size : Nat) : Bool :=
  let r := k.ring ring
  k.cuts.contains (ring, .op o.id) || !r.defined || decide (2 ^ r.lg < size)

/-- A loader or a storer goes on to its next tile, or has done its last. -/
def nextTile (s : State) (core : CoreId) (o : CopyOp) (op : BatchOp) (last : Bool) : State :=
  let s := mapOp s core o.id (fun x => { x with op := op, items := 0, fabItems := 0 })
  if last then finishOp s core o.id else s

/-- A line of a tile in host memory cannot be reached while the link is down (R419). -/
def tileDown (s : State) (o : CopyOp) (d : Desc) (q : Nat) : Bool :=
  !s.linkUp && (tileAddrs d q 0 512).any (fun a => match physOf (s.lend o.tenant o.frames) o.tenant a.2 with
    | some p => linkHolds s p
    | none => false)

/-- LOADER_TILE_PUSH (R313): the next tile of the operation named by the pick is read at home and published; the access takes no hint
(DEDUCED, log 61). A tile whose home is out of service is dropped (R438; DESIGN CHOICE, log 59). -/
def execLoaderTilePush (s : State) : Host.Outcome State Fault Refusal :=
  let core := s.pick.core
  let k := s.core core
  match k.ops.find? (fun o => o.id == s.pick.id) with
  | none => .next s
  | some o =>
    match o.op with
    | .load tid first count ring done =>
      (match s.desc o.tenant tid with
       | none => .next (cutOp s core o ring (count - done))
       | some d =>
         if ringLost k o ring d.tileSize then .next (cutOp s core o ring (count - done))
         else
           let q := first + done
           let home := dieOf s o.tenant (d.tileAddr q)
           let op : BatchOp := .load tid first count ring (done + 1)
           if !stFirst k o || tileDown s o d q || (exchange s (coreDie core) home false).isNone then .next s
           else if unserved s (coreDie core) home then .next (nextTile (orphanAtIssuer s core) core o op (done + 1 = count))
           else match admitTile s core o d.tileSize home with
           | .error s => .next s
           | .ok s =>
             let k := s.core core
             let r := k.ring ring
             (match r.claim (s.cycleAt core) rankMover (.op o.id) (.device o.id) with
              | (none, r') => .next (s.setCore core (k.setRing ring r'))
              | (some i, r') =>
                let s := chargeAfter ((exchange s (coreDie core) home false).getD s) o.tenant (coreDie core) home d.tileSize
                let s := lent s o.tenant o.frames (fun s => fillEntry s o.tenant tid d q 0)
                let image := (tileBytes s o.tenant tid d q home).take d.tileSize
                let k := ((s.core core).setRing ring (r'.publish i [])).writeLocal (r.slotBase i) (slotImage r image)
                .next (nextTile (s.setCore core k) core o op (done + 1 = count))))
    | _ => .next s

/-- STORER_TILE_WRITE (R314, R361): the next filled slot becomes a tile at its home, as one write that takes no hint (DEDUCED,
log 61). One for a home out of service is dropped (R438; DESIGN CHOICE, log 59). -/
def execStorerTileWrite (s : State) : Host.Outcome State Fault Refusal :=
  let core := s.pick.core
  let k := s.core core
  match k.ops.find? (fun o => o.id == s.pick.id) with
  | none => .next s
  | some o =>
    match o.op with
    | .drain tid first count ring done =>
      (match s.desc o.tenant tid with
       | none => .next (cutOp s core o ring (count - done))
       | some d =>
         if ringLost k o ring d.tileSize then .next (cutOp s core o ring (count - done))
         else
           let q := first + done
           let home := dieOf s o.tenant (d.tileAddr q)
           let op : BatchOp := .drain tid first count ring (done + 1)
           if !stFirst k o || tileDown s o d q || (exchange s (coreDie core) home false).isNone
               || !probesGo s home (tagHolders s (tensorTag o.tenant tid q)) then .next s
           else match admitTile s core o d.tileSize home with
           | .error s => .next s
           | .ok s =>
             let k := s.core core
             let r := k.ring ring
             (match r.take (s.cycleAt core) rankMover (.op o.id) (.device o.id) with
              | (none, r') => .next (s.setCore core (k.setRing ring r'))
              | (some (i, _), r') =>
                let image := k.readLocal (r.slotBase i) d.tileSize
                let s := s.setCore core (k.setRing ring (r'.free i))
                if unserved s (coreDie core) home then .next (nextTile (orphanAtIssuer s core) core o op (done + 1 = count))
                else
                let s := chargeAfter ((exchange s (coreDie core) home false).getD s) o.tenant (coreDie core) home 0
                let addrs := tileAddrs d q 0 d.tileSize
                let vas := addrs.map (·.2)
                let hits := tillsCounting s o.tenant vas
                let s := recordOp s o (tileGrans s o.tenant tid q 0 addrs d.tileSize) hits
                let s := countTills (some (coreDie core))
                  (lent s o.tenant o.frames (fun s => performTile s o.tenant tid d q 0 image (coreDie core) (core, o.owner) 0)) vas hits
                .next (nextTile s core o op (done + 1 = count))))
    | _ => .next s

/-! ## `gath` (R315) -/

/-- The tile and the image element of an element number. -/
def Desc.elemAt (d : Desc) (e : Nat) : Nat × Nat :=
  let i := digits d.ext e
  let q := ((i.zip d.tile).zip d.tiles).foldr (fun x acc => x.1.1 / x.1.2 + x.2 * acc) 0
  let j := (i.zip d.tile).foldr (fun x acc => x.1 % x.2 + x.2 * acc) 0
  (q, j)

/-- The bits of an image element. -/
def imageBits (image : List Byte) (w j : Nat) : Nat := (bytesNat ((image.drop (w * j / 8)).take 9) >>> (w * j % 8)) % 2 ^ w

/-- A gather reads over GA: nothing is checked or recorded for races (R341, R348). One poisoned element zeroes the whole
destination (R417). Its reads take the hint of its header (R46, R293, DEDUCED, log 61). -/
def gathEff (h : Header) (d i : VReg) (tid : Tid) (cnt : BitVec 2) (s : State) : Eff :=
  withDesc tid s (fun s r =>
    let n := cnt.toNat + 1
    let regs := (List.range n).map (fun x => s.me.getV (i.r + BitVec.ofNat 5 x))
    match regs.find? (fun x => x.tag != .i32) with
    | some x => tagTrap 0 x.tag .b128 .b128
    | none =>
      if r.tag.lanes ≠ 4 * n then tagTrap 4 .i32 r.tag .b128
      else
        let t := s.myTenant
        let idx := (List.range (4 * n)).map (fun j => lane (regs.getD (j / 4) {}) (j % 4))
        let total := r.ext.foldl (· * ·) 1
        let places := idx.map (fun e => if e < total then some (r.elemAt e) else none)
        let w := r.bits
        let span (j : Nat) : Nat × Nat := (w * j / 8, (w * j + w - 1) / 8 + 1 - w * j / 8)
        let bytesOf (q j : Nat) : List Nat := (tileAddrs r q (span j).1 (span j).2).map (·.2)
        let tiles := places.filterMap (fun p => p.map (fun x => (x.1, bytesOf x.1 x.2)))
        let addrs := tiles.flatMap (·.2)
        let own := coreDie s.curCore
        let dies := (tiles.map (fun x => dieOf s t (r.tileAddr x.1))).dedup
        withPageList .read (addrs.map canon) [] s (fun s _ => withTileLinks t tid r tiles s (fun s =>
          withRequests [16] ((dies.filter (· != own)).map (fun _ => 16)) dies 16 (fun s =>
            let s := tiles.foldl (fun s x => readEntry s t tid r x.1 own h.hint) s
            let read (p : Option (Nat × Nat)) : Nat × Option Word := match p with
              | some (q, j) =>
                let bs := tileBytes s t tid r q (coreDie s.curCore)
                let (o, l) := span j
                (match cleanBytes ((bs.drop o).take l) with
                 | (_, none) => (imageBits (bs.map (·.1)) w j, none)
                 | (_, some x) => (0, some (canon ((r.byteAddr q (o + x)).getD 0))))
              | none => (0, none)
            let vals := places.map read
            match (vals.filterMap (·.2)).head? with
            | some a => .done (wrV (consumed s a) d (packLanes r.tag (vals.map (fun _ => 0))))
            | none => .done (wrV s d (packLanes r.tag (vals.map (·.1))))) s)))

/-- `gath` (R315). -/
def execGath (h : Header) (d i : VReg) (tid : Tid) (cnt : BitVec 2) (s : State) : Host.Outcome State Fault Refusal :=
  issue (.gath h d i tid cnt) (gathEff h d i tid cnt) s

/-! ## Tile operations (R316 to R319) -/

/-- The slice and the entry that a tile number of a TID names, TID 0 being the flat space. -/
def tileSlot (s : State) (t : Tenant) (tid : Tid) (q : Nat) : Option (ClusterId × BitVec 64) :=
  if tid = 0 then
    match physOf s t (512 * q) with
    | some p => some (flatHome (512 * q % 2 ^ 57) p, flatTag t (512 * q % 2 ^ 57))
    | none => none
  else match s.desc t tid with
    | some d => some (tileHome s t tid d q, tensorTag t tid q)
    | none => none

def tfindEff (h : Header) (k : KReg) (n : SCon) (tid : Tid) (s : State) : Eff :=
  let q := (readSC s.me n).toNat
  let go (s : State) (count : Nat) : Eff :=
    if count ≤ q then .trap .illegal 41
    else match tileSlot s s.myTenant tid q with
      | none => .done (wrK s k false)
      | some (cl, tag) => withExchange (cl.extractLsb' 10 3) false (fun s =>
        match tileEntry s cl tag false with
        | some e => .done (wrK (touchEntry s cl h.hint e) k true)
        | none => .done (wrK s k false)) s
  if tid = 0 then go s (2 ^ 48) else withDesc tid s (fun s d => go s d.tileCount)

def tnearEff (h : Header) (n dims : SCon) (tid : Tid) (s : State) : Eff :=
  withCopyRoom s (fun s => withDesc tid s (fun s d =>
    let m := readSC s.me dims
    if m.toNat / 2 ^ d.rank ≠ 0 then .trap .illegal 50
    else .done (newOp s (.tile 0 tid (readSC s.me n).toNat m.toNat h.hint) []).1))

/-- Both fills of a `thalo` take no hint (DEDUCED, log 61). -/
def thaloEff (h : Header) (n die : SCon) (tid : Tid) (s : State) : Eff :=
  withCopyRoom s (fun s => withDesc tid s (fun s d =>
    let q := (readSC s.me n).toNat
    let x := readSC s.me die
    if 7 < x.toNat then .trap .illegal 50
    else
      let ends := if q < d.tileCount then tileEnds d [q] else []
      withPageList .read ends [] s (fun s fr => .done (newOp s (.tile 1 tid q x.toNat h.hint) (partsOf ends) fr).1)))

def tdropEff (tid : Tid) (s : State) : Eff :=
  withCopyRoom s (fun s => withDesc tid s (fun s _ => .done (newOp s (.tile 2 tid 0 0 0) []).1))

def tflushEff (tid : Tid) (s : State) : Eff :=
  withCopyRoom s (fun s => withDesc tid s (fun s d =>
    let ends := tileEnds d (List.range d.tileCount)
    withPageList .read ends [] s (fun s fr => .done (newOp s (.tile 3 tid 0 0 0) (partsOf ends) fr).1)))

/-- `tfind` (R316). -/
def execTfind (h : Header) (k : KReg) (n : SCon) (tid : Tid) (s : State) : Host.Outcome State Fault Refusal :=
  issue (.tfind h k n tid) (tfindEff h k n tid) s

/-- `tnear` (R317). -/
def execTnear (h : Header) (n dims : SCon) (tid : Tid) (s : State) : Host.Outcome State Fault Refusal :=
  issue (.tnear h n dims tid) (tnearEff h n dims tid) s

/-- `thalo` (R318). -/
def execThalo (h : Header) (n die : SCon) (tid : Tid) (s : State) : Host.Outcome State Fault Refusal :=
  issue (.thalo h n die tid) (thaloEff h n die tid) s

/-- `tdrop` (R319). -/
def execTdrop (h : Header) (tid : Tid) (s : State) : Host.Outcome State Fault Refusal :=
  issue (.tdrop h tid) (tdropEff tid) s

/-- `tflush` (R319). -/
def execTflush (h : Header) (tid : Tid) (s : State) : Host.Outcome State Fault Refusal :=
  issue (.tflush h tid) (tflushEff tid) s

/-- An entry of a TID of a tenant. -/
def entryOfTid (t : Tenant) (tid : Tid) (e : SliceEntry) : Bool := !tagFlat e.tag && tagTenant e.tag == t && tagTid e.tag == tid

/-- Discards every entry and copy of a TID with its dirty bytes (R319). -/
def dropTid (s : State) (t : Tenant) (tid : Tid) : State :=
  { s with
    clusters := s.clusters.map (fun e => (e.1, { e.2 with slice := e.2.slice.filter (fun x => !entryOfTid t tid x) }))
    poison := s.poison.filter (fun g => match g with
      | .tensor tag _ => !(tagTenant tag == t && tagTid tag == tid)
      | _ => true) }

/-- Writes back every dirty byte of a TID, and to the stack every dirty flat granule of the tensor; the entries stay
clean and lose their marks (R278, R319). -/
def flushTid (s : State) (t : Tenant) (tid : Tid) (d : Desc) : State :=
  let es := s.clusters.flatMap (fun e => e.2.slice.filter (fun x => entryOfTid t tid x && !x.copy))
  let s := es.foldl writeBackTensor s
  let s := { s with clusters := s.clusters.map (fun e => (e.1, { e.2 with
    slice := e.2.slice.map (fun x => if entryOfTid t tid x then { x with dirty := 0, kept := false, writers := [], mask := x.mask.map (fun _ => false) } else x) })) }
  let phys := (List.range d.tileCount).flatMap (fun q => (d.runs q).flatMap (fun r =>
    (List.range r.2.2).filterMap (fun i => (physOf s t (r.2.1 + i)).map (· / 512 * 512))))
  phys.dedup.foldl (fun s p => backFlat s t p) s

/-- The neighbours of a tile under a mask: ascending dimension, lower first (R317). -/
def neighbours (d : Desc) (q mask : Nat) : List Nat :=
  let ts := d.tiles
  let c := digits ts q
  if d.tileCount ≤ q then []
  else (List.range d.rank).flatMap (fun e =>
    if mask.testBit e then
      let step := (ts.take e).foldl (· * ·) 1
      let x := c.getD e 0
      (if 0 < x then [q - step] else []) ++ (if x + 1 < ts.getD e 0 then [q + step] else [])
    else [])

/-- Every page of a tile can be read from a core. -/
def tileReadable (s : State) (core : CoreId) (t : Tenant) (d : Desc) (q : Nat) : Bool :=
  (tileEnds d [q]).all (fun a => match translate s core t a .read with
    | .ok .. => true
    | _ => false)

/-- The dies of the entries of a TID, and for a flush those of the flat lines that they are written to. -/
def tidDies (s : State) (t : Tenant) (tid : Tid) (d : Desc) (flush : Bool) : List Die :=
  (s.clusters.filter (fun e => e.2.slice.any (entryOfTid t tid))).map (fun e => BitVec.ofNat 3 (e.1 / 1024))
    ++ (if flush then (tileEnds d (List.range d.tileCount)).map (fun a => dieOf s t (va57 a)) else [])

/-- The tiles of an operation cannot be reached while the link to the host is down (R419). -/
def tilesDown (s : State) (o : CopyOp) (d : Desc) (kind : Nat) (qs : List Nat) : Bool :=
  if kind = 2 then false
  else !s.linkUp && (!o.frames.isEmpty || qs.any (tileDown s o d))

/-- TILE_OPERATION_COMPLETE (R317 to R319): the tile operation named by the pick is done. A line of host memory holds it while the
link is down (R419). -/
def execTileOperationComplete (s : State) : Host.Outcome State Fault Refusal :=
  let core := s.pick.core
  let k := s.core core
  match k.ops.find? (fun o => o.id == s.pick.id) with
  | none => .next s
  | some o =>
    match o.op with
    | .tile kind tid q arg hint =>
      if !cpFirst k o then .next s
      else
        (match s.desc o.tenant tid with
         | none => .next (finishOp s core o.id)
         | some d =>
           let t := o.tenant
           let qs := if kind = 0 then neighbours d q arg else if kind = 1 then [q] else []
           let dies := qs.map (fun n => dieOf s t (d.tileAddr n)) ++ (if kind = 1 then [BitVec.ofNat 3 arg] else [])
             ++ (if 2 ≤ kind then tidDies s t tid d (kind == 3) else [])
           -- what would reach a die out of service is dropped (R438; DESIGN CHOICE, log 59)
           let far (x : Die) : Bool := unserved s (coreDie core) x
           let lost := if kind = 1 then (dies.filter far).take 1 else (if kind = 0 then dies else dies.dedup).filter far
           match (if tilesDown s o d kind qs then none else exchangeAll s (coreDie core) dies) with
           | none => .next s
           | some s =>
           let s := lost.foldl (fun s _ => orphanAtIssuer s core) s
           let s' := if kind = 1 && !lost.isEmpty then s else lent s t o.frames (fun s =>
             if kind = 0 then
               (neighbours d q arg).foldl (fun s n =>
                 if tileReadable s core t d n && !unserved s (coreDie core) (dieOf s t (d.tileAddr n)) then fillEntry s t tid d n hint else s) s
             else if kind = 1 then
               let die : Die := BitVec.ofNat 3 arg
               if d.tileCount ≤ q || die == dieOf s t (d.tileAddr q) || (s.die die).fenced then s
               else
                 let s := fillEntry s t tid d q 0
                 let image := (tileBytes s t tid d q (dieOf s t (d.tileAddr q))).map (·.1)
                 touchEntry s (homeSlice die tid.toNat q) 0
                   { tag := tensorTag t tid q, valid := BitVec.allOnes 8, copy := true, data := image }
             else if kind = 2 then dropTid s t tid
             else flushTid s t tid d)
           .next (finishOp s' core o.id))
    | _ => .next s

/-! ## Descriptor records (R287, R288, R320 to R322) -/

/-- The first failing 8 bytes of a record whose rank is legal (R288 check 2). -/
def descRecFault (bs : List Byte) (rank : Nat) : Option Nat :=
  let b (i : Nat) : Nat := (bs.getD i 0).toNat
  let byteBad (i : Nat) : Bool :=
    if i = 7 then decide (2 ≤ b i)
    else if i = 11 then decide (0x20 ≤ b i)
    else if 12 ≤ i ∧ i < 16 then b i != 0
    else if 16 ≤ i ∧ i < 48 then decide (rank ≤ (i - 16) / 4) && b i != 0
    else if 48 ≤ i ∧ i < 88 then decide (rank ≤ (i - 48) / 5) && b i != 0
    else if 88 ≤ i ∧ i < 104 then (decide (rank ≤ (i - 88) / 2) && b i != 0) || (i % 2 == 1 && decide (8 ≤ b i))
    else if 104 ≤ i then b i != 0
    else false
  let bad (i : Nat) : Bool := (List.range 8).any (fun j => byteBad (8 * i + j))
    || (List.range rank).any (fun d => (16 + 4 * d) / 8 == i && bytesNat ((bs.drop (16 + 4 * d)).take 4) == 0)
  ((List.range 16).find? bad).map (8 * ·)

/-- The record that stands in 128 bytes. -/
def descOfBytes (bs : List Byte) : Desc :=
  let ctrl := wordAt bs 8
  let rank := (ctrl.extractLsb' 4 4).toNat
  { base := wordAt bs 0, tag := tagOfCode (ctrl.extractLsb' 0 4).toNat, rank := rank, sb := ctrl.extractLsb' 8 8
    key := ctrl.extractLsb' 16 12, aliasOk := ctrl.getLsbD 28
    ext := (List.range rank).map (fun d => bytesNat ((bs.drop (16 + 4 * d)).take 4))
    stride := (List.range rank).map (fun d => bytesNat ((bs.drop (48 + 5 * d)).take 5))
    tile := (List.range rank).map (fun d => bytesNat ((bs.drop (88 + 2 * d)).take 2) % 2048)
    bytes := bs }

/-- The first dimension of a rule that fails from dimension 1 on. -/
def firstDim (rank : Nat) (bad : Nat → Bool) : Option Nat := (List.range rank).find? bad

/-- span(d) of R288. -/
def Desc.span (r : Desc) : Nat → Nat
  | 0 => r.ext.headD 0 * r.bits / 8
  | d + 1 => r.stride.getD (d + 1) 0 * (r.ext.getD (d + 1) 0 - 1) + r.span d

/-- A format that packs less than whole bytes, with the multiple its rows need. -/
def narrowStep (t : Tag) : Nat := if t = .q4 then 2 else if t = .t6 then 4 else 1

/-- The checks of R288 in order. -/
def descFault (s : State) (bs : List Byte) : Option (Cause × Nat) :=
  let r := descOfBytes bs
  let fmt := (wordAt bs 8).extractLsb' 0 4
  let esz := max 1 (r.bits / 8)
  let narrow := r.tag = .q4 ∨ r.tag = .t6
  let bits := r.tile.foldl (· * ·) 1 * r.bits
  if r.rank = 0 ∨ 8 < r.rank then some (.tdtRank, r.rank)
  else match descRecFault bs r.rank with
    | some o => some (.illegal, 128 + o)
    | none =>
      if 10 < fmt.toNat then some (.tdtFormat, fmt.toNat)
      else if r.base % 64 ≠ 0 then some (.tdtAlign, 8)
      else if r.stride.headD 0 ≠ (if narrow then 0 else esz) then some (.tdtAlign, 0)
      else match firstDim r.rank (fun d => decide (0 < d) && r.stride.getD d 0 % esz != 0) with
        | some d => some (.tdtAlign, d)
        | none =>
          if r.ext.headD 0 % narrowStep r.tag ≠ 0 then some (.tdtAlign, 0)
          else match firstDim r.rank (fun d => r.tile.getD d 0 == 0) with
            | some d => some (.tdtTile, d)
            | none =>
              if bits % 8 ≠ 0 ∨ 4096 < bits then some (.tdtTile, 8)
              else if r.tile.headD 0 % narrowStep r.tag ≠ 0 then some (.tdtTile, 0)
              else if 2 ^ 40 ≤ r.tileCount then some (.tdtTile, 8)
              else match firstDim r.rank (fun d => decide (0 < d) && decide (r.stride.getD d 0 < r.span (d - 1)) && !r.aliasOk) with
                | some d => some (.tdtOverlap, d)
                | none =>
                  if sparseGet (0 : BitVec 7) s.keyOwner r.key.toNat ≠ s.myTenant then some (.tenant, r.key.toNat) else none

/-- The clusters' copies of a record go (R286). -/
def dropDescCopies (s : State) (t : Tenant) (tid : Nat) : State :=
  { s with clusters := s.clusters.map (fun e =>
      if e.2.tenant = t ∧ (sparseFind e.2.descs tid).isSome then (e.1, { e.2 with descs := sparseErase e.2.descs tid }) else e) }

/-- The read of the record takes the hint of the header (R46, R293, DEDUCED, log 61). -/
def tdefEff (h : Header) (t : SCon) (a : SReg) (s : State) : Eff :=
  let x := readSC s.me t
  let sa := readS s.me a
  if x = 0 ∨ 1024 ≤ x.toNat then .trap .tidInvalid x
  else if (s.desc s.myTenant (x.setWidth 16)).isSome then .trap .illegal 41
  else readPoisoned sa 128 128 h.hint false s (fun s pbs =>
    match cleanBytes pbs with
    | (_, some i) => .done (consumed s (sa + BitVec.ofNat 64 i))
    | (bs, none) =>
      match descFault s bs with
      | some (c, e) => .trap c (BitVec.ofNat 64 e)
      | none =>
        let tn := s.myTenant
        if !quotaFits s tn 5 0 1 then .trap .quota 0
        else
          let s := quotaTake s tn 5 0 1
          let ts := s.tenantSt tn
          .done (dropDescCopies (s.setTenantSt tn { ts with descs := sparsePut ts.descs x.toNat (descOfBytes bs) }) tn x.toNat))

/-- Posts the pieces of 16 bytes of a `tget`. -/
def postPieces (hint : BitVec 2) (a : Word) (p : Nat) (bs : List Byte) (s : State) : List Nat → State
  | [] => s
  | e :: es =>
    let w := dataWords (bs.take 16)
    let s := s.setMyCore (updateL1 s.myCore (va57 a) (good (bs.take 16)))
    let s := post s e (homeDie p) { size := 15, kind := 5, addr := a, d0 := w.1, d1 := w.2, phys := p, hint := hint }
    postPieces hint (a + 16) (p + 16) (bs.drop 16) s es

/-- The record named by a register value. -/
def withTidReg (x : Word) (s : State) (k : State → Tid → Desc → Eff) : Eff :=
  match (if x.extractLsb' 16 48 = 0 then lookDesc s (x.setWidth 16) else none) with
  | some (d, s) => k s (x.setWidth 16) d
  | none => .trap .tidInvalid x

/-- The writes of the record take the hint of the header (R46, R293, DEDUCED, log 61). -/
def tgetEff (h : Header) (t : SCon) (a : SReg) (s : State) : Eff :=
  let da := readS s.me a
  withTidReg (readSC s.me t) s (fun s _ d =>
    withAccess s da 128 128 .write (fun s pl => match pl with
      | .here b => .done (s.setMyCore (s.myCore.writeLocal b (good d.bytes)))
      | .mem p _ => match freeEntries s.myCore 8 with
        | some es => withAdmission [128] (homeDie p) (fun s => .done (postPieces h.hint da p d.bytes s es)) s
        | none => .hold s))

/-- An accepted instruction of the tenant that names a TID is unfinished (R322). -/
def tidBusy (s : State) (t : Tenant) (tid : Tid) : Bool :=
  s.cores.any (fun e =>
    e.2.ops.any (fun o => o.tenant == t && (match o.op with
      | .load x .. | .drain x .. | .tile _ x .. => x == tid
      | _ => false))
    || e.2.engine.any (fun x => x.tenant == t && (x.op == .mma || x.op == .mcvt || x.op == .gemv) && !x.owes && (x.tidA == tid || (x.op == .mma && x.tidB == tid)))
    || e.2.gemvs.any (fun g => g.tenant == t && g.tid == tid)
    || e.2.journal.any (fun j => j.2.state == 1 && j.2.kind == 2 && j.2.tid == tid && s.tenantOf (BitVec.ofNat 16 e.1) == t))

/-- Removes a record: written back, discarded, and returned to the quota. The records of its granules end with it,
since a later tensor of the TID has other bytes (DEDUCED, log 27). -/
def killTid (s : State) (t : Tenant) (tid : Tid) (d : Desc) : State :=
  let s := dropTid (flushTid s t tid d) t tid
  let ts := s.tenantSt t
  let s := dropDescCopies (s.setTenantSt t { ts with descs := sparseErase ts.descs tid.toNat }) t tid.toNat
  let s := { s with grans := s.grans.filter (fun g => match g.1 with
    | .tensor tag _ => !(tagTenant tag == t && tagTid tag == tid)
    | _ => true) }
  quotaReturn s t 5 0 1

/-- A dirty byte of a TID whose place is in host memory cannot be written back while the link is down (R419). -/
def tidDown (s : State) (t : Tenant) (tid : Tid) (d : Desc) : Option Nat :=
  if s.linkUp then none
  else ((s.clusters.flatMap (fun e => e.2.slice.filter (fun x => entryOfTid t tid x && !x.copy))).flatMap (fun e =>
    (List.range 8).flatMap (fun g => (dirtyBytes s d e g).map (·.1)))).find? (fun a => (physOf s t a).any isHost)

def tkillEff (t : SCon) (s : State) : Eff :=
  withTidReg (readSC s.me t) s (fun s tid d =>
    if tidBusy s s.myTenant tid then .hold s
    else
      let kill (s : State) : Eff := .done (killTid s s.myTenant tid d)
      match tidDown s s.myTenant tid d with
      | some a => withLink s (canon a) hostBase kill
      | none => kill s)

/-- `tdef` (R320). -/
def execTdef (h : Header) (t : SCon) (a : SReg) (s : State) : Host.Outcome State Fault Refusal :=
  issue (.tdef h t a) (tdefEff h t a) s

/-- `tget` (R321). -/
def execTget (h : Header) (t : SCon) (a : SReg) (s : State) : Host.Outcome State Fault Refusal :=
  issue (.tget h t a) (tgetEff h t a) s

/-- `tkill` (R322). -/
def execTkill (h : Header) (t : SCon) (s : State) : Host.Outcome State Fault Refusal :=
  issue (.tkill h t) (tkillEff t) s

end Sys2Proof.Machine
end

