-- ==== Sys2Proof/Machine/Matrix.lean ====
section
/-! DEFINITION. The matrix engine: its queue, the accumulators, `mzero`, `mma`, `mload`, `mstore`, `mcvt`, `mmv`, `mwait`
and `gemv`, with the events of the engine and of the bank multipliers (R18, R169 to R186, R191 to R196, R416, R441). -/

namespace Sys2Proof.Machine

/-! ## Accumulators (R169, R416) -/

/-- The key of element (i, j) of accumulator m; the elements of one accumulator are 512 keys in memory order. -/
def accKey (m : BitVec 2) (n : Nat) : Nat := 512 * m.toNat + n

def Core.accAt (k : Core) (m : BitVec 2) (n : Nat) : BitVec 32 := sparseGet 0 k.acc (accKey m n)

/-- Writes one element with its poison. -/
def Core.setAcc (k : Core) (m : BitVec 2) (n : Nat) (x : BitVec 32) (bad : Bool) : Core :=
  let key := accKey m n
  { k with acc := sparseAssign 0 k.acc key x
           accPoison := if bad then (if k.accPoison.contains key then k.accPoison else k.accPoison ++ [key])
                        else if k.accPoison.isEmpty then [] else k.accPoison.filter (· != key) }

/-- The 2,048 bytes of an accumulator with the poison of its elements (R169, R183, R416). -/
def Core.accBytes (k : Core) (m : BitVec 2) : List PByte :=
  (List.range 512).flatMap (fun n =>
    (natBytes 4 (k.accAt m n).toNat).map (fun b => (b, k.accPoison.contains (accKey m n))))

/-- Loads an accumulator from 2,048 bytes. -/
def Core.loadAcc (k : Core) (m : BitVec 2) (bs : List PByte) : Core :=
  (List.range 512).foldl (fun k n =>
    let b := (bs.drop (4 * n)).take 4
    k.setAcc m n (BitVec.ofNat 32 (bytesNat (b.map (·.1)))) (b.any (·.2))) k

/-- Clears an accumulator to +0 (R182). -/
def Core.zeroAcc (k : Core) (m : BitVec 2) : Core := (List.range 512).foldl (fun k n => k.setAcc m n 0 false) k

/-- A counter of `ctl.mxcnt` stops at 2^21 − 1 (R170). -/
def sat21 (n : Nat) : Nat := min n (2 ^ 21 - 1)

/-! ## Elements of tiles (R90, R176) -/

/-- Element number n of packed bytes: its value at a scale base and whether it is poisoned. -/
def packedElem (t : Tag) (sb : Int) (bs : List PByte) (n : Nat) : Num × Bool :=
  let w := t.width
  let lo := w * n / 8
  let b := (bs.drop lo).take ((w * n + w - 1) / 8 + 1 - lo)
  (elemVal t sb ((bytesNat (b.map (·.1)) >>> (w * n % 8)) % 2 ^ w), b.any (·.2))

/-- Packs elements with their poison into bytes; a byte is poisoned when an element in it is. -/
def packElems (w : Nat) (xs : List (Nat × Bool)) : List PByte :=
  let n := xs.length * w / 8
  let v := xs.zipIdx.foldl (fun a e => a + e.1.1 * 2 ^ (w * e.2)) 0
  (natBytes n v).zipIdx.map (fun b => (b.1, ((xs.drop (8 * b.2 / w)).take ((8 * b.2 + 7) / w + 1 - 8 * b.2 / w)).any (·.2)))

/-! ## The queue (R18, R171, R172) -/

/-- The fields of a record that the engine captures. -/
def capOf (d : Desc) : DescCap := { tag := d.tag, sb := d.sb, tile0 := d.tile.headD 1, tile1 := d.tile.getD 1 1 }

/-- A queue entry frees for the context that waited first. -/
def withEngineRoom (s : State) (k : State → Eff) : Eff :=
  let c := s.myCore
  let first := match c.engWait with
    | [] => true
    | n :: _ => n == s.curCtx
  if first && decide (c.engine.length < 2) then k (s.setMyCore { c with engWait := c.engWait.erase s.curCtx })
  else .hold (s.setMyCore { c with engWait := if c.engWait.contains s.curCtx then c.engWait else c.engWait ++ [s.curCtx] })

/-- A fresh entry of the issuing context. -/
def newEntry (s : State) (i : Instr) (op : EngOp) : EngEntry :=
  { id := s.nextId, owner := s.myHandle, op := op, word := (encode i).getD 0, tenant := s.myTenant
    rc := s.me.rc, bar := coreBar s.curCore s.myCore.dom, ep := s.myCore.ep, off := s.me.mmOff, epc := s.me.pc }

/-- Acceptance of an entry. -/
def enterEngine (s : State) (e : EngEntry) : State :=
  { (s.setMyCore { s.myCore with engine := s.myCore.engine ++ [e] }) with nextId := s.nextId + 1 }

/-- The entry the engine executes: the first whose work is not done. -/
def engineHead (k : Core) : Option EngEntry := k.engine.find? (fun e => !e.owes)

def setEntry (k : Core) (e : EngEntry) : Core := { k with engine := k.engine.map (fun x => if x.id = e.id then e else x) }

/-- An entry leaves the queue and waits on no ring. -/
def leaveEngine (k : Core) (id : Nat) : Core :=
  let owner := (k.engine.find? (fun e => e.id == id)).map (·.owner)
  let k := { k with engine := k.engine.filter (fun e => e.id != id), cuts := k.cuts.filter (fun e => e.2 != .engine id)
                    rings := k.rings.map (fun e => (e.1, e.2.forget (.engine id))) }
  match owner with
  | some h => k.settleLeft h
  | none => k

/-- An unfinished entry below a number that names an accumulator (R174). -/
def engineNames (k : Core) (m : BitVec 2) (below : Nat) : Bool :=
  k.engine.any (fun e => !e.owes && decide (e.id < below) && e.m == m && e.op != .gemv)

/-- Holds until the entries that name m and were accepted before the instruction first issued have completed. Entries that an
`mspill` of another context has taken out of the engine hold nothing any more, since they come back under new numbers (R174, R189,
DESIGN CHOICE, log 64). -/
def withEngineDone (m : BitVec 2) (s : State) (k : State → Eff) : Eff :=
  let below := match s.me.pend with
    | .queued n => n
    | _ => s.nextId
  if engineNames s.myCore m below then .hold (s.setMe { s.me with pend := .queued below }) else k s

/-! ## `mzero`, `mload`, `mstore`, `mwait` and `mmv` (R174, R182 to R184) -/

def mzeroEff (i : Instr) (m : MReg) (s : State) : Eff :=
  withEngineRoom s (fun s => .done (enterEngine s { newEntry s i .mzero with m := m.r }))

/-- The checks of a local area of an engine instruction. -/
def withArea (a : Word) (al n : Nat) (s : State) (k : Eff) : Eff :=
  if a.toNat % al ≠ 0 then .trap .align a
  else if !isLocal a || decide (s.myCore.scratch < a.toNat + n) then .trap .xlatePerm a
  else k

def moveAccEff (i : Instr) (op : EngOp) (m : MReg) (a : SReg) (s : State) : Eff :=
  withEngineRoom s (fun s =>
    let x := readS s.me a
    withArea x 64 2048 s (.done (enterEngine s { newEntry s i op with m := m.r, ops1 := x })))

def mwaitEff (m : MReg) (s : State) : Eff := withEngineDone m.r s .done

/-- The first element of piece p. -/
def pieceElem (p l : Nat) : Nat := p / 4 * 16 + 4 * (p % 4) + l

def mmvGetEff (d : VReg) (m : MReg) (p : SCon) (s : State) : Eff :=
  let n := (readSC s.me p).toNat
  if 127 < n then .trap .illegal 59
  else withEngineDone m.r s (fun s =>
    let k := s.myCore
    let es := (List.range 4).map (pieceElem n)
    if es.any (fun e => k.accPoison.contains (accKey m.r e)) then
      .done (wrV (consumed s (BitVec.ofNat 64 (2048 * m.r.toNat))) d { bits := 0, tag := .fp32 })
    else .done (wrV s d (packLanes .fp32 (es.map (fun e => (k.accAt m.r e).toNat)))))

def mmvPutEff (m : MReg) (a : VSrc) (p : SCon) : State → Eff :=
  withV1 a (fun s x =>
    let n := (readSC s.me p).toNat
    if x.tag ≠ .fp32 then tagTrap 0 x.tag .b128 .b128
    else if 127 < n then .trap .illegal 59
    else withEngineDone m.r s (fun s =>
      .done (s.setMyCore ((List.range 4).foldl (fun k l =>
        k.setAcc m.r (pieceElem n l) (BitVec.ofNat 32 (lane x l)) false) s.myCore))))

/-- `mzero` (R182). -/
def execMzero (h : Header) (m : MReg) (s : State) : Host.Outcome State Fault Refusal :=
  issue (.mzero h m) (mzeroEff (.mzero h m) m) s

/-- `mload` (R183). -/
def execMload (h : Header) (m : MReg) (a : SReg) (s : State) : Host.Outcome State Fault Refusal :=
  issue (.mload h m a) (moveAccEff (.mload h m a) .mload m a) s

/-- `mstore` (R183). -/
def execMstore (h : Header) (a : SReg) (m : MReg) (s : State) : Host.Outcome State Fault Refusal :=
  issue (.mstore h a m) (moveAccEff (.mstore h a m) .mstore m a) s

/-- `mwait` (R174). -/
def execMwait (h : Header) (m : MReg) (s : State) : Host.Outcome State Fault Refusal :=
  issue (.mwait h m) (mwaitEff m) s

/-- `mmv.get` (R184). -/
def execMmvGet (h : Header) (d : VReg) (m : MReg) (p : SCon) (s : State) : Host.Outcome State Fault Refusal :=
  issue (.mmvGet h d m p) (mmvGetEff d m p) s

/-- `mmv.put` (R184). -/
def execMmvPut (h : Header) (m : MReg) (a : VSrc) (p : SCon) (s : State) : Host.Outcome State Fault Refusal :=
  issue (.mmvPut h m a p) (mmvPutEff m a p) s

/-! ## `mma` (R177 to R181) -/

/-- Kt is a tile extent that the format allows (R177). -/
def ktOk (t : Tag) (kt : Nat) : Bool :=
  match t with
  | .i8 | .t8 => decide (1 ≤ kt) && decide (kt ≤ 16)
  | .q4 => decide (2 ≤ kt) && decide (kt ≤ 32) && kt % 2 == 0
  | .t6 => decide (4 ≤ kt) && decide (kt ≤ 20) && kt % 4 == 0
  | .bf16 | .fp16 => decide (1 ≤ kt) && decide (kt ≤ 8)
  | _ => false

def mmaTag (t : Tag) : Bool := t == .i8 || t == .q4 || t == .t6 || t == .t8 || t == .bf16 || t == .fp16

/-- Tile extents of dimension 2 and up are 1. -/
def flatTile (d : Desc) : Bool := (d.tile.drop 2).all (· == 1)

/-- The ring is defined and its slots hold a tile. -/
def ringHolds (k : Core) (r : BitVec 4) (n : Nat) : Bool := (k.ring r).defined && decide (n ≤ 2 ^ (k.ring r).lg)

def mmaEff (i : Instr) (m : MReg) (a b : SReg) (ring gate : BitVec 4) (shape : BitVec 12) (s : State) : Eff :=
  withEngineRoom s (fun s =>
    let xa := readS s.me a
    let xb := readS s.me b
    withTidReg xa s (fun s ta da => withTidReg xb s (fun s tb db =>
      let ca := capOf da
      let cb := capOf db
      if ca.tag ≠ cb.tag ∨ !mmaTag ca.tag then tagTrap 0 ca.tag cb.tag .b128
      else if !(ktOk ca.tag ca.tile0 && ca.tile1 == 32 && flatTile da) then .trap .tdtTile 0
      else if !(cb.tile0 == 16 && cb.tile1 == ca.tile0 && flatTile db) then .trap .tdtTile 1
      else if !ringHolds s.myCore ring ca.size then .trap .ring (ring.setWidth 64)
      else if !ringHolds s.myCore gate cb.size then .trap .ring (gate.setWidth 64)
      else .done (enterEngine s { newEntry s i .mma with
        m := m.r, ops1 := xa, ops2 := xb, tidA := ta, tidB := tb, ringA := ring, ringB := gate, shape := shape.toNat
        capA := ca, capB := cb }))))

/-- `mma` (R178). -/
def execMma (h : Header) (m : MReg) (a b : SReg) (ring gate : BitVec 4) (shape : BitVec 12) (s : State) :
    Host.Outcome State Fault Refusal :=
  issue (.mma h m a b ring gate shape) (mmaEff (.mma h m a b ring gate shape) m a b ring gate shape) s

/-- One rounded addition into an accumulator element, with what it counts: a number turned NaN, and an overflow. -/
def accAdd (old : BitVec 32) (x : Num) : BitVec 32 × Bool × Bool :=
  let o := decodeIeee fmtFP32 old.toNat
  let y := (numAdd o x).1
  let r := (putIeee fmtFP32 y).1
  let n := decodeIeee fmtFP32 r
  (BitVec.ofNat 32 r, !o.isNan && n.isNan, (match y, n with
    | .fin .., .inf _ => true
    | _, _ => false))

/-- The exact term of one k step for element (i, j), and whether a poisoned element enters it (R180, R416). -/
def mmaTerm (e : EngEntry) (ta tb : List PByte) (k i j : Nat) : Num × Bool :=
  let t := e.capA.tag
  let kt := e.capA.tile0
  let va (k : Nat) := packedElem t e.capA.sb.toInt ta (i * kt + k)
  let vb (k : Nat) := packedElem t e.capB.sb.toInt tb (16 * k + j)
  let p0 := (numMul (va k).1 (vb k).1).1
  let bad := (va k).2 || (vb k).2
  if t = .q4 then
    ((numAdd p0 (numMul (va (k + 1)).1 (vb (k + 1)).1).1).1, bad || (va (k + 1)).2 || (vb (k + 1)).2)
  else (p0, bad)

/-- One k step on all 512 elements (R180). -/
def mmaStep (e : EngEntry) (ta tb : List PByte) (k : Nat) (c : Core) : Core :=
  (List.range 512).foldl (fun c n =>
    let x := mmaTerm e ta tb k (n / 16) (n % 16)
    let r := accAdd (c.accAt e.m n) x.1
    let c := c.setAcc e.m n r.1 (x.2 || c.accPoison.contains (accKey e.m n))
    { c with mxNan := sat21 (c.mxNan + r.2.1.toNat), mxOvf := sat21 (c.mxOvf + r.2.2.toNat) }) c

/-- The elements of a tile that are NaR. -/
def countNar (t : Tag) (sb : Int) (bs : List PByte) (n : Nat) : Nat :=
  ((List.range n).filter (fun i => (packedElem t sb bs i).1 == .nar)).length

/-- A held slot becomes free, unless its ring has taken another definition. -/
def freeHeld (k : Core) (x : Option HeldSlot) : Core :=
  match x with
  | some h =>
    let r := k.ring h.ring
    if r.defined && r.defNum == h.defNum then
      (match r.slotAt h.addr.toNat with
       | some i => k.setRing h.ring (r.free i)
       | none => k)
    else k
  | none => k

/-- An engine entry waits on a ring that is gone, or too small for its tile (R441). -/
def engineCut (k : Core) (e : EngEntry) (ring : BitVec 4) (n : Nat) : Bool :=
  k.cuts.contains (ring, .engine e.id) || !ringHolds k ring n

/-- An `mma` that is cut short: the pairs not done are orphans, and it completes. -/
def cutMma (s : State) (core : CoreId) (e : EngEntry) : State :=
  let s := (List.range (e.shape - e.pair)).foldl (fun s _ => orphan s core) s
  s.setCore core (leaveEngine (freeHeld (freeHeld (s.core core) e.slotA) e.slotB) e.id)

/-- `ring_take` of the engine in a cycle: the oldest filled slot, held until the pair is complete. -/
def engineTake (k : Core) (now : Nat) (e : EngEntry) (ring : BitVec 4) : Core × Option HeldSlot :=
  let r := k.ring ring
  match r.take now rankEngine (.engine e.id) (.engine e.id) with
  | (some (i, _), r') => (k.setRing ring r', some { ring := ring, addr := BitVec.ofNat 17 (r.slotBase i), defNum := r.defNum })
  | (none, r') => (k.setRing ring r', none)

/-- The slots of a pair are taken, the A slot first; NAR is counted when the pair has both. -/
def takePair (s : State) (core : CoreId) (e : EngEntry) : State × EngEntry :=
  let k := s.core core
  let now := s.cycleAt core
  let (k, a) := match e.slotA with
    | some h => (k, some h)
    | none => engineTake k now e e.ringA
  let e := { e with slotA := a }
  match a with
  | none => (s.setCore core (setEntry k e), e)
  | some ha =>
    let (k, b) := match e.slotB with
      | some h => (k, some h)
      | none => engineTake k now e e.ringB
    let e := { e with slotB := b, started := true }
    match b with
    | none => (s.setCore core (setEntry k e), e)
    | some hb =>
      let kt := e.capA.tile0
      let n := countNar e.capA.tag e.capA.sb.toInt (k.readLocal ha.addr.toNat e.capA.size) (32 * kt)
        + countNar e.capB.tag e.capB.sb.toInt (k.readLocal hb.addr.toNat e.capB.size) (16 * kt)
      (s.setCore core (setEntry { k with mxNar := sat21 (k.mxNar + n) } e), e)

/-- Up to n k steps of the pair whose slots the engine holds; the last one frees the slots and ends the pair. -/
def runPair (k : Core) (e : EngEntry) (ha hb : HeldSlot) (n : Nat) : Core :=
  let st := if e.capA.tag = .q4 then 2 else 1
  let kt := e.capA.tile0
  let ta := k.readLocal ha.addr.toNat e.capA.size
  let tb := k.readLocal hb.addr.toNat e.capB.size
  let ks := ((List.range kt).filter (fun x => decide (e.k ≤ x) && (x - e.k) % st == 0)).take n
  let k := ks.foldl (fun c x => mmaStep e ta tb x c) k
  let pos := e.k + st * ks.length
  if pos < kt then setEntry k { e with k := pos }
  else
    let k := freeHeld (freeHeld k (some ha)) (some hb)
    if e.pair + 1 < e.shape then setEntry k { e with pair := e.pair + 1, k := 0, slotA := none, slotB := none, started := true }
    else leaveEngine k e.id

/-- The `mma` at the head goes on. -/
def mmaAdvance (s : State) (core : CoreId) (e : EngEntry) (n : Nat) : State :=
  match e.slotA, e.slotB with
  | some ha, some hb => s.setCore core (runPair (s.core core) e ha hb n)
  | _, _ =>
    if (e.slotA.isNone && engineCut (s.core core) e e.ringA e.capA.size)
        || (e.slotB.isNone && engineCut (s.core core) e e.ringB e.capB.size) then cutMma s core e
    else
      let (s, e) := takePair s core e
      match e.slotA, e.slotB with
      | some ha, some hb => s.setCore core (runPair (s.core core) e ha hb n)
      | _, _ => s

/-- MMA_PAIR_STEP (R180): the `mma` at the head of the engine of the picked core takes its pair's slots and runs as many
k steps as the pick's number says. -/
def execMmaPairStep (s : State) : Host.Outcome State Fault Refusal :=
  match engineHead (s.core s.pick.core) with
  | some e => if e.op = .mma then .next (mmaAdvance s s.pick.core e s.pick.num) else .next s
  | none => .next s

/-! ## `mcvt` (R185, R186) -/

def mcvtEff (i : Instr) (m : MReg) (t : SReg) (ring : BitVec 4) (s : State) : Eff :=
  withEngineRoom s (fun s =>
    let x := readS s.me t
    withTidReg x s (fun s tid d =>
      let c := capOf d
      if c.tag = .b128 then tagTrap 3 .fp32 .b128 .b128
      else if 16 % c.tile0 ≠ 0 ∨ 32 % c.tile1 ≠ 0 ∨ !flatTile d ∨ (c.tag = .q4 ∧ c.tile0 % 2 ≠ 0) ∨ (c.tag = .t6 ∧ c.tile0 % 4 ≠ 0) then
        .trap .tdtTile 0
      else if !ringHolds s.myCore ring c.size then .trap .ring (ring.setWidth 64)
      else .done (enterEngine s { newEntry s i .mcvt with m := m.r, ops2 := x, tidA := tid, ringA := ring, capA := c })))

/-- `mcvt` (R185). -/
def execMcvt (h : Header) (m : MReg) (t : SReg) (ring : BitVec 4) (s : State) : Host.Outcome State Fault Refusal :=
  issue (.mcvt h m t ring) (mcvtEff (.mcvt h m t ring) m t ring) s

/-- The number of tiles of an `mcvt`. -/
def mcvtTiles (e : EngEntry) : Nat := 16 / e.capA.tile0 * (32 / e.capA.tile1)

/-- The accumulator elements of tile q in image order. -/
def mcvtElems (e : EngEntry) (q : Nat) : List Nat :=
  let c := e.capA.tile0
  let h := e.capA.tile1
  let across := 16 / c
  (List.range h).flatMap (fun r => (List.range c).map (fun x => 16 * (q / across * h + r) + q % across * c + x))

/-- The registers of a context after a merge (R105). -/
def mergedCtx (c : Ctx) (flags : BitVec 7) (amax : BitVec 33) : Ctx :=
  { c with flags := c.flags ||| flags, amax := amaxMerge c.amax amax }

/-- A merge is applied to a context (R105). -/
def mergeInto (s : State) (core : CoreId) (n : CtxNum) (flags : BitVec 7) (amax : BitVec 33) : State :=
  s.setCtx core n (mergedCtx (s.ctx core n) flags amax)

/-- A merge is owed to a context that is to be restored. -/
def oweMerge (s : State) (h : BitVec 28) (flags : BitVec 7) (amax : BitVec 33) : State :=
  let o := sparseGet (0, 0) s.owed h.toNat
  { s with owed := sparsePut s.owed h.toNat (o.1 ||| flags, amaxMerge o.2 amax) }

/-- A context of a tenant with the number and the incarnation of a handle stands saved somewhere: it can be restored to the
handle's core (R366, R409). -/
def savedSomewhere (s : State) (t : Tenant) (h : BitVec 28) : Bool :=
  let same (g : BitVec 28) : Bool := handleCtx g == handleCtx h && handleInc g == handleInc h
  s.away.any (fun e => e.2.tenant == t && same (BitVec.ofNat 28 e.1))
    || s.cores.any (fun e => let c := BitVec.ofNat 16 e.1
        s.tenantOf c == t && (e.2.ctx (handleCtx h)).run == .saved && same (s.handle c (handleCtx h)))

/-- The merge an `mcvt` owes is applied, discarded with its context, or kept while the context is saved, in its slot or after its
slot was given up, or by the kernel (R105, R172, R186, R189, R366). The entry of a context that has been restored to another core
is in the engine of the core that it came from. -/
def settleMcvt (s : State) (core : CoreId) (e : EngEntry) : State :=
  let n := handleCtx e.owner
  let home := handleCore e.owner
  let saved := s.handleLive e.owner && (s.ctx home n).run == .saved
  if saved && home == core then s.setCore core (setEntry (s.core core) { e with owes := true })
  else
    let s := s.setCore core (leaveEngine (s.core core) e.id)
    if saved then oweMerge s e.owner e.mflags e.mamax
    else if registersOf s e.owner then mergeInto s home n e.mflags e.mamax
    else if keptByKernel s e.owner then updateKept s e.owner (fun c => mergedCtx c e.mflags e.mamax)
    else if savedSomewhere s e.tenant e.owner then oweMerge s e.owner e.mflags e.mamax
    else s

/-- The slot an `mcvt` writes: one that a restored entry still holds, or the next free one. -/
def mcvtSlot (r : Ring) (now : Nat) (e : EngEntry) : Option Nat × Ring :=
  match e.slotA with
  | some h => (r.slotAt h.addr.toNat, r)
  | none => r.claim now rankEngine (.engine e.id) (.engine e.id)

/-- One tile is converted, written and published. -/
def publishTile (s : State) (core : CoreId) (e : EngEntry) : State :=
  let k := s.core core
  match mcvtSlot (k.ring e.ringA) (s.cycleAt core) e with
  | (none, r') => s.setCore core (setEntry (k.setRing e.ringA r') { e with started := true })
  | (some i, r') =>
    let src := (mcvtElems e e.pair).map (fun n => (elemVal .fp32 0 (k.accAt e.m n).toNat, k.accPoison.contains (accKey e.m n)))
    let out := src.map (fun x => encodeElem e.capA.tag e.capA.sb.toInt x.1)
    let image := packElems e.capA.tag.width (out.zipWith (fun o x => (o.1, x.2)) src)
    let k := (k.setRing e.ringA (r'.publish i [])).writeLocal (r'.slotBase i) (slotImage r' image)
    let e := { e with pair := e.pair + 1, started := true, slotA := none, mflags := e.mflags ||| orFlags (out.map (·.2))
                      mamax := amaxMerge e.mamax (amaxOf (src.map (·.1))) }
    let s := s.setCore core (setEntry k e)
    if e.pair < mcvtTiles e then s else settleMcvt s core e

/-- MCVT_TILE_PUBLISH (R186): the next tile of the `mcvt` at the head of the picked core's engine. -/
def execMcvtTilePublish (s : State) : Host.Outcome State Fault Refusal :=
  let core := s.pick.core
  match engineHead (s.core core) with
  | some e =>
    if e.op ≠ .mcvt then .next s
    else if e.slotA.isNone && engineCut (s.core core) e e.ringA e.capA.size then
      .next (settleMcvt ((List.range (mcvtTiles e - e.pair)).foldl (fun s _ => orphan s core) s) core e)
    else .next (publishTile s core e)
  | none => .next s

/-! ## `gemv` (R191 to R195) -/

/-- The bytes of one result. -/
def resBytes (bf16 : Bool) : Nat := if bf16 then 2 else 4

/-- The dies that home a page of B, that of its first byte first: A goes to each of them (R193, R371). -/
def gemvDies (s : State) (d : Desc) : List Die :=
  let base := d.base.toNat
  let cols := (List.range (d.ext.getD 1 0)).flatMap (fun j => unitsOf 65536 (base + j * d.stride.getD 1 0) (d.ext.headD 0 * d.bits / 8))
  (dieOf s s.myTenant base :: cols.map (fun u => dieOf s s.myTenant (65536 * u))).dedup

/-- What leaves the die for a `gemv`: A to each other die of B, and the results when the first of them is another (R371). -/
def gemvFab (s : State) (dies : List Die) (len res : Nat) : List Nat :=
  (dies.filter (· != coreDie s.curCore)).map (fun _ => len) ++ (if dies.head? = some (coreDie s.curCore) then [] else [res])

/-- The checks of `gemv` in the order of R192: in check 4 the length comes before N (DESIGN CHOICE, log 65). A result page that may
not be written lacks the right, whatever the reason (R196). -/
def gemvEff (i : Instr) (a : SReg) (n : SCon) (res : SReg) (tid : Tid) (ring : BitVec 4) (bf16 mem : Bool) (s : State) : Eff :=
  withEngineRoom s (fun s => withDesc tid s (fun s d =>
    let len := (readSC s.me n).toNat
    let kx := d.ext.headD 0
    let nx := d.ext.getD 1 0
    let bits := kx * d.bits
    let stride := d.stride.getD 1 0
    let x := readS s.me a
    let r := readS s.me res
    let dies := gemvDies s d
    if d.rank ≠ 2 then .trap .tdtRank (BitVec.ofNat 64 d.rank)
    else if d.tag = .b128 ∨ d.tag = .i16 ∨ d.tag = .i32 ∨ d.tag = .i64 then .trap .tdtFormat (d.tag.bits.setWidth 64)
    else if len = 0 ∨ 8192 < len ∨ bits % 8 ≠ 0 ∨ len ≠ bits / 8 then .trap .tdtTile (BitVec.ofNat 64 ((bits + 7) / 8))
    else if 2 ^ 24 < nx then .trap .tdtTile 0
    else withArea x 16 len s
      (if mem ∧ r.toNat % 64 ≠ 0 then .trap .align r
       else if mem ∧ isLocal r then .trap .xlatePerm r
       else
        let last := d.base.toNat + (nx - 1) * stride + bits / 8 - 1
        let out := if mem then [r, r + BitVec.ofNat 64 (nx * resBytes bf16 - 1)] else []
        withPageList .read [canon d.base.toNat, canon last] [] s (fun s fr => withPagesAs xlateOnly .write out fr s (fun s fr =>
          if !mem ∧ !(s.myCore.ring ring).defined then .trap .ring (ring.setWidth 64)
          else withPackets [len, nx * resBytes bf16] (gemvFab s dies len (nx * resBytes bf16)) dies (fun s =>
            let e := { newEntry s i .gemv with
              ops1 := x, ops2 := BitVec.ofNat 64 len, ops3 := r, tidA := tid, ringA := ring, capB := capOf d
              gK := kx, gN := nx, gBase := d.base.toNat, gStride := stride, bf16 := bf16, toMem := mem, frames := fr }
            .done ((enterEngine s e).setMe { s.me with gemvLast := some e.id })) s)))))

/-- `gemv` (R191). -/
def execGemv (h : Header) (a : SReg) (n : SCon) (res : SReg) (tid : Tid) (ring : BitVec 4) (bf16 mem : Bool) (s : State) :
    Host.Outcome State Fault Refusal :=
  issue (.gemv h a n res tid ring bf16 mem) (gemvEff (.gemv h a n res tid ring bf16 mem) a n res tid ring bf16 mem) s

/-- Reading of A ends: the queue entry frees, and the work goes on at the bank multipliers. -/
def startGemv (k : Core) (e : EngEntry) : Core :=
  let k := leaveEngine k e.id
  { k with gemvs := k.gemvs ++ [{
      id := e.id, owner := e.owner, tenant := e.tenant, tid := e.tidA, a := k.readLocal e.ops1.toNat e.ops2.toNat
      capB := e.capB, gK := e.gK, gN := e.gN, gBase := e.gBase, gStride := e.gStride, bf16 := e.bf16, toMem := e.toMem
      ring := e.ringA, res := e.ops3, frames := e.frames, rc := e.rc, bar := e.bar, ep := e.ep, off := e.off, epc := e.epc }] }

/-- The head of the engine is finished, when it is no `mma` and no `mcvt`. -/
def finishHead (k : Core) : Core :=
  match engineHead k with
  | some e =>
    match e.op with
    | .mzero => leaveEngine (k.zeroAcc e.m) e.id
    | .mload => leaveEngine (k.loadAcc e.m (k.readLocal e.ops1.toNat 2048)) e.id
    | .mstore => leaveEngine (k.writeLocal e.ops1.toNat (k.accBytes e.m)) e.id
    | .gemv => startGemv k e
    | _ => k
  | none => k

/-- ENGINE_INSTR_COMPLETE (R173): `mzero`, `mload` or `mstore` at the head of the picked core's engine completes; a `gemv`
has read A and frees its entry (R171). -/
def execEngineInstrComplete (s : State) : Host.Outcome State Fault Refusal :=
  .next (s.setCore s.pick.core (finishHead (s.core s.pick.core)))

/-- A byte as it stands at home, with no look into a cache (R195): in a stack under the key of its page. -/
def homeByte (s : State) (key : BitVec 12) (p : Nat) : PByte :=
  if isHost p then
    ((match s.hostDirty.find? (fun e => e.gran == p / 64) with
      | some e => e.old.getD (p % 64) 0
      | none => physByte s p), homeGone s p || s.stackPoison.contains (p / 64))
  else (stackByte s key p, homeGone s p || s.stackPoison.contains (p / 64))

/-- What the base die finds for a byte of B or of a result: where it stands and the key slot of its page, a page that cannot be
resolved, or a hold, with the fault that is sent for it. -/
inductive Fate where
  | at_ (p : Nat) (key : BitVec 12)
  | lost
  | waits (w : Option PageWait)

/-- A byte on the host can be reached while the link is up; the loss of the link settles what waits for it (R419). -/
def Fate.linked (s : State) (p : Nat) (key : BitVec 12) : Fate :=
  if !linkHolds s p then .at_ p key else if s.linkDownAt.isSome then .waits none else .lost

/-- The fate of an address of a `gemv` (R194, R378, R428): a column on a migrating page waits for its flip, which itself waits for
an accepted write, a host page stands where its translation at acceptance has it, and an absent page and an untranslated one wait
for their answer. B loses a page that is not
mapped, or that lacks the right. -/
def GemvOp.fate (s : State) (core : CoreId) (g : GemvOp) (va : Nat) (k : AccKind) : Fate :=
  let va := va % 2 ^ 57
  let fault (host : Bool) : PageWait := { page := pageField (canon va) host, kind := k, addr := canon va, need := k }
  let ask (w : PageWait) : Fate := if g.denied.contains w.page then .lost else .waits (some w)
  match leafOf (s.tenantSt g.tenant) va with
  | none => if k = .read then .lost else ask (fault false)
  | some (_, l) =>
    match (if l.host && (!l.mig || k == .write) then sparseFind g.frames (va / 4096) else none) with
    | some p => Fate.linked s (p + va % 4096) l.key
    | none =>
      if l.mig && k != .write then .waits none
      else if !l.p then ask (fault l.host)
      else if !l.grants k || (k == .write && l.frz) || decide (va < 131072) then .lost
      else if !l.host then (if stackExists (l.phys va) then .at_ (l.phys va) l.key else .lost)
      else
        let u := l.untranslated va
        match hostLookup s core g.tenant (u / 4096) k with
        | some e => Fate.linked s (hostBase + e.hpa + u % 4096) l.key
        | none => ask { fault true with kind := .host, ats := some (u / 4096) }

/-- The first fault that holds some addresses, if one does. -/
def GemvOp.held (s : State) (core : CoreId) (g : GemvOp) (vas : List Nat) (k : AccKind) : Option (Option PageWait) :=
  vas.findSome? (fun va => match g.fate s core va k with
    | .waits w => some w
    | _ => none)

/-- A fault is sent to the instance that owns the page, once for each page (R194, R398). -/
def gemvAsk (s : State) (core : CoreId) (g : GemvOp) (w : Option PageWait) : State :=
  match w with
  | none => s
  | some w =>
    if g.asked = some w.page ∧ w.ats.isNone then s
    else
      let k := s.core core
      let s := s.setCore core { k with gemvs := k.gemvs.map (fun x => if x.id = g.id then { x with asked := some w.page } else x) }
      match w.ats with
      | some u => askAts s core w u
      | none => chargeAfter (sendTrapMsg s core w) g.tenant (coreDie core) (coreDie core) 0

/-- The addresses of column j. -/
def GemvOp.column (g : GemvOp) (j : Nat) : List Nat :=
  (List.range (g.gK * g.capB.tag.width / 8)).map (fun i => g.gBase + j * g.gStride + i)

/-- The bytes of a column that nothing holds; a page that cannot be resolved poisons it. -/
def bColumn (s : State) (core : CoreId) (g : GemvOp) (j : Nat) : List PByte :=
  (g.column j).map (fun va => match g.fate s core va .read with
    | .at_ p key => homeByte s key p
    | _ => (0, true))

/-- One bank group of `gemv_entry`: indices lo to hi − 1 (R106). -/
def bankGroup (t : Tag) (sb : Int) (a b : List PByte) (lo hi : Nat) : Nat :=
  ((List.range hi).drop lo).foldl (fun acc k =>
    (putIeee fmtFP32 (numAdd (decodeIeee fmtFP32 acc) (numMul (packedElem t sb a k).1 (packedElem t sb b k).1).1).1).1) 0

/-- `gemv_entry` (R106). -/
def gemvEntry (t : Tag) (sb : Int) (a b : List PByte) (n : Nat) (bf16 : Bool) : Nat :=
  let p := (List.range 32).map (fun g => bankGroup t sb a b (g * n / 32) ((g + 1) * n / 32))
  let r := treeSum (fun x y => (fp32Add x y).1) 0 5 p
  if bf16 then (putIeee fmtBF16 (decodeIeee fmtFP32 r)).1 else r

/-- Result j as bytes; a poisoned byte of A or of its column poisons it (R194, R416). -/
def gemvResult (s : State) (core : CoreId) (g : GemvOp) (j : Nat) : List PByte :=
  let col := bColumn s core g j
  let bad := g.a.any (·.2) || col.any (·.2)
  (natBytes (resBytes g.bf16) (gemvEntry g.capB.tag g.capB.sb.toInt g.a col g.gK g.bf16)).map (fun b => (b, bad))

/-- A parked record waits for a `gemv`. -/
def gemvParked (s : State) (g : GemvOp) : Bool :=
  s.tenants.any (fun e => e.2.stages.any (fun x => x.2.parked.any (fun r => r.ev == some (.gemv (some g.id)))))

/-- A `gemv` completes (R173). The completion event of one whose incarnation has ended is an orphan of its core, unless a parked
record takes it (R200, R205, R225). -/
def finishGemv (s : State) (core : CoreId) (g : GemvOp) : State :=
  let k := s.core core
  let k := { k with gemvs := k.gemvs.filter (fun x => x.id != g.id), cuts := k.cuts.filter (fun e => e.2 != .op g.id)
                    rings := k.rings.map (fun e => (e.1, e.2.forget (.op g.id))) }
  let s := s.setCore core k
  let n := handleCtx g.owner
  if s.handleLive g.owner && (s.ctx core n).gemvLast == some g.id then
    s.setCtx core n { s.ctx core n with gemvLast := none }
  else if stillThere s g.owner || gemvParked s g then s
  else orphan s core

/-- m results have been delivered. -/
def advanceGemv (s : State) (core : CoreId) (g : GemvOp) (m : Nat) : State :=
  if g.done + m < g.gN then
    let k := s.core core
    s.setCore core { k with gemvs := k.gemvs.map (fun x => if x.id = g.id then { x with done := g.done + m } else x) }
  else finishGemv s core g

/-- The context of a `gemv` as the party of its writes (R348). -/
def gemvParty (g : GemvOp) : Party :=
  { who := g.owner, rc := g.rc, bar := g.bar, ep := g.ep, table := [], ovf := false, off := g.off }

/-- The results of the next slot or of the next 64 bytes. -/
def GemvOp.next (g : GemvOp) (bytes : Nat) : List Nat :=
  (List.range (min (bytes / resBytes g.bf16) (g.gN - g.done))).map (g.done + ·)

/-- The die that computes a column. -/
def GemvOp.die (s : State) (g : GemvOp) (j : Nat) : Die := dieOf s g.tenant (g.gBase + j * g.gStride)

/-- What the sector that computes a column reads of it in another sector counts there, and crosses (R283, R351). -/
def gemvReads (s : State) (core : CoreId) (g : GemvOp) (js : List Nat) : State :=
  js.foldl (fun s j =>
    let d := g.die s j
    (((g.column j).filterMap (fun va => match g.fate s core va .read with
      | .at_ p _ => if homeDie p = d then none else some (p / 64 * 64)
      | _ => none)).dedup).foldl (fun s p => countPageRead (carry s g.tenant d (homeDie p) false) p d) s) s

/-- The columns that the next results need are held, or their bytes come with the packet of the die that computes them. Poison
that arises here is logged (R417). -/
def withPiece (s : State) (core : CoreId) (g : GemvOp) (bytes : Nat) (dst : Die) (k : State → List PByte → State) : State :=
  let js := g.next bytes
  let vas := js.flatMap g.column
  match g.held s core vas .read with
  | some w => gemvAsk s core g w
  | none =>
    match crossing s (g.die s g.done) dst false with
    | none => s
    | some t =>
      let bs := js.flatMap (gemvResult s core g)
      let lost := vas.find? (fun va => match g.fate s core va .read with
        | .at_ _ _ => false
        | _ => true)
      let t := gemvReads (chargeForwards t g.tenant (coreDie core) dst [bs.length]) core g js
      k (match lost with
         | some va => poisonCreated t ((g.die s g.done) ++ (0x1F00 : BitVec 13)) g.tenant (canon va)
         | none => t) bs

/-- Delivery into the ring of the issuing core. A result that is cut short leaves an orphan for each slot that it would have filled
(R441). -/
def gemvToRing (s : State) (core : CoreId) (g : GemvOp) : State :=
  let r := (s.core core).ring g.ring
  if !r.defined || (s.core core).cuts.contains (g.ring, .op g.id) then
    finishGemv ((List.range ((g.resLeft + 2 ^ g.slotLg - 1) / 2 ^ g.slotLg)).foldl (fun s _ => orphan s core) s) core g
  else
    let k := s.core core
    let s := s.setCore core { k with gemvs := k.gemvs.map (fun x => if x.id = g.id then { x with slotLg := r.lg } else x) }
    match r.claim (s.cycleAt core) rankGemv (.op g.id) (.device g.id) with
    | (none, r') => s.setCore core ((s.core core).setRing g.ring r')
    | (some i, r') => withPiece s core g (2 ^ r.lg) (coreDie core) (fun s bs =>
        let k := s.core core
        advanceGemv (s.setCore core ((k.setRing g.ring (r'.publish i [])).writeLocal (r'.slotBase i) (slotImage r' bs)))
          core g (bs.length / resBytes g.bf16))

/-- One piece of the result is performed at home, counted and recorded. -/
def gemvStore (s : State) (core : CoreId) (g : GemvOp) (va p : Nat) (bs : List PByte) : State :=
  let addrs := addrRange va bs.length
  let hits := tillsCounting s g.tenant addrs
  let grans := match leafOf (s.tenantSt g.tenant) va with
    | some (_, l) => flatGrans l p bs.length
    | none => []
  let s := if g.off then s else recordGrans s (gemvParty g) grans hits
  let s := performFlat s g.tenant va p bs (coreDie core) (some (core, g.owner)) .plain 0
  advanceGemv (countTills (some (coreDie core)) s addrs hits) core g (bs.length / resBytes g.bf16)

/-- Delivery into memory. The write waits for its page (R194); one that a lost link holds ends with HOSTLINK_DOWN (R419). A page
that cannot be brought in, or that may not be written, holds the write for as long as the context exists that must learn of it
(R5; DESIGN CHOICE, log 11). -/
def gemvToMem (s : State) (core : CoreId) (g : GemvOp) : State :=
  let va := (va57 g.res + g.done * resBytes g.bf16) % 2 ^ 57
  let m := (g.next 64).length
  match g.fate s core va .write with
  | .waits w => gemvAsk s core g w
  | .at_ p _ =>
    if !hostRoom s p (m * resBytes g.bf16) || !probesGo s (homeDie p) (flatHolders s g.tenant va (m * resBytes g.bf16)) then s
    else withPiece s core g 64 (homeDie p) (fun s bs => gemvStore s core g va p bs)
  | .lost =>
    match physOf s g.tenant va with
    | some p =>
      if linkHolds s p then
        advanceGemv (addReport s g.owner { cause := .hostlinkDown, epc := g.epc, einfo := canon va }) core g m
      else if stillThere s g.owner then s else advanceGemv s core g m
    | none => if stillThere s g.owner then s else advanceGemv s core g m

/-- The pages of the result that the instance has answered for: they are looked at again, or cannot be brought in (R194,
R400). -/
def answerGemvs (s : State) (core : CoreId) (page : Nat) (ok : Bool) : State :=
  let k := s.core core
  if k.gemvs.any (fun g => g.asked == some page) then
    s.setCore core { k with gemvs := k.gemvs.map (fun g => if g.asked = some page then
      { g with asked := none, denied := if ok then g.denied else g.denied ++ [page] } else g) }
  else s

/-- No earlier `gemv` of the same context is unfinished: the accesses of GV keep their order (R292). -/
def gvFirst (k : Core) (g : GemvOp) : Bool := k.gemvs.all (fun x => !(x.owner == g.owner && decide (x.id < g.id)))

/-- GEMV_RESULT_DELIVERY (R193, R194): the next piece of the `gemv` named by the pick. -/
def execGemvResultDelivery (s : State) : Host.Outcome State Fault Refusal :=
  let core := s.pick.core
  match (s.core core).gemvs.find? (fun g => g.id == s.pick.id) with
  | some g => .next (if !gvFirst (s.core core) g then s else if g.toMem then gemvToMem s core g else if (s.core core).splitting then s else gemvToRing s core g)
  | none => .next s

end Sys2Proof.Machine
end

