-- ==== Sys2Proof/Machine/Spill.lean ====
section
/-! DEFINITION. `mspill` and `mrest`: the matrix engine's state in 8,704 bytes of local memory (R187 to R190). -/

namespace Sys2Proof.Machine

/-! ## The area (R189) -/

/-- `ctl.mxcnt` (R170). -/
def mxWord (k : Core) : Word := BitVec.ofNat 64 (k.mxOvf * 2 ^ 42 + k.mxNan * 2 ^ 21 + k.mxNar)

def setMx (k : Core) (x : Word) : Core :=
  { k with mxOvf := (x.extractLsb' 42 21).toNat, mxNan := (x.extractLsb' 21 21).toNat, mxNar := (x.extractLsb' 0 21).toNat }

/-- A held slot as its field. -/
def slotWord : Option HeldSlot → Word
  | none => 0
  | some h => BitVec.ofNat 64 (h.addr.toNat + h.defNum.toNat * 2 ^ 32 + h.ring.toNat * 2 ^ 48 + 2 ^ 63)

def slotOfWord (x : Word) : Option HeldSlot :=
  if x.getLsbD 63 then some { ring := x.extractLsb' 48 4, addr := x.extractLsb' 0 17, defNum := x.extractLsb' 32 16 } else none

/-- Captured fields of a record. Ten bits of a tile extent are kept: one of 1,024, which only a `gemv` can capture and does not
use, reads as 0 (DESIGN CHOICE, log 34). -/
def capWord (c : DescCap) : Word :=
  BitVec.ofNat 64 (c.tag.bits.toNat + c.sb.toNat * 16 + c.tile0 % 1024 * 2 ^ 12 + c.tile1 % 1024 * 2 ^ 22)

def capOfWord (x : Word) : DescCap :=
  { tag := tagOfCode (x.extractLsb' 0 4).toNat, sb := x.extractLsb' 4 8
    tile0 := (x.extractLsb' 12 10).toNat, tile1 := (x.extractLsb' 22 10).toNat }

/-- 1 not started, 2 stopped, 3 complete with its merge owed. -/
def entryState (e : EngEntry) : Nat := if e.owes then 3 else if e.started then 2 else 1

/-- The 224 bytes of an entry. -/
def entryBytes (e : EngEntry) : List Byte :=
  natBytes 16 e.word.toNat
    ++ ([e.ops1, e.ops2, e.ops3
        , BitVec.ofNat 64 (e.owner.toNat + entryState e * 2 ^ 28)
        , BitVec.ofNat 64 (e.pair + e.k * 2 ^ 12)
        , slotWord e.slotA, slotWord e.slotB
        , (if e.op = .mma ∨ e.op = .mcvt then capWord e.capA else 0), (if e.op = .mma ∨ e.op = .gemv then capWord e.capB else 0)
        , e.mflags.setWidth 64, e.mamax.setWidth 64] : List Word).flatMap (fun (w : Word) => natBytes 8 w.toNat)
    ++ List.replicate 120 0

/-- The whole area. -/
def engineArea (k : Core) : List PByte :=
  ([0, 1, 2, 3] : List (BitVec 2)).flatMap k.accBytes
    ++ good (natBytes 8 (0x4D53 + k.engine.length * 2 ^ 16) ++ natBytes 8 (mxWord k).toNat
      ++ ((k.engine.flatMap entryBytes) ++ List.replicate 448 0).take 448 ++ List.replicate 48 0)

/-! ## `mspill` (R187, R188) -/

/-- The engine comes to rest: an `mma` or `mcvt` that runs, if only to wait on its ring, stops; what is not stopped at a boundary
completes (R188, R189). -/
def restEngine (k : Core) : Core :=
  match engineHead k with
  | some e => if e.op = .mma ∨ e.op = .mcvt then setEntry k { e with started := true } else finishHead k
  | none => k

/-- The engine is left empty. -/
def emptyEngine (k : Core) : Core :=
  let k := ([0, 1, 2, 3] : List (BitVec 2)).foldl Core.zeroAcc k
  (k.engine.foldl (fun k e => leaveEngine k e.id) (setMx k 0))

def mspillEff (a : SReg) (s : State) : Eff :=
  let x := readS s.me a
  withArea x 64 8704 s
    (let k := restEngine s.myCore
     .done (s.setMyCore ((emptyEngine k).writeLocal x.toNat (engineArea k))))

/-- `mspill` (R187, R188). -/
def execMspill (h : Header) (a : SReg) (s : State) : Host.Outcome State Fault Refusal :=
  issue (.mspill h a) (mspillEff a) s

/-! ## `mrest` (R187, R190) -/

/-- The operation and the fields that an instruction word of an entry gives. -/
def engineWord (i : Instr) : Option EngEntry :=
  let e : EngEntry := { id := 0, owner := 0, op := .mzero, word := (encode i).getD 0 }
  match i with
  | .mzero _ m => some { e with m := m.r }
  | .mload _ m _ => some { e with op := .mload, m := m.r }
  | .mstore _ _ m => some { e with op := .mstore, m := m.r }
  | .mma _ m _ _ ring gate shape => some { e with op := .mma, m := m.r, ringA := ring, ringB := gate, shape := shape.toNat }
  | .mcvt _ m _ ring => some { e with op := .mcvt, m := m.r, ringA := ring }
  | .gemv _ _ _ _ tid ring bf16 mem => some { e with op := .gemv, tidA := tid, ringA := ring, bf16 := bf16, toMem := mem }
  | _ => none

/-- The failing 8 bytes of an entry that is present, as an offset within it. A slot word with bit 63 clear holds no other bit, and
state 3 is an `mcvt`'s alone (R190 names neither; DESIGN CHOICE, log 34). -/
def entryFault (env : DecodeEnv) (bs : List Byte) : Option Nat :=
  let w (i : Nat) : Word := wordAt bs (8 * i)
  let st := ((w 5).extractLsb' 28 2).toNat
  let mask (x : Word) (m : Nat) : Bool := x &&& ~~~(BitVec.ofNat 64 m) != 0
  match decodeWord env (wordOfBytes (bs.take 16)) with
  | .error b => some (b / 64 * 8)
  | .ok i =>
    match engineWord i with
    | none => some 0
    | some e =>
      let bad (i : Nat) : Bool :=
        if i = 5 then st == 0 || mask (w 5) (2 ^ 30 - 1) || (st == 3 && e.op != .mcvt)
        else if i = 6 then mask (w 6) (2 ^ 18 - 1)
        else if i = 7 || i = 8 then
          mask (w i) (2 ^ 17 - 1 + (2 ^ 16 - 1) * 2 ^ 32 + 15 * 2 ^ 48 + 2 ^ 63) || (!(w i).getLsbD 63 && w i != 0)
        else if i = 9 || i = 10 then mask (w i) (2 ^ 32 - 1)
        else if i = 11 then mask (w 11) 127
        else if i = 12 then mask (w 12) (2 ^ 33 - 1)
        else if 13 ≤ i then w i != 0
        else false
      ((List.range 28).find? bad).map (8 * ·)

/-- The offset of the first failing 8 bytes of an area. -/
def areaFault (env : DecodeEnv) (bs : List Byte) : Option Nat :=
  let hdr := wordAt bs 0x2000
  let n := (hdr.extractLsb' 16 2).toNat
  let ent (i : Nat) : Option Nat :=
    let b := (bs.drop (0x2010 + 224 * i)).take 224
    (if i < n then entryFault env b else ((List.range 28).find? (fun j => wordAt b (8 * j) != 0)).map (8 * ·)).map
      (fun o => 0x2010 + 224 * i + o)
  if hdr.extractLsb' 0 16 ≠ 0x4D53 ∨ 2 < n ∨ hdr.extractLsb' 18 46 ≠ 0 then some 0x2000
  else if (wordAt bs 0x2008).getLsbD 63 then some 0x2008
  else (ent 0).or ((ent 1).or (((List.range 6).find? (fun j => wordAt bs (0x21D0 + 8 * j) != 0)).map (fun j => 0x21D0 + 8 * j)))

/-- An entry of an area re-enters the engine, for the context of its number and incarnation of the core that restores it (DEDUCED,
log 34); what the area does not hold of a `gemv` comes from the installed record. -/
def restoreEntry (s : State) (bs : List Byte) : State :=
  let w (i : Nat) : Word := wordAt bs (8 * i)
  let env : DecodeEnv := { handler := false, matrixOff := false }
  match decodeWord env (wordOfBytes (bs.take 16)) with
  | .error _ => s
  | .ok i =>
    match engineWord i with
    | none => s
    | some e =>
      let saved : BitVec 28 := (w 5).extractLsb' 0 28
      let owner := mkHandle s.curCore (handleCtx saved) (handleInc saved)
      let c := s.ctx s.curCore (handleCtx owner)
      let st := ((w 5).extractLsb' 28 2).toNat
      let tidA : Tid := if e.op = .gemv then e.tidA else if e.op = .mcvt then (w 3).setWidth 16 else (w 2).setWidth 16
      let d := s.desc s.myTenant tidA
      let ext := (d.map Desc.ext).getD []
      let e := { e with
        id := s.nextId, owner := owner, tenant := s.myTenant, ops1 := w 2, ops2 := w 3, ops3 := w 4
        tidA := tidA, tidB := (w 3).setWidth 16, pair := ((w 6).extractLsb' 0 12).toNat, k := ((w 6).extractLsb' 12 6).toNat
        started := st == 2, slotA := slotOfWord (w 7), slotB := slotOfWord (w 8), capA := capOfWord (w 9), capB := capOfWord (w 10)
        mflags := (w 11).setWidth 7, mamax := (w 12).setWidth 33
        gK := ext.headD 0, gN := ext.getD 1 0, gBase := (d.map (fun (d : Desc) => d.base.toNat)).getD 0
        gStride := ((d.map Desc.stride).getD []).getD 1 0
        rc := c.rc, bar := coreBar s.curCore s.myCore.dom, ep := s.myCore.ep, off := c.mmOff }
      let s := enterEngine s e
      if st = 3 then settleMcvt s s.curCore e else s

/-- A held slot of an area whose ring has another definition now. -/
def lapsedRing (k : Core) (bs : List Byte) (n : Nat) : Option (BitVec 4) :=
  ((List.range n).flatMap (fun i =>
    let b := (bs.drop (0x2010 + 224 * i)).take 224
    (slotOfWord (wordAt b 0x38)).toList ++ (slotOfWord (wordAt b 0x40)).toList)).findSome? (fun h =>
      if (k.ring h.ring).defNum = h.defNum then none else some h.ring)

def mrestEff (a : SReg) (s : State) : Eff :=
  let x := readS s.me a
  withArea x 64 8704 s
    (if !s.myCore.engine.isEmpty then .hold s
     else
      let all := s.myCore.readLocal x.toNat 8704
      match ((all.drop 0x2000).zipIdx.find? (fun e => e.1.2)) with
      | some e => .done (consumed s (x + BitVec.ofNat 64 (0x2000 + e.2)))
      | none =>
        let bs := all.map (·.1)
        match areaFault { handler := false, matrixOff := decide (s.svc.toNat < 2) } bs with
        | some o => .trap .illegal (BitVec.ofNat 64 o)
        | none =>
          let n := ((wordAt bs 0x2000).extractLsb' 16 2).toNat
          match lapsedRing s.myCore bs n with
          | some r => .trap .ring (r.setWidth 64)
          | none =>
            let k := ([0, 1, 2, 3] : List (BitVec 2)).foldl (fun k m => k.loadAcc m ((all.drop (2048 * m.toNat)).take 2048)) s.myCore
            let s := s.setMyCore (setMx k (wordAt bs 0x2008))
            .done ((List.range n).foldl (fun s i => restoreEntry s ((bs.drop (0x2010 + 224 * i)).take 224)) s))

/-- `mrest` (R187, R190). -/
def execMrest (h : Header) (a : SReg) (s : State) : Host.Outcome State Fault Refusal :=
  issue (.mrest h a) (mrestEff a) s

end Sys2Proof.Machine
end

