-- ==== Sys2Proof/Machine/System.lean ====
section
/-! DEFINITION. Control registers, the journal reader, translations, the handler's entries and pre-emption: `mfc`, `mtc`,
`time`, `jrnl`, `tlbi`, `csave`, `crest` and `nispl`, with the events that enter the handler, take a report and pre-empt
a core (R381 to R411, R135, R170, R204, R249, R270, R271, R342). -/

namespace Sys2Proof.Machine

/-! ## The values of control registers (R387 to R393) -/

/-- The context whose trap the handler is handling. -/
def Core.handled (k : Core) : Option CtxNum :=
  match k.handling with
  | some (.trap n) => some n
  | _ => none

/-- `ctl.status` of a context (R388). -/
def statusWord (k : Core) (n : CtxNum) : Word :=
  let c := k.ctx n
  let held := (k.journal.filter (fun e => e.2.state != 0 && e.2.ctx == n && e.2.inc == c.inc)).length
  BitVec.ofNat 64 (k.orph.toNat * 2 ^ 48 + held * 2 ^ 35 + k.hflt.toNat * 2 ^ 34 + k.handled.isSome.toNat * 2 ^ 33
    + c.resid.isSome.toNat * 4 + c.dzt.toNat)

/-- `ctl.linkstk` (R135). -/
def linkWord (c : Ctx) : Word :=
  BitVec.ofNat 64 (c.link.length * 2 ^ 47 + c.linkSpilled.toNat * 2 ^ 32 + c.linkCap.toNat * 2 ^ 17 + c.linkBase.toNat)

/-- `ctl.wdog` (R204). -/
def wdogWord (c : Ctx) : Word := BitVec.ofNat 64 (c.wdogCount.toNat * 2 ^ 23 + c.wdogLimit.toNat)

/-- `ctl.mmchk` (R342). -/
def mmchkWord (c : Ctx) : Word := BitVec.ofNat 64 (c.mmOvf.toNat * 2 + c.mmOff.toNat)

/-- The context whose cause, epc, einfo and jrnl an access of the issuing context reaches (R383). -/
def redirect (s : State) : CtxNum := if s.curCtx = 15 then s.myCore.handled.getD 15 else s.curCtx

/-- What `mfc` reads. -/
def ctlRead (s : State) (r : CtlReg) : Word :=
  let k := s.myCore
  let c := s.me
  let t := s.ctx s.curCore (redirect s)
  match r with
  | .status => statusWord k s.curCtx
  | .cause => t.cause
  | .epc => t.epc
  | .einfo => t.einfo
  | .evec => k.evec
  | .ctxid => s.myHandle.setWidth 64
  | .tenant => s.myTenant.setWidth 64
  | .dom => k.dom
  | .flags => c.flags.setWidth 64
  | .amax => c.amax.setWidth 64
  | .mxcnt => mxWord k
  | .scale => c.scale.setWidth 64
  | .wdog => wdogWord c
  | .lmcfg => k.sp.setWidth 64
  | .foldbud => c.foldbud
  | .foldst => c.foldst
  | .foldpc => c.foldpc
  | .jrnl => t.jrnl
  | .linkstk => linkWord c
  | .time => BitVec.ofNat 64 s.time
  | .cycle => BitVec.ofNat 64 s.now
  | .evmask => (BitVec.ofBool k.evmask).setWidth 64
  | .svc => s.svc.setWidth 64
  | .mmchk => mmchkWord c

/-! ## Writing control registers -/

/-- Who may write a register (R387). -/
def ctlMayWrite (n : CtxNum) (r : CtlReg) : Bool :=
  match r with
  | .cause | .epc | .einfo | .jrnl => n == 15
  | .evec | .evmask => n == 0 || n == 15
  | .dom | .lmcfg => n == 0
  | _ => true

/-- The value breaks the register's own rule. -/
def ctlBad (s : State) (r : CtlReg) (x : Word) : Bool :=
  let c := s.me
  match r with
  | .linkstk =>
    let base := x.extractLsb' 0 17
    let cap := x.extractLsb' 17 15
    (x.extractLsb' 47 5).toNat != c.link.length || x.extractLsb' 32 15 != c.linkSpilled || base % 8 != 0
      || decide (cap.toNat < c.linkSpilled.toNat) || decide (s.myCore.scratch < base.toNat + 8 * cap.toNat)
      || (c.linkSpilled != 0 && base != c.linkBase)
  | _ => ctlValueBad r x

/-- Messages for the handler that waited while MSG was 0 become deliveries (R383). -/
def releaseMessages (k : Core) (now : Nat) : Core :=
  let mine := k.msgs.filter (fun m => m.target == 15)
  mine.foldl (fun k m => queueDelivery k now (.message m.pc m.a1 m.a2 m.rel)) { k with msgs := k.msgs.filter (fun m => m.target != 15) }

/-- The effect of a write that its checks have let pass. -/
def ctlWrite (s : State) (r : CtlReg) (x : Word) : State :=
  let k := s.myCore
  let c := s.me
  let n := redirect s
  let t := s.ctx s.curCore n
  match r with
  | .cause => s.setCtx s.curCore n { t with cause := (x &&& ~~~0x100#64) ||| (t.cause &&& 0x100#64) }
  | .epc => s.setCtx s.curCore n { t with epc := x, epcWritten := true }
  | .einfo => s.setCtx s.curCore n { t with einfo := x }
  | .jrnl => s.setCtx s.curCore n { t with jrnl := x }
  | .evec => s.setMyCore { k with evec := x }
  | .flags => s.setMe { c with flags := x.setWidth 7 }
  | .amax => s.setMe { c with amax := x.setWidth 33 }
  | .scale => s.setMe { c with scale := x.setWidth 8 }
  | .wdog => s.setMe { c with wdogLimit := x.setWidth 6 }
  | .foldbud => s.setMe { c with foldbud := x }
  | .foldst => s.setMe { c with foldst := x }
  | .foldpc => s.setMe { c with foldpc := x }
  | .linkstk => s.setMe { c with linkBase := x.setWidth 17, linkCap := x.extractLsb' 17 15 }
  | .evmask =>
    let k := { k with evmask := x.getLsbD 0 }
    s.setMyCore (if x.getLsbD 0 then releaseMessages k s.now else k)
  | .mmchk => s.setMe { c with mmOff := x.getLsbD 0 }
  | _ => s

/-- `mtc` to a register that has no row of its own; a write of `ctl.dom` has the effect of `dom` (R213). -/
def mtcEff (x : SCon) (r : CtlReg) (s : State) : Eff :=
  let v := readSC s.me x
  if !ctlMayWrite s.curCtx r then .trap .priv 0
  else if r = .dom then setDom v s
  else if v &&& ctlReserved r ≠ 0 || ctlBad s r v then .trap .illegal 0
  else .done (ctlWrite s r v)

/-- `mtc` to `ctl.status` (R388). -/
def mtcStatusEff (x : SCon) (s : State) : Eff :=
  let v := readSC s.me x
  if v &&& ctlReserved .status ≠ 0 then .trap .illegal 0
  else
    let s := s.setMe { s.me with dzt := v.getLsbD 0 }
    let k := s.myCore
    .done (if s.curCtx = 0 ∨ s.curCtx = 15 then
      s.setMyCore { k with orph := if v.extractLsb' 48 16 = 0 then 0 else k.orph, hflt := k.hflt && v.getLsbD 34 }
    else s)

/-- `mtc` to `ctl.mxcnt` (R170): held while an accepted engine instruction is unfinished. -/
def mtcMxcntEff (x : SCon) (s : State) : Eff :=
  let v := readSC s.me x
  if v &&& ctlReserved .mxcnt ≠ 0 then .trap .illegal 0
  else if (engineHead s.myCore).isSome || !s.myCore.gemvs.isEmpty then .hold s
  else .done (s.setMyCore (setMx s.myCore v))

/-- A size that R271 refuses. -/
def splitBad (k : Core) (sp : Nat) : Bool :=
  let new := sp * 16384
  sp < 4 || 8 < sp
    || k.rings.any (fun e => e.2.defined && decide (new < e.2.base.toNat + e.2.slots.length * 2 ^ e.2.lg))
    || k.ctxs.any (fun e => e.2.run != .idle && e.2.linkCap != 0 && decide (new < e.2.linkBase.toNat + 8 * e.2.linkCap.toNat))

/-- The queues of the core's engines and of its fold port are empty, with the operations that they have accepted, and no delivery
is on its way into local memory. A delivery that has arrived waits at the network interface, and a result of a `gemv` for a ring
counts as one that has. -/
def splitReady (s : State) : Bool :=
  let k := s.myCore
  (engineHead k).isNone && k.engWait.isEmpty && k.copyWait.isEmpty && k.foldWait.isEmpty && k.foldPort.isEmpty
    && k.ops.all (fun o => match o.op with
      | .delivery => true
      | .copy .. | .load .. | .drain .. | .tile .. => false)
    && s.net.all (fun p => match p.msg with
      | .delivery c _ _ => c != s.curCore || p.waiting
      | _ => true)

/-- The new split: bytes that leave or join the scratchpad are zero, and L1 starts empty. -/
def splitTo (k : Core) (sp : BitVec 4) : Core :=
  let lo := min k.scratch (sp.toNat * 16384)
  { k with sp := sp, l1 := [], mem := k.mem.filter (fun e => decide (e.1 < lo)), poison := k.poison.filter (fun u => decide (16 * u < lo)) }

/-- `mtc` to `ctl.lmcfg` (R271). -/
def mtcLmcfgEff (x : SCon) (s : State) : Eff :=
  let v := readSC s.me x
  if s.curCtx ≠ 0 then .trap .priv 0
  else if v &&& ctlReserved .lmcfg ≠ 0 || splitBad s.myCore v.toNat then .trap .illegal 0
  else if splitReady s then .done (s.setMyCore (splitTo s.myCore (v.setWidth 4)))
  else .hold (s.setMe { s.me with pend := .splitting })

/-- `mfc` (R394). -/
def execMfc (h : Header) (d : SReg) (reg : CtlReg) (s : State) : Host.Outcome State Fault Refusal :=
  issue (.mfc h d reg) (fun s => .done (wrS s d (ctlRead s reg))) s

/-- `mtc` (R394). -/
def execMtc (h : Header) (x : SCon) (reg : CtlReg) (s : State) : Host.Outcome State Fault Refusal :=
  issue (.mtc h x reg) (mtcEff x reg) s

/-- `mtc` to `ctl.lmcfg` (R271). -/
def execMtcLmcfg (h : Header) (x : SCon) (s : State) : Host.Outcome State Fault Refusal :=
  issue (.mtcLmcfg h x) (mtcLmcfgEff x) s

/-- `mtc` to `ctl.mxcnt` (R170). -/
def execMtcMxcnt (h : Header) (x : SCon) (s : State) : Host.Outcome State Fault Refusal :=
  issue (.mtcMxcnt h x) (mtcMxcntEff x) s

/-- `mtc` to `ctl.status` (R388). -/
def execMtcStatus (h : Header) (x : SCon) (s : State) : Host.Outcome State Fault Refusal :=
  issue (.mtcStatus h x) (mtcStatusEff x) s

/-- `time` (R395). -/
def execTime (h : Header) (d : SReg) (s : State) : Host.Outcome State Fault Refusal :=
  issue (.time h d) (fun s => .done (wrS s d (BitVec.ofNat 64 s.time))) s

/-! ## The journal (R396, R397) -/

/-- The info word of an entry. -/
def infoWord (j : JEntry) : Word :=
  j.cause ++ (j.reason ++ (j.size ++ (j.inc ++ (j.ctx ++ (j.aop ++ (j.scope ++ (j.ord ++ (j.kind ++ ((0 : BitVec 22) ++ j.state)))))))))

/-- The `ctl.einfo` of a report that concerns an entry (R381). -/
def entryInfo (e : Nat) : Word := BitVec.ofNat 64 (2 ^ 63 + e)

/-- A refused entry is freed, and a trap of it that has not been taken is withdrawn. -/
def dropEntry (s : State) (core : CoreId) (e : Nat) : State :=
  let k := s.core core
  let j := k.jentry e
  if j.state = 2 then
    let s := s.setCore core (k.setJentry e {})
    let c := s.ctx core j.ctx
    if c.inc == j.inc then s.setCtx core j.ctx { c with reports := c.reports.filter (fun r => r.einfo != entryInfo e) } else s
  else s

def jrnlEff (da dd : SReg) (e : SCon) (s : State) : Eff :=
  let v := readSC s.me e
  if s.curCtx ≠ 15 then .trap .priv 0
  else if v.extractLsb' 8 56 ≠ 0 then .trap .illegal 50
  else
    let n := (v.extractLsb' 0 5).toNat
    let j := s.myCore.jentry n
    let x := if v.getLsbD 6 then infoWord j else if v.getLsbD 5 then j.d1 else j.d0
    let s := wrS (wrS s da (if j.state = 0 then 0 else j.addr)) dd (if j.state = 0 then 0 else x)
    .done (if v.getLsbD 7 then dropEntry s s.curCore n else s)

/-- `jrnl` (R397). -/
def execJrnl (h : Header) (da dd : SReg) (e : SCon) (s : State) : Host.Outcome State Fault Refusal :=
  issue (.jrnl h da dd e) (jrnlEff da dd e) s

/-! ## Translations (R402) -/

/-- The issuing tenant's translations that hold a key leave both TLBs, with the host translations that a test names. -/
def dropTranslations (s : State) (key : Nat → Bool) (host : Nat → Bool) : State :=
  let k := s.myCore
  let cl := coreCluster s.curCore
  let c := s.cluster cl
  let t := s.myTenant
  let kept (l : List HostTrans) : List HostTrans := l.filter (fun e => !(e.tenant == t && host e.page))
  (s.setMyCore { k with tlb := k.tlb.filter (fun x => !key x), hostTlb := kept k.hostTlb }).setCluster cl { c with
    tlb := c.tlb.filter (fun x => !key x), hostTlb := kept c.hostTlb }

def tlbiEff (a : SReg) (s : State) : Eff :=
  let x := readS s.me a
  if isLocal x || !canonical x then .done s
  else match leafOf (s.tenantSt s.myTenant) (va57 x) with
    | none => .done s
    | some (key, l) =>
      -- a host-backed page has its sixteen 4 KiB translations from its FRAME on (R374)
      .done (dropTranslations s (· == key) (fun y => l.host && decide (l.frame.toNat ≤ y) && decide (y < l.frame.toNat + 16)))

/-- `tlbi` (R402). -/
def execTlbi (h : Header) (a : SReg) (s : State) : Host.Outcome State Fault Refusal := issue (.tlbi h a) (tlbiEff a) s

/-- `tlbi.all` (R402). -/
def execTlbiAll (h : Header) (s : State) : Host.Outcome State Fault Refusal :=
  issue (.tlbiAll h) (fun s => .done (dropTranslations s (fun _ => true) (fun _ => true))) s

/-! ## Entries of the handler (R383, R385, R386) -/

/-- A stopped context still has to finish the instruction it is in: its answer has come, or is on its way over a link. -/
def midway (p : Pend) : Bool :=
  match p with
  | .sent _ | .accepted | .turnedAway | .released _ => true
  | _ => false

/-- The residual code built for a withdrawn request is discarded (R247). -/
def ungrant (s : State) (t : Tenant) (h : Word) : State :=
  let q := (h.extractLsb' 0 12).toNat
  let ts := s.tenantSt t
  let x := sparseGet ({} : HandleSlot) ts.handles q
  if h ≠ 0 ∧ x.used ∧ x.gen = h.extractLsb' 48 16 then
    quotaReturn (quotaReturn (s.setTenantSt t { ts with handles := sparsePut ts.handles q { gen := x.gen } }) t 6 0 1) t 7 0 x.bytes
  else s

/-- What a held instruction leaves behind when its context stops (R247, R403): it is issued again, unless its request has left
the core and is marked sent. -/
def withdrawPend (s : State) (core : CoreId) (n : CtxNum) : State :=
  let t := s.tenantOf core
  let set (s : State) (p : Pend) : State := s.setCtx core n { s.ctx core n with pend := p }
  let mark (s : State) : State := s.setCtx core n { s.ctx core n with sent := true }
  match (s.ctx core n).pend with
  | .sent id =>
    (match s.net.find? (fun p => p.id == id) with
     | some p => if p.phase == .mesh || p.phase == .held || p.phase == .delivered then set (dropPkt s id) .none else s
     | none => s)
  | .folding =>
    let cl := coreCluster core
    let k := s.cluster cl
    let s := s.setCluster cl { k with folds := k.folds.filter (fun e => !(e.1 == core && e.2.1 == n)) }
    let k := s.core core
    set (s.setCore core { k with foldPort := k.foldPort.erase n }) .none
  | .folded h _ => set (ungrant s t h) .none
  | .foldTrap .. | .queued _ | .admitted .. | .checked | .splitting | .dropped => set s .none
  | .awaiting .. | .reply _ => mark s
  | _ => s

/-- A live context stops, with the address of its next instruction in `ctl.epc`, and waits for nothing any more (R403). -/
def stopCtx (s : State) (core : CoreId) (n : CtxNum) : State :=
  if (s.ctx core n).run != .live then s
  else
    let t := s.tenantOf core
    let d := coreDie core
    let mine (e : CoreId × CtxNum × Nat) : Bool := e.1 == core && e.2.1 == n
    let s := withdrawPend s core n
    let s := forgetTicket s t d (.ctx core n)
    let s := { s with heldHost := s.heldHost.filter (fun e => !mine e) }
    let k := s.core core
    let k := { k with
      engWait := k.engWait.erase n, copyWait := k.copyWait.erase n, foldWait := k.foldWait.erase n
      rings := k.rings.map (fun (e : Nat × Ring) => (e.1, e.2.forget (.ctx n))) }
    s.setCore core (k.setCtx n { k.ctx n with stopped := true, epc := (k.ctx n).pc, pageWait := none })

/-- The contexts of a core other than its handler. -/
def plainCtxs : List CtxNum := [0, 1, 2, 3, 4, 5, 6, 7, 8, 9, 10]

/-- The handler enters at an address with its argument registers. -/
def enterHandler (s : State) (core : CoreId) (d : Delivery) (pc : Word) (args : List Word) : State :=
  let k := s.core core
  let c := k.ctx 15
  let c := args.zipIdx.foldl (fun (c : Ctx) a => c.setS (BitVec.ofNat 6 (a.2 + 1)) a.1) c
  let c := { c with run := .live, pc := pc, fline := none, resid := none, pend := .none, pageWait := none
                    nextIssue := s.cycleAt core, ready := [] }
  s.setCore core { (k.setCtx 15 c) with handling := some d }

/-- The handler's own cause, with CTX 15, and its `ctl.einfo`. -/
def ownCause (s : State) (core : CoreId) (cause : Cause) (einfo : Word) : State :=
  let c := s.ctx core 15
  s.setCtx core 15 { c with cause := causeWord cause 15 false, einfo := einfo }

/-- The handler takes one delivery. -/
def takeDelivery (s : State) (core : CoreId) (d : Delivery) : State :=
  let evec := (s.core core).evec
  match d with
  | .trap n =>
    if evec = 0 then tearDown s core n 1
    else
      let c := s.ctx core n
      let tbl := relTable s core n
      acquireInto (enterHandler (bumpRc s core n) core d evec [c.cause, c.einfo, c.epc]) core 15 tbl
  | .message pc a1 a2 rel =>
    let s := ownCause s core .message (s.ctx core 15).einfo
    acquireInto (enterHandler s core d pc [a1, a2]) core 15 rel
  | .preempt reason =>
    -- with no handler address the PREEMPT is answered as refused (R385)
    if evec = 0 then s
    else
      let s := ownCause s core .preempt (reason.setWidth 64)
      let s := plainCtxs.foldl (fun s n => stopCtx s core n) s
      enterHandler s core d evec [(s.ctx core 15).cause, reason.setWidth 64]

/-- A delivery that may enter now: in an exchange phase only a trap of the control context (R217). -/
def mayEnter (k : Core) (d : Delivery) : Bool := k.exch.isNone || d == .trap 0

/-- HANDLER_ENTRY (R383): the idle handler of the picked core takes the first delivery that may enter. -/
def execHandlerEntry (s : State) : Host.Outcome State Fault Refusal :=
  let core := s.pick.core
  let k := s.core core
  if k.handling.isSome then .next s
  else match k.hqueue.find? (fun e => mayEnter k e.2) with
    | none => .next s
    | some e => .next (takeDelivery (s.setCore core { k with hqueue := k.hqueue.erase e }) core e.2)

/-- The first report that a context owes is taken (R381). A report of the handler is a handler fault. -/
def takeReport (s : State) (core : CoreId) (n : CtxNum) : State :=
  let c := s.ctx core n
  match c.reports with
  | [] => s
  | r :: rest =>
    let rv : Word := (BitVec.ofNat 64 (2 ^ 63)) ||| (c.pc.extractLsb' 4 53).setWidth 64
    let s := s.setCtx core n { c with reports := rest, jrnl := if n = 15 then c.jrnl else rv }
    takeTrap s core n r.cause r.einfo r.epc true

/-- ASYNC_TRAP_TAKE (R381): the issuing context takes its oldest report, outside an exchange phase (R217). -/
def execAsyncTrapTake (s : State) : Host.Outcome State Fault Refusal :=
  if s.me.run != .live || s.myCore.exch.isSome then .next s else .next (takeReport s s.curCore s.curCtx)

/-- PREEMPT (R385, R403): the service kernel pre-empts the picked core, with the reason in the pick; where `ctl.evec` is
0 it is answered as refused. -/
def execPreempt (s : State) : Host.Outcome State Fault Refusal :=
  let core := s.pick.core
  let k := s.core core
  if k.evec = 0 || decide (2 < s.pick.num) then .next s
  else .next (s.setCore core (queueDelivery k (s.cycleAt core) (.preempt (BitVec.ofNat 2 s.pick.num))))

/-! ## Saving a context (R404 to R408) -/

/-- Where the register image of a context stands in local memory. -/
def imageBase (k : Core) (n : CtxNum) : Nat := k.scratch - 12288 + 1088 * n.toNat

def le8 (x : Word) : List Byte := natBytes 8 x.toNat

/-- The register image (R404). -/
def registerImage (k : Core) (n : CtxNum) : List Byte :=
  let c := k.ctx n
  let trapped := c.run == .trapped
  let handled := k.handled == some n
  let state := (c.run == .live).toNat + 2 * (trapped && !handled).toNat + 4 * c.sent.toNat + 8 * (trapped && handled).toNat
  let pc := if c.run == .live then c.pc else c.epc
  le8 pc ++ ((List.range 63).flatMap (fun i => le8 (c.getS (BitVec.ofNat 6 (i + 1)))))
    ++ ((List.range 32).flatMap (fun i => natBytes 16 (c.getV (BitVec.ofNat 5 i)).bits.toNat))
    ++ natBytes 16 ((List.range 32).foldl (fun a i => a + (c.getV (BitVec.ofNat 5 i)).tag.bits.toNat * 16 ^ i) 0)
    ++ [c.k ||| 1, c.inc] ++ natBytes 2 c.events.toNat ++ natBytes 4 state ++ List.replicate 40 0

/-- A table entry (R406). -/
def acqWord (e : AcqEntry) : Word := BitVec.ofNat 64 (2 ^ 63 + e.till.toNat * 2 ^ 62 + e.count.toNat * 2 ^ 32 + e.who.toNat)

def acqOfWord (x : Word) : Option AcqEntry :=
  if x.getLsbD 63 then some { till := x.getLsbD 62, count := x.extractLsb' 32 24, who := x.extractLsb' 0 28 } else none

/-- The residual position: the point, the place in it, and whether the handler wrote `ctl.epc` (DESIGN CHOICE, log 12). -/
def residWords (c : Ctx) : Word × Word :=
  match c.resid with
  | some r => (r.handle, BitVec.ofNat 64 (r.point % 2 ^ 32 + r.index % 2 ^ 31 * 2 ^ 32 + c.epcWritten.toNat * 2 ^ 63))
  | none => (0, 0)

/-- A list of words in a field of n words. -/
def field (n : Nat) (ws : List Word) : List Byte := ((ws ++ List.replicate n 0).take n).flatMap le8

/-- The first 1,024 bytes of the control image: CTL to ACQ. -/
def controlWords (k : Core) (core : CoreId) (n : CtxNum) : List Byte :=
  let c := k.ctx n
  let r := residWords c
  let batches := c.sealed.foldl (fun a b => a ||| 1 <<< (4 + b % 16)) (c.batch % 16)
  field 14 [statusWord k n, c.cause, c.einfo, c.jrnl, c.flags.setWidth 64, c.amax.setWidth 64, c.scale.setWidth 64, wdogWord c
           , c.foldbud, c.foldst, c.foldpc, linkWord c, mmchkWord c, 0]
    ++ field 14 [] ++ field 2 [r.1, r.2] ++ field 1 [BitVec.ofNat 64 (c.rc.toNat + c.mmOvf.toNat * 2 ^ 24)]
    ++ field 1 [BitVec.ofNat 64 (batches + core.toNat * 2 ^ 48)] ++ field 16 c.link.reverse
    ++ field 16 ((List.range 16).map (fun i => sparseGet 0 c.dt i)) ++ field 16 (c.acq.map acqWord) ++ field 48 []

/-- The 32 bytes of a journal slot. -/
def journalSlot (j : JEntry) : List Byte := field 4 [infoWord j, j.addr, j.d0, j.d1]

/-- The refused entries of a context, by entry number. -/
def refusedOf (k : Core) (n : CtxNum) : List (Nat × JEntry) :=
  k.journal.filter (fun e => e.2.state == 2 && e.2.ctx == n && e.2.inc == (k.ctx n).inc)

/-- A KIND 3 record. -/
def reportRecord (r : Report) : List Word := [3, r.cause.code.setWidth 64, r.einfo]

/-- The control image (R406, R407). -/
def controlImage (k : Core) (core : CoreId) (n : CtxNum) : List Byte :=
  let c := k.ctx n
  let jr := (List.range 32).flatMap (fun e =>
    match (refusedOf k n).find? (fun x => x.1 == e) with
    | some x => journalSlot x.2
    | none => field 4 [])
  let recs := (c.reports.filter (fun r => r.cause.fatal)).take 15
  controlWords k core n ++ jr ++ field 1 [BitVec.ofNat 64 (recs.length * 65536)] ++ field 7 []
    ++ field 120 (recs.flatMap (fun r => (reportRecord r ++ List.replicate 5 0))) ++ field 128 []

/-- The context becomes saved: its entries have moved. The slot keeps what the images do not hold (log 12): reports beyond the
fifteen that RECS takes, and the reply of a sent instruction while it has not come, or while it waits here (R407). -/
def saveCtx (s : State) (core : CoreId) (n : CtxNum) : State :=
  let k := s.core core
  let c := k.ctx n
  let reg := registerImage k n
  let ctl := controlImage k core n
  let s := s.setCore core (k.writeLocal (imageBase k n) (good reg))
  let s := (spillArea s core n).write s 0 ctl
  let k := s.core core
  let k := { k with
    journal := k.journal.filter (fun e => !(e.2.state == 2 && e.2.ctx == n && e.2.inc == c.inc))
    hqueue := k.hqueue.filter (fun e => e.2 != Delivery.trap n) }
  s.setCore core (k.setCtx n { c with
    run := .saved, stopped := false, reports := (c.reports.filter (fun r => r.cause.fatal)).drop 15, pend := c.pend.answer
    pageWait := none, forwarding := false, heldSignals := 0, fline := none })

/-- The 4,096 bytes of a spill area can be accessed: over LS, with the causes of translation only, and held as any access of
host memory is (R407, R412, R418, R419). -/
def withSpillArea (x : Area) (k : AccKind) (s : State) (go : State → Eff) : Eff :=
  if isLocal x.addr then (if s.myCore.scratch < x.addr.toNat + 4096 then .trap .xlatePerm x.addr else go s)
  else
    let part (a : Word) (n : Nat) (s : State) (go : State → Eff) : Eff :=
      withPageAs xlateOnly s a k (fun s p _ =>
        withLink s a p (fun s => if k == .write && !hostRoom s p n then .hold s else go s))
    let m := 4096 - x.addr.toNat % 4096
    part x.addr (min m 4096) s (fun s => if m < 4096 then part (x.addr + BitVec.ofNat 64 m) (4096 - m) s go else go s)

/-- A poisoned SPILLBASE is consumed as an address: the instruction retires with no effect (R417). -/
def withSpillBase (s : State) (k : Eff) : Eff :=
  if s.myCore.poison.contains (s.myCore.spillSlot / 16) then .done (consumed s (BitVec.ofNat 64 s.myCore.spillSlot)) else k

def csaveEff (c : SCon) (s : State) : Eff :=
  let v := readSC s.me c
  let n : CtxNum := v.setWidth 4
  let x := s.ctx s.curCore n
  if s.curCtx ≠ 15 then .trap .priv 0
  else if 10 < v.toNat || !((x.run == .live && x.stopped) || x.run == .trapped) then .trap .illegal 50
  else
    let base := s.myCore.spillBase
    withSpillBase s (if base % 4096 ≠ 0 ∨ base = 0 then .trap .align base
    else withSpillArea (spillArea s s.curCore n) .write s (fun s =>
      if midway x.pend || journalBusy s.myCore n x.inc then .hold s else .done (saveCtx s s.curCore n)))

/-- `csave` (R407). -/
def execCsave (h : Header) (c : SCon) (s : State) : Host.Outcome State Fault Refusal := issue (.csave h c) (csaveEff c) s

/-! ## Diverting what arrives (R408) -/

/-- The messages that wait for a context of a core. -/
def Core.msgsFor (k : Core) (n : CtxNum) : List QMsg := k.msgs.filter (fun m => m.target == n)

/-- The oldest r messages that wait for a saved context become KIND 1 records while RECS has room. -/
def divertMessages (s : State) (core : CoreId) (n : CtxNum) (r : Nat) : State :=
  (((s.core core).msgsFor n).take r).foldl (fun s m =>
    if (spillArea s core n).full s then s
    else
      let k := s.core core
      let c := k.ctx n
      let s := s.setCore core ({ k with msgs := k.msgs.erase m }.setCtx n { c with spillRels := c.spillRels ++ [m.rel] })
      (spillArea s core n).record s (messageRecord m.src s.time m.pc m.a1 m.a2)) s

/-- The reply of a saved context's sent instruction becomes a KIND 2 record, if it has arrived and RECS has room. -/
def divertReply (s : State) (core : CoreId) (n : CtxNum) : State :=
  let c := s.ctx core n
  match c.pend with
  | .reply v =>
    if (spillArea s core n).full s then s
    else (spillArea s core n).record (s.setCtx core n { c with pend := .none }) (replyRecord core v)
  | _ => s

def nisplEff (c : SCon) (s : State) : Eff :=
  let v := readSC s.me c
  let n : CtxNum := v.setWidth 4
  let core := s.curCore
  if s.curCtx ≠ 15 then .trap .priv 0
  else if 10 < v.toNat || (s.ctx core n).run != .saved then .trap .illegal 50
  else withSpillBase s (
    let x := spillArea s core n
    -- a host page waits for the link (R419), and a poisoned SHDR is consumed as a record (R417)
    withLink s x.addr (if isLocal x.addr then 0 else (physOf s x.tenant (va57 x.addr)).getD 0) (fun s =>
      if x.bad s then .done (consumed s (x.addr + 0x800))
      else
        let after := (s.ctx core n).replyAfter
        let s := divertReply (divertMessages s core n after) core n
        let s := divertMessages s core n ((s.core core).msgsFor n).length
        let s := (spillArea s core n).signal s (s.ctx core n).heldSignals
        .done (s.setCtx core n { s.ctx core n with heldSignals := 0, forwarding := true })))

/-- `nispl` (R408). -/
def execNispl (h : Header) (c : SCon) (s : State) : Host.Outcome State Fault Refusal := issue (.nispl h c) (nisplEff c) s

/-- A slot is given up while it holds a saved context: what the images do not hold of it is kept by its handle, and a reply
that is still to come is forwarded at once where forwarding is on (R366, R408, DESIGN CHOICE, log 12). -/
def stow (s : State) (core : CoreId) (n : CtxNum) : State :=
  if (s.ctx core n).run != .saved then s
  else
    let c := s.ctx core n
    let s := match c.pend with
      | .awaiting v _ => if c.forwarding then divertReply (s.setCtx core n { c with pend := .reply v }) core n else s
      | _ => s
    let x := spillArea s core n
    let h := s.handle core n
    let s := ((s.core core).engine.filter (fun e => e.owes && e.owner == h)).foldl (fun s e =>
      oweMerge (s.setCore core (leaveEngine (s.core core) e.id)) h e.mflags e.mamax) s
    { s with away := sparsePut s.away (s.handle core n).toNat { ctx := s.ctx core n, tenant := x.tenant, area := x.addr } }

/-! ## Restoring a context (R409) -/

/-- What the images do not hold of the context that a core saved: it is in the slot it was saved from, or has been kept since
that slot was given up. -/
def keptCtx (s : State) (core src : CoreId) (n : CtxNum) (inc : BitVec 8) : Ctx :=
  let o := s.ctx src n
  if s.tenantOf src == s.tenantOf core && o.run == .saved && o.inc == inc then o
  else match sparseFind s.away (mkHandle src n inc).toNat with
    | some a => if a.tenant == s.tenantOf core then a.ctx else {}
    | none => {}

/-- It is restored once: nothing of it stays behind. -/
def dropKept (s : State) (src : CoreId) (n : CtxNum) (inc : BitVec 8) : State :=
  let s := { s with away := sparseErase s.away (mkHandle src n inc).toNat }
  let o := s.ctx src n
  if o.run == .saved && o.inc == inc then s.setCtx src n { run := .saved, inc := inc, forwarding := o.forwarding } else s

/-- The bits that R406 reserves in a CTL word: those of its register (R8); the registers without reserved bits have none. -/
def ctlWordReserved (i : Nat) : Word :=
  match i with
  | 0 => ctlReserved .status | 1 => ctlReserved .cause | 3 => ctlReserved .jrnl | 4 => ctlReserved .flags
  | 5 => ctlReserved .amax | 6 => ctlReserved .scale | 7 => ctlReserved .wdog | 8 => ctlReserved .foldbud
  | 11 => ctlReserved .linkstk | 12 => ctlReserved .mmchk
  | _ => 0

/-- Word j of a spill record that is present has a bit with no meaning; a KIND above 3 or of 0 has no layout (R406). -/
def recordBad (kind : BitVec 8) (j : Nat) (x : Word) : Bool :=
  if j = 0 then x.extractLsb' 8 8 != 0 || x.extractLsb' 32 32 != 0 || kind == 0 || decide (3 < kind.toNat)
  else match kind.toNat with
    | 1 => decide (5 ≤ j) && x != 0
    | 2 => j != 2 && x != 0
    | _ => (j == 1 && x.extractLsb' 8 56 != 0) || (decide (3 ≤ j) && x != 0)

/-- The offset of the first failing 8 bytes of a spill area. Bits that R406 gives no meaning are reserved. -/
def spillFault (core : CoreId) (bs : List Byte) : Option Nat :=
  let bad (i : Nat) : Bool :=
    let x := wordAt bs (8 * i)
    if i < 13 then x &&& ctlWordReserved i != 0
    else if i = 13 then x.extractLsb' 41 23 != 0 || x.getLsbD 7
    else if 14 ≤ i ∧ i < 28 then x != 0
    else if i = 30 then x.extractLsb' 25 39 != 0
    else if i = 31 then x.extractLsb' 20 28 != 0 || (x.extractLsb' 4 16 != 0 && x.extractLsb' 48 16 != core)
    else if 64 ≤ i ∧ i < 80 then x.extractLsb' 56 6 != 0 || x.extractLsb' 28 4 != 0 || (x.getLsbD 62 && x.extractLsb' 13 15 != 0)
    else if 80 ≤ i ∧ i < 128 then x != 0
    else if 128 ≤ i ∧ i < 256 then i % 4 == 0 && x.extractLsb' 2 22 != 0
    else if i = 256 then x.extractLsb' 20 44 != 0
    else if 257 ≤ i ∧ i < 264 then x != 0
    else if 264 ≤ i ∧ i < 384 then
      if (i - 264) / 8 < ((wordAt bs 0x800).extractLsb' 16 4).toNat then
        recordBad ((wordAt bs (64 * (i / 8))).extractLsb' 0 8) (i % 8) x
      else x != 0
    else if 384 ≤ i then x != 0
    else false
  ((List.range 512).find? bad).map (8 * ·)

/-- The offset of the first failing 8 bytes of a register image. -/
def imageFault (bs : List Byte) : Option Nat :=
  let bad (i : Nat) : Bool :=
    let x := wordAt bs (8 * i)
    if i = 128 ∨ i = 129 then (List.range 16).any (fun j => decide (10 < (x.extractLsb' (4 * j) 4).toNat))
    else if i = 130 then !x.getLsbD 0 || x.extractLsb' 36 28 != 0
    else if 131 ≤ i then x != 0
    else false
  ((List.range 136).find? bad).map (8 * ·)

/-- A refused entry of an image. -/
def entryOfSlot (n : CtxNum) (inc : BitVec 8) (bs : List Byte) : JEntry :=
  let x := wordAt bs 0
  { state := 2, cause := x.extractLsb' 56 8, reason := x.extractLsb' 53 3, size := x.extractLsb' 48 5, inc := inc, ctx := n
    aop := x.extractLsb' 32 4, scope := x.extractLsb' 29 3, ord := x.extractLsb' 27 2, kind := x.extractLsb' 24 3
    addr := wordAt bs 8, d0 := wordAt bs 16, d1 := wordAt bs 24 }

/-- The entry a refused write re-enters: its own number when that is free, else the lowest free one. -/
def reenter (k : Core) (e : Nat) (j : JEntry) : Core × Nat :=
  let q := if (k.jentry e).state = 0 then e else ((List.range 32).find? (fun i => (k.jentry i).state == 0)).getD e
  (k.setJentry q j, q)

/-- The cause that a code names. -/
def causeOfCode (c : BitVec 8) : Cause :=
  ([.storeRefused, .race, .unproven, .causalLoss, .uncorrectable, .hostlinkDown] : List Cause).find? (fun x => x.code == c) |>.getD .uncorrectable

/-- A program counter of an image: its bits 3:0 read as zero (R53, DESIGN CHOICE, log 12). -/
def imagePc (x : Word) : Word := x &&& ~~~15#64

/-- The context that two images hold over what they do not hold (log 12). Words of CTL are loaded as they stand, an amax that
no instruction leaves included (R103, DESIGN CHOICE, log 12). -/
def imageCtx (base : Ctx) (k : Core) (core : CoreId) (n : CtxNum) (reg ctl : List Byte) (now : Nat) : Ctx :=
  let inc := (wordAt reg 0x410).extractLsb' 8 8
  let w (i : Nat) : Word := wordAt ctl (8 * i)
  let tags := bytesNat ((reg.drop 0x400).take 16)
  let c : Ctx := { base with s := [], v := [] }
  let c := (List.range 63).foldl (fun (c : Ctx) i => c.setS (BitVec.ofNat 6 (i + 1)) (wordAt reg (8 * (i + 1)))) c
  let c := (List.range 32).foldl (fun (c : Ctx) i =>
    c.setV (BitVec.ofNat 5 i) { bits := vecAt reg (0x200 + 16 * i), tag := tagOfCode (tags / 16 ^ i % 16) }) c
  let link := w 11
  let owner := mkHandle core n inc
  let bits := (w 31).extractLsb' 4 16
  let sealedNow := ((k.ops.filter (fun o => o.owner == owner && bits.getLsbD (o.batch % 16))).map (·.batch)).dedup
  let merge := w 13
  let pos := w 29
  { c with
    run := .live, inc := inc, pc := imagePc (wordAt reg 0), epc := imagePc (wordAt reg 0), k := (wordAt reg 0x410).extractLsb' 0 8 &&& 0xFE
    events := (wordAt reg 0x410).extractLsb' 16 16 ||| (wordAt ctl 0x800).extractLsb' 0 16
    sent := (wordAt reg 0x410).getLsbD 34
    link := ((List.range (min 16 (link.extractLsb' 47 5).toNat)).map (fun i => wordAt ctl (0x100 + 8 * i))).reverse
    linkSpilled := link.extractLsb' 32 15, linkCap := link.extractLsb' 17 15, linkBase := link.extractLsb' 0 17
    dt := (List.range 16).foldl (fun d i => sparseAssign 0 d i (wordAt ctl (0x180 + 8 * i))) []
    flags := (w 4).setWidth 7 ||| merge.setWidth 7
    amax := amaxMerge ((w 5).setWidth 33) (merge.extractLsb' 8 33)
    scale := (w 6).setWidth 8, wdogCount := (w 7).extractLsb' 23 41, wdogLimit := (w 7).setWidth 6
    foldbud := w 8, foldst := w 9, foldpc := w 10, cause := w 1, einfo := w 2, jrnl := w 3
    dzt := (w 0).getLsbD 0, mmOff := (w 12).getLsbD 0, mmOvf := (w 12).getLsbD 1 || (w 30).getLsbD 24, rc := (w 30).setWidth 24
    acq := (List.range 16).filterMap (fun i => acqOfWord (wordAt ctl (0x200 + 8 * i)))
    batch := if base.batch % 16 = (w 31).toNat % 16 then base.batch else (w 31).toNat % 16, sealed := sealedNow
    resid := if w 28 = 0 then none else some { handle := w 28, point := (pos.extractLsb' 0 32).toNat, index := (pos.extractLsb' 32 31).toNat }
    epcWritten := pos.getLsbD 63
    nextIssue := now, ready := [], passOver := false, stopped := false, forwarding := false, heldSignals := 0, fline := none
    spillRels := [], reports := [], pageWait := none }

/-- What is owed under a handle goes to a context. -/
def applyOwedTo (s : State) (h : BitVec 28) (core : CoreId) (n : CtxNum) : State :=
  match sparseFind s.owed h.toNat with
  | some m => mergeInto { s with owed := sparseErase s.owed h.toNat } core n m.1 m.2
  | none => s

/-- The merges that finished `mcvt` instructions owe to a restored context, under the handle it was saved with and the one it has
now; those that its unfinished ones will owe are this context's (R105, R186, R189). -/
def applyOwed (s : State) (core src : CoreId) (n : CtxNum) : State :=
  let h := s.handle core n
  let old := mkHandle src n (handleInc h)
  let merged (s : State) (at_ : CoreId) : State :=
    let mine := (s.core at_).engine.filter (fun e => e.op == .mcvt && (e.owner == h || e.owner == old))
    mine.foldl (fun s e =>
      if e.owes then mergeInto (s.setCore at_ (leaveEngine (s.core at_) e.id)) core n e.mflags e.mamax
      else s.setCore at_ (setEntry (s.core at_) { e with owner := h })) s
  applyOwedTo (applyOwedTo ([core, src].dedup.foldl merged s) h core n) old core n

/-- Replays one spill record; a message hands over what was kept beside its record. -/
def replayRecord (s : State) (core : CoreId) (n : CtxNum) (bs : List Byte) (rel : List AcqEntry) : State :=
  let x := wordAt bs 0
  match (x.extractLsb' 0 8).toNat with
  | 1 =>
    let src := x.extractLsb' 16 16
    let pc := imagePc (wordAt bs 16)
    (match acceptMessage s (core ++ n) pc (wordAt bs 24) (wordAt bs 32) src rel with
     | some s => s
     | none =>
       let p : Pkt := { id := s.nextId, src := src, hasSrc := false, srcDie := coreDie core, dst := coreDie core, waiting := true
                        msg := .amsg (core ++ n) pc (wordAt bs 24) (wordAt bs 32) false, rel := rel
                        tenant := s.tenantOf core, time := s.time }
       { s with net := s.net ++ [p], nextId := s.nextId + 1 })
  | 2 => let c := s.ctx core n
         if c.sent then s.setCtx core n { c with pend := .reply (wordAt bs 16) } else s
  | 3 => let c := s.ctx core n
         s.setCtx core n { c with reports := c.reports ++
           [{ cause := causeOfCode ((wordAt bs 8).setWidth 8), epc := c.epc, einfo := wordAt bs 16 }] }
  | _ => s

/-- JRN re-enters the journal; each entry is reported, unless its trap is the one the context was saved with. -/
def replayJournal (s : State) (core : CoreId) (n : CtxNum) (trapped : Bool) (ctl : List Byte) : State :=
  (List.range 32).foldl (fun s e =>
    let bs := (ctl.drop (0x400 + 32 * e)).take 32
    if (wordAt bs 0).extractLsb' 0 2 ≠ 2 then s
    else
      let c := s.ctx core n
      let j := entryOfSlot n c.inc bs
      let (k, q) := reenter (s.core core) e { j with epc := c.epc }
      let s := s.setCore core k
      if trapped && c.cause.getLsbD 9 && c.einfo == entryInfo e then s
      else s.setCtx core n { c with reports := c.reports ++ [{ cause := causeOfCode j.cause, epc := c.epc, einfo := entryInfo q }] }) s

/-- The restored context resumes, is queued for the handler with the trap it had, or takes its first report. -/
def resumeRestored (s : State) (core : CoreId) (n : CtxNum) (trapped : Bool) : State :=
  let k := s.core core
  let c := k.ctx n
  if trapped then s.setCore core (queueDelivery (k.setCtx n { c with run := .trapped }) (s.cycleAt core) (.trap n))
  else if !c.reports.isEmpty then takeReport s core n
  else if c.epcWritten then resumeCtx s core n false
  else s

/-- The spill records in their order, each message with what was kept beside it. -/
def replayRecords (s : State) (core : CoreId) (n : CtxNum) (ctl : List Byte) (rels : List (List AcqEntry)) : State :=
  let count := ((wordAt ctl 0x800).extractLsb' 16 4).toNat
  ((List.range count).foldl (fun (a : State × List (List AcqEntry)) i =>
    let bs := (ctl.drop (0x840 + 64 * i)).take 64
    let message := (wordAt bs 0).extractLsb' 0 8 == 1
    (replayRecord a.1 core n bs (if message then a.2.headD [] else []), if message then a.2.tail else a.2)) (s, rels)).1

/-- The images, the items of the spill area, then those that wait at the network interface: signal bits, reports, and the reply
of a sent instruction, which stays with the context. A saved context of another incarnation in the slot is kept (log 12). -/
def restoreCtx (s : State) (core : CoreId) (n : CtxNum) (reg ctl : List Byte) : State :=
  let inc := (wordAt reg 0x410).extractLsb' 8 8
  let src : CoreId := (wordAt ctl 0xF8).extractLsb' 48 16
  let kept := keptCtx s core src n inc
  let s := dropKept s src n inc
  let s := if src == core && (s.ctx core n).inc == inc then s else stow s core n
  let trapped := (wordAt reg 0x410).getLsbD 33
  let k := s.core core
  let s := s.setCore core (k.setCtx n (imageCtx kept k core n reg ctl (s.cycleAt core)))
  let s := replayJournal (replayRecords (applyOwed s core src n) core n ctl kept.spillRels) core n trapped ctl
  let c := s.ctx core n
  resumeRestored (s.setCtx core n { c with
    events := c.events ||| kept.heldSignals, reports := c.reports ++ kept.reports }) core n trapped

def crestEff (c : SCon) (s : State) : Eff :=
  let v := readSC s.me c
  let n : CtxNum := v.setWidth 4
  let core := s.curCore
  let c := s.ctx core n
  if s.curCtx ≠ 15 then .trap .priv 0
  else if 10 < v.toNat || !(c.run == .idle || c.run == .saved) then .trap .illegal 50
  else withSpillBase s (withSpillArea (spillArea s core n) .read s (fun s =>
    let x := spillArea s core n
    let (ctl, badCtl) := cleanBytes (x.readPoisoned s 0 4096)
    let s := x.count s 0 4096
    let k := s.core core
    let (reg, bad) := cleanBytes (k.readLocal (imageBase k n) 1088)
    let need := ((List.range 32).filter (fun e => (wordAt ctl (0x400 + 32 * e)).extractLsb' 0 2 == 2)).length
    match bad.map (fun i => BitVec.ofNat 64 (imageBase k n + i)) |>.or (badCtl.map (fun i => x.addr + BitVec.ofNat 64 i))
        , spillFault core ctl, imageFault reg with
    | some a, _, _ => .done (consumed s a)
    | none, some o, _ => .trap .illegal (BitVec.ofNat 64 (128 + o))
    | none, none, some o => .trap .illegal (BitVec.ofNat 64 (8192 + o))
    | none, none, none =>
      if (freeEntries k need).isNone then .hold s else .done (restoreCtx s core n reg ctl)))

/-- `crest` (R409). -/
def execCrest (h : Header) (c : SCon) (s : State) : Host.Outcome State Fault Refusal := issue (.crest h c) (crestEff c) s

end Sys2Proof.Machine
end

