-- ==== Sys2Proof/Machine/Faults.lean ====
section
/-! DEFINITION. Faults beyond the core and the windows of a die: trap messages, collectors and the tag table, the answers
of the service kernel and of the host, address translations, page modes and purses (R27, R283, R372, R398 to R400,
R427 to R431). -/

namespace Sys2Proof.Machine

/-! ## Windows (R283, R372) -/

/-- The counters of a page part at the end of a window. -/
def PageMode.endWindow (m : PageMode) : PageMode :=
  let on := !m.replicated && decide (64 ≤ m.rd) && decide (m.wr ≤ 2)
  { replicated := m.replicated || on, rd := 0, wr := 0, wsince := if on then 0 else m.wsince }

/-- PAGE_MODE_WINDOW (R283): at a multiple of 65,536 cycles of the picked die, once for each window. -/
def execPageModeWindow (s : State) : Host.Outcome State Fault Refusal :=
  let d := s.pick.die
  let x := s.die d
  if x.cycle / 65536 ≤ x.pageWin then .next s
  else
    let s := s.setDie d { x with pageWin := x.cycle / 65536 }
    let k := s.sector d
    .next (s.setSector d { k with modes := (k.modes.map (fun e => (e.1, e.2.endWindow))).filter (fun e => e.2 != {}) })

/-- RATE coins are added to a purse. -/
def Purse.endWindow (p : Purse) : Purse := { p with bal := min (p.depth : Int) (p.bal + p.rate) }

/-- PURSE_WINDOW (R372): at a multiple of 4,096 cycles of the picked die, once for each window. -/
def execPurseWindow (s : State) : Host.Outcome State Fault Refusal :=
  let d := s.pick.die
  let x := s.die d
  if x.cycle / 4096 ≤ x.purseWin then .next s
  else
    let here (m : Sparse Purse) : Sparse Purse := m.map (fun e => if e.1 = d.toNat then (e.1, e.2.endWindow) else e)
    let s := s.setDie d { x with purseWin := x.cycle / 4096 }
    .next { s with tenants := s.tenants.map (fun e => (e.1, { e.2 with mem := here e.2.mem, fab := here e.2.fab })) }

/-- One more item of a request is admitted at MEM, or at FAB: of a context that is held, or of work that its engine has. -/
def admitted (fab : Bool) (w : Ticket) (s : State) : State :=
  match w with
  | .ctx core n =>
    let x := s.ctx core n
    (match x.pend with
     | .admitted m f => s.setCtx core n { x with pend := if fab then .admitted m (f + 1) else .admitted (m + 1) f }
     | _ => s)
  | .op core id => mapOp s core id (fun o => if fab then { o with fabItems := o.fabItems + 1 } else { o with items := o.items + 1 })

/-- PURSE_ADMIT (R372): the oldest held request of the picked purse is admitted when the balance is above 0. -/
def execPurseAdmit (s : State) : Host.Outcome State Fault Refusal :=
  let p := s.purse s.pick.tenant s.pick.flag s.pick.die
  match p.held with
  | [] => .next s
  | (w, c) :: rest =>
    if p.rate ≠ 0 ∧ p.bal ≤ 0 then .next s
    else .next (admitted s.pick.flag w (s.setPurse s.pick.tenant s.pick.flag s.pick.die { (charge p c) with held := rest }))

/-! ## Contexts held for a page -/

/-- The cause of a fault of a kind of access. -/
def pageCause (w : PageWait) (host : Bool) : Cause := if w.need = .fetch then .fetch else if host then .xlateHost else .xlateMiss

/-- A held context replays: its instruction is issued again, after a lookup of its line (R380, R424). -/
def replayCtx (s : State) (core : CoreId) (n : CtxNum) : State :=
  s.setCtx core n { s.ctx core n with pageWait := none, fline := none }

/-- A fault that cannot be resolved goes to the handler, with the faulting address. -/
def failCtx (s : State) (core : CoreId) (n : CtxNum) (w : PageWait) (host : Bool) : State :=
  let c := s.ctx core n
  let s := if w.fold then s.setCtx core n { c with foldpc := w.addr } else s
  takeTrap s core n (pageCause w host) w.addr c.pc false

/-- The contexts of a list of cores that are held for a page, and the kind of answer they await. -/
def pageWaiters (s : State) (cores : List CoreId) (page : Nat) (host : Bool) : List (CoreId × CtxNum × PageWait) :=
  cores.flatMap (fun c => (ctxNums.filterMap (fun n =>
    let x := s.ctx c n
    match x.pageWait with
    | some w => if x.run == .live && w.ats.isNone && w.page == page && (w.kind == .host) == host then some (c, n, w) else none
    | none => none)))
where
  ctxNums : List CtxNum := [0, 1, 2, 3, 4, 5, 6, 7, 8, 9, 10, 15]

/-- An answer is applied to every held context of the cores of a MAP (R400), and to the results of `gemv` that wait there for
the page (R194). -/
def answerPage (s : State) (cores : List CoreId) (page : Nat) (host ok : Bool) : State :=
  let s := cores.foldl (fun s c => answerGemvs s c page ok) s
  (pageWaiters s cores page host).foldl (fun s e => if ok then replayCtx s e.1 e.2.1 else failCtx s e.1 e.2.1 e.2.2 host) s

/-! ## Frames (R374; the choice of a frame is the kernel's, log 5) -/

/-- The 64 KiB frames of a stack. -/
def stackFrames : Nat := 1953125

/-- n consecutive frames of a sector, aligned to n: given back ones first when n is 1. -/
def takeFrames (k : Sector) (n : Nat) : Option (Nat × Sector) :=
  match k.freed with
  | f :: rest => if n = 1 then some (f, { k with freed := rest }) else fresh
  | [] => fresh
where
  fresh : Option (Nat × Sector) :=
    let f := (k.nextFrame + n - 1) / n * n
    if f + n ≤ stackFrames then
      some (f, { k with nextFrame := f + n, freed := k.freed ++ (List.range (f - k.nextFrame)).map (· + k.nextFrame) })
    else none

/-- The first stack address of a frame of a sector. -/
def frameBase (d : Die) (f : Nat) : Nat := d.toNat * 2 ^ 37 + f * 65536

/-- A range of stack bytes is zero, without poison, and its granules have no record and carry no release (R338, R343). No granule of
it has been written, so none is encrypted (R373). -/
def clearStack (s : State) (p n : Nat) : State :=
  let s := dropSyncs s p n
  let cell (e : Host.Cell) : Bool := decide (e.1 < p) || decide (p + n ≤ e.1)
  let gran (g : Nat) : Bool := decide (64 * g < p) || decide (p + n ≤ 64 * g)
  let g (x : Gran) : Bool := match x with
    | .flat g => gran g
    | .tensor .. | .own _ => true
  { s with mem := s.mem.filter cell, stack := s.stack.filter cell, cipher := s.cipher.filter (fun e => gran e.1), dirty := s.dirty.filter gran
           stackPoison := s.stackPoison.filter gran, poison := s.poison.filter g, grans := s.grans.filter (fun e => g e.1) }

/-- The FRAME of a device page (R374). -/
def frameField (d : Die) (f : Nat) : BitVec 42 := BitVec.ofNat 42 (frameBase d f / 65536)

/-- Bytes written by the kernel or the loader stand in the stack at once, encrypted under the key of their page (R88, R373):
its leaf entry has been set. -/
def placeBytes (s : State) (p : Nat) (bs : List Byte) : State :=
  let s := { s with mem := memWrite s.mem p bs }
  (unitsOf 64 p bs.length).foldl (fun s g => storeStack s g (memBytes s.mem (64 * g) 64)) s

/-- A page takes a leaf entry. -/
def setLeaf (s : State) (t : Tenant) (key : Nat) (l : Option Leaf) : State :=
  let ts := s.tenantSt t
  s.setTenantSt t { ts with leaves := match l with
    | some l => sparsePut ts.leaves key l
    | none => sparseErase ts.leaves key }

/-- A deferred image page is placed and written at its first fault (R427); none for lack of a frame. -/
def placeDeferred (s : State) (t : Tenant) (key : Nat) (d : Die) (x : Deferred) : Option State :=
  match takeFrames (s.sector d) 1 with
  | none => none
  | some (f, k) =>
    let s := clearStack (s.setSector d k) (frameBase d f) 65536
    let s := setLeaf s t key (some { x.leaf with p := true, frame := frameField d f })
    let s := placeBytes s (frameBase d f) x.data
    let ts := s.tenantSt t
    some (s.setTenantSt t { ts with deferred := sparseErase ts.deferred key })

/-! ## Collectors (R398, R399) -/

def collector (s : State) (d : Die) (row : Nat) : List Outstanding := sparseGet [] (s.die d).collectors row
def setCollector (s : State) (d : Die) (row : Nat) (l : List Outstanding) : State :=
  let x := s.die d
  s.setDie d { x with collectors := sparsePut x.collectors row l }

/-- The same page and kind. -/
def sameFault (m : TrapMsg) (o : Outstanding) : Bool := m.tenant == o.tenant && m.kind == o.kind && m.page == o.page

/-- The page of the PASID behind a device page of 4 KiB. -/
def hostPageOf (s : State) (t : Tenant) (page : Nat) : Nat :=
  match leafOf (s.tenantSt t) (page * 4096) with
  | some (_, l) => l.untranslated (page * 4096) / 4096
  | none => page

/-- The lowest free index of the tag table. -/
def freeTag (s : State) : Option Nat := (List.range 512).find? (fun i => (sparseFind s.tagTable i).isNone)

/-- The leaf entry that covers a 4 KiB page of a device. -/
def leafOfPage (s : State) (t : Tenant) (page : Nat) : Leaf :=
  match leafOf (s.tenantSt t) (page * 4096) with
  | some (_, l) => l
  | none => {}

/-- A host page goes to the tag table (R399, R431): it joins an entry, makes one with a Page Request, or waits. While PRI
of the tenant's function is off it fails at once (R400). -/
def tagPage (s : State) (d : Die) (row : Nat) (o : Outstanding) : State :=
  let pasid := (s.tenantSt o.tenant).pasid
  let u := hostPageOf s o.tenant o.page
  let l := leafOfPage s o.tenant o.page
  if s.priOff.contains o.tenant then
    answerPage (setCollector s d row ((collector s d row).erase o)) o.cores o.page true false
  else match s.tagTable.find? (fun e => e.2.pasid == pasid && e.2.page == u) with
    | some e =>
      if e.2.waiting.contains (d, row, o.tenant, o.page) then s
      else { s with tagTable := sparsePut s.tagTable e.1 { e.2 with waiting := e.2.waiting ++ [(d, row, o.tenant, o.page)] } }
    | none => match freeTag s with
      | some i => { s with
          tagTable := sparsePut s.tagTable i { tenant := o.tenant, pasid := pasid, page := u, waiting := [(d, row, o.tenant, o.page)] }
          priSent := s.priSent ++ [{ tenant := o.tenant, pasid := pasid, page := u, index := i, write := l.wr, execute := l.ex }] }
      | none => s

/-- TRAP_MESSAGE_COLLECT (R399): the picked message reaches its row collector. A page already outstanding only adds its
MAP; with 32 pages outstanding the message waits. -/
def execTrapMessageCollect (s : State) : Host.Outcome State Fault Refusal :=
  let d := s.pick.die
  let x := s.die d
  match x.trapMsgs.find? (fun m => m.id == s.pick.id) with
  | none => .next s
  | some m =>
    let l := collector s d m.row
    let s' := s.setDie d { x with trapMsgs := x.trapMsgs.erase m }
    if l.any (sameFault m) then
      .next (setCollector s' d m.row (l.map (fun o => if sameFault m o then { o with cores := (o.cores ++ m.cores).dedup } else o)))
    else if 32 ≤ l.length then .next s
    else
      let o : Outstanding := { tenant := m.tenant, kind := m.kind, page := m.page, cores := m.cores }
      let s := setCollector s' d m.row (l ++ [o])
      .next (if m.kind = .host then tagPage s d m.row o else s)

/-- TRAP_MESSAGE_MERGE (R27, R398): two messages in flight on one row with one page become one. -/
def execTrapMessageMerge (s : State) : Host.Outcome State Fault Refusal :=
  let d := s.pick.die
  let x := s.die d
  match x.trapMsgs.find? (fun m => m.id == s.pick.id), x.trapMsgs.find? (fun m => m.id == s.pick.other) with
  | some a, some b =>
    if a.id != b.id && a.row == b.row && a.tenant == b.tenant && a.kind == b.kind && a.page == b.page then
      .next (s.setDie d { x with trapMsgs := (x.trapMsgs.erase b).map (fun m =>
        if m.id = a.id then { m with cores := (a.cores ++ b.cores).dedup } else m) })
    else .next s
  | _, _ => .next s

/-! ## Answers (R400, R427) -/

/-- What the instance makes of a fault: none while it cannot answer yet. A page that is present replays; a deferred page
is placed; otherwise the kernel chooses (log 8). -/
def resolvePage (s : State) (t : Tenant) (page : Nat) (a : KernelAnswer) : Option (State × Bool) :=
  let va := page * 4096
  match leafOf (s.tenantSt t) va with
  | some (key, l) =>
    if l.p then (if l.mig then none else some (s, true))
    else match sparseFind (s.tenantSt t).deferred key with
      | some x => (match placeDeferred s t key (homeDie (l.phys va)) x with
          | some s => some (s, true)
          | none => some (s, false))
      | none => some (s, a == .resolved)
  | none => some (s, a == .resolved)

/-- The kind of access that a number in the pick names. -/
def kindOfNum (n : Nat) : AccKind := if n = 0 then .read else if n = 1 then .write else if n = 2 then .fetch else .host

/-- FAULT_ANSWER (R400): the owning instance answers for the picked page (tenant, page number and kind) of a collector. -/
def execFaultAnswer (s : State) : Host.Outcome State Fault Refusal :=
  let d := s.pick.die
  let row := s.pick.row
  match (collector s d row).find? (fun o => o.tenant == s.pick.tenant && o.page == s.pick.num && o.kind == kindOfNum s.pick.other) with
  | none => .next s
  | some o =>
    if o.kind = .host then .next s
    else match resolvePage s o.tenant o.page s.pick.answer with
      | none => .next s
      | some (s, ok) => .next (answerPage (setCollector s d row ((collector s d row).erase o)) o.cores o.page false ok)

/-- The collectors that wait on an entry of the tag table get its answer, for every tenant of its PASID. -/
def answerTag (s : State) (e : TagEntry) (ok : Bool) : State :=
  e.waiting.foldl (fun s w =>
    let l := collector s w.1 w.2.1
    match l.find? (fun o => o.tenant == w.2.2.1 && o.kind == .host && o.page == w.2.2.2) with
    | some o => answerPage (setCollector s w.1 w.2.1 (l.erase o)) o.cores o.page true ok
    | none => s) s

/-- Host pages that wait for a free entry of the tag table. -/
def retagWaiting (s : State) : State :=
  s.dies.foldl (fun s d => d.2.collectors.foldl (fun s r => r.2.foldl (fun s o =>
    let here : Die := BitVec.ofNat 3 d.1
    let listed := s.tagTable.any (fun e => e.2.waiting.contains (here, r.1, o.tenant, o.page))
    if o.kind = .host && !listed && (collector s here r.1).contains o then tagPage s here r.1 o else s) s) s) s

/-- The functions of the module: the physical one and the virtual ones (R364, R432). -/
def functions : List Tenant := (List.range 65).map (BitVec.ofNat 7)

/-- PRG_RESPONSE (R400, R431): after a Response Failure every later host fault fails, so PRI is off at every function (DEDUCED,
log 45). The response is the host's response to the page request of the picked index: 0 Success, 1 Invalid Request,
15 Response Failure. An index with no entry, or another code, is discarded. -/
def execPrgResponse (s : State) : Host.Outcome State Fault Refusal :=
  match sparseFind s.tagTable s.pick.id with
  | none => .next s
  | some e =>
    if s.pick.num = 0 ∨ s.pick.num = 1 then
      let s := { s with tagTable := sparseErase s.tagTable s.pick.id }
      .next (retagWaiting (answerTag s e (s.pick.num == 0)))
    else if s.pick.num = 15 then
      let es := s.tagTable
      let s := sendMsix { s with tagTable := [], priOff := functions } 0 32
      .next (retagWaiting (es.foldl (fun s x => answerTag s x.2 false) s))
    else .next s

/-- PRI_ENABLE (R400, R432): the host enables PRI again at the picked function. -/
def execPriEnable (s : State) : Host.Outcome State Fault Refusal :=
  .next { s with priOff := s.priOff.filter (· != s.pick.tenant) }

/-! ## Address translations (R428 to R430) -/

/-- The contexts of a cluster that wait for a translation. -/
def atsWaiters (s : State) (cl : ClusterId) (u : Nat) : List (CoreId × CtxNum × PageWait) :=
  (List.range 8).flatMap (fun i =>
    let core := clusterCore cl (BitVec.ofNat 3 i)
    pageWaiters.ctxNums.filterMap (fun n =>
      let x := s.ctx core n
      match x.pageWait with
      | some w => if x.run == .live && w.ats == some u then some (core, n, w) else none
      | none => none))

/-- A held access that a translation does not allow: a write without W (R429). -/
def translationDenies (w : PageWait) (wr : Bool) : Bool := w.need == .write && !wr

/-- A translation takes the place of an older one of its page in both TLBs of a core. -/
def putHostTrans (s : State) (core : CoreId) (e : HostTrans) : State :=
  let old (x : HostTrans) : Bool := x.tenant == e.tenant && x.page == e.page
  let k := s.core core
  let s := s.setCore core { k with hostTlb := k.hostTlb.filter (fun x => !old x) }
  let c := s.cluster (coreCluster core)
  takeHostTrans (s.setCluster (coreCluster core) { c with hostTlb := c.hostTlb.filter (fun x => !old x) }) core e

/-- A page of a PASID has another host frame; a frame that it had stays known until an Invalidate Request removes it. -/
def TenantState.nameFrame (ts : TenantState) (u f : Nat) : TenantState :=
  let old := (sparseFind ts.hostPages u).toList.filterMap (fun x => if x = f then none else some (u, x))
  { ts with hostPages := sparsePut ts.hostPages u f, hostOld := (ts.hostOld ++ old).dedup }

/-- An entry of 4 KiB is installed in the cluster and in each waiting core (R429). -/
def installHost (s : State) (cl : ClusterId) (cores : List CoreId) (e : HostTrans) : State :=
  let c := s.cluster cl
  let h := joinTlb clusterTlbSize c.tlb.length (c.hostTlb.filter (fun x => !(x.tenant == e.tenant && x.page == e.page))) e
  let s := s.setCluster cl { c with hostTlb := h, tlb := newest clusterTlbSize h.length c.tlb }
  let s := cores.dedup.foldl (fun s core => putHostTrans s core e) s
  let s := s.setTenantSt e.tenant ((s.tenantSt e.tenant).nameFrame e.page e.hpa)
  -- a name that is given again is not forgotten with the request that removed it before
  { s with invWait := s.invWait.map (fun w => (w.1, w.2.1, w.2.2.filter (· != (e.tenant, e.page, e.hpa)))) }

/-- Misses that waited for room among the 16 requests of a cluster are sent. -/
def sendWaiting (s : State) (cl : ClusterId) : State :=
  (List.range 8).foldl (fun s i =>
    let core := clusterCore cl (BitVec.ofNat 3 i)
    pageWaiters.ctxNums.foldl (fun s n =>
      let x := s.ctx core n
      match x.pageWait with
      | some w => (match w.ats with
          | some u => if x.run == .live then askAts s core w u else s
          | none => s)
      | none => s) s) s

/-- What a completion says: without R and W the page is not present; W without R is in no row of R429 and counts as a
refusal (DEDUCED, log 45). -/
def normAts : AtsResult → AtsResult
  | .mapped hpa size rd wr ex => if !rd && !wr then .notPresent else if !rd then .refused else .mapped hpa size rd wr ex
  | r => r

/-- The results of `gemv` of a cluster that wait for a translation. -/
def gemvsAwait (s : State) (cl : ClusterId) (u : Nat) : List (CoreId × GemvOp) :=
  (List.range 8).flatMap (fun i =>
    let core := clusterCore cl (BitVec.ofNat 3 i)
    ((s.core core).gemvs.filter (fun g => match g.asked with
      | some page => (leafOfPage s g.tenant page).host && hostPageOf s g.tenant page == u
      | none => false)).map (fun g => (core, g)))

/-- The page that a `gemv` waits for is that of its next results in memory: it waits to write. -/
def GemvOp.waitsToWrite (g : GemvOp) : Bool :=
  g.toMem && g.asked == some (pageField (canon ((va57 g.res + g.done * resBytes g.bf16) % 2 ^ 57)) true)

/-- A trap message of a core that is sent for work or for a context, charged after the fact to its purse (R371). -/
def sendTrapAfter (s : State) (core : CoreId) (w : PageWait) : State :=
  chargeAfter (sendTrapMsg s core w) (s.tenantOf core) (coreDie core) (coreDie core) 0

/-- What a completion means for them: an entry is found, the page fault goes to the collector, or the page is denied; a write
without W is denied (R429). -/
def answerGemvAts (s : State) (w : CoreId × GemvOp) : AtsResult → State
  | .mapped _ _ _ wr _ => answerGemvs s w.1 (w.2.asked.getD 0) (wr || !w.2.waitsToWrite)
  | .notPresent => sendTrapAfter s w.1 { page := w.2.asked.getD 0, kind := .host, addr := canon (4096 * w.2.asked.getD 0) }
  | .refused => answerGemvs s w.1 (w.2.asked.getD 0) false

/-- The host address of a 4 KiB page in a completion of 2^size of them: only that page is installed. -/
def pageOfCompletion (hpa size u : Nat) : Nat := hpa / (4096 * 2 ^ size) * (4096 * 2 ^ size) + u % 2 ^ size * 4096

/-- A completion applied to the waiting accesses (R429). -/
def applyCompletion (s : State) (cl : ClusterId) (t : Tenant) (u : Nat) (a : AtsResult) : State :=
  let ws := atsWaiters s cl u
  let gs := gemvsAwait s cl u
  let s := match a with
    | .mapped hpa size rd wr _ =>
      let denied := ws.map (fun w => translationDenies w.2.2 wr) ++ gs.map (fun g => g.2.waitsToWrite && !wr)
      let s := if !denied.isEmpty && denied.all id then s
        else installHost s cl (ws.map (·.1) ++ gs.map (·.1)) { tenant := t, page := u, hpa := pageOfCompletion hpa size u, rd := rd, wr := wr }
      ws.foldl (fun s w => if translationDenies w.2.2 wr then failCtx s w.1 w.2.1 w.2.2 true else replayCtx s w.1 w.2.1) s
    | .notPresent =>
      ws.foldl (fun s w =>
        let x := { w.2.2 with ats := none }
        sendTrapAfter (s.setCtx w.1 w.2.1 { s.ctx w.1 w.2.1 with pageWait := some x }) w.1 x) s
    | .refused => ws.foldl (fun s w => failCtx s w.1 w.2.1 w.2.2 true) s
  gs.foldl (fun s g => answerGemvAts s g a) s

/-- TRANSLATION_COMPLETION (R429): the host's answer to a request of the picked cluster, tenant and page. A completion
that an Invalidate Request overtook is discarded, and the request is sent again. -/
def execTranslationCompletion (s : State) : Host.Outcome State Fault Refusal :=
  let cl := s.pick.cluster
  let k := s.cluster cl
  match k.atsReqs.find? (fun e => e.tenant == s.pick.tenant && e.page == s.pick.num) with
  | none => .next s
  | some e =>
    if e.stale then .next (s.setCluster cl { k with atsReqs := k.atsReqs.map (fun x => if x == e then { e with stale := false } else x) })
    else
      let s := s.setCluster cl { k with atsReqs := k.atsReqs.erase e }
      .next (sendWaiting (applyCompletion s cl e.tenant e.page (normAts s.pick.ats)) cl)

/-- A physical address lies in a host frame. -/
def inFrame (f p : Nat) : Bool := decide (hostBase + f ≤ p) && decide (p < hostBase + f + 4096)

/-- A tensor entry holds bytes of a host frame. -/
def tensorInFrame (s : State) (f : Nat) (e : SliceEntry) : Bool :=
  !tagFlat e.tag && (match s.desc (tagTenant e.tag) (tagTid e.tag) with
    | some d => (tileAddrs d (tagTile e.tag) 0 512).any (fun a => match physOf s (tagTenant e.tag) a.2 with
        | some p => inFrame f p
        | none => false)
    | none => false)

/-- Lines of a host frame leave the L1 data caches (R272, R356). -/
def dropFrameL1 (s : State) (f : Nat) : State :=
  { s with cores := s.cores.map (fun e =>
      let hit (x : Nat × List PByte) : Bool := match physOf s (s.tenantOf (BitVec.ofNat 16 e.1)) (64 * x.1) with
        | some p => inFrame f p
        | none => false
      if e.2.l1.any hit then (e.1, { e.2 with l1 := e.2.l1.filter (fun x => !hit x) }) else e) }

/-- Host lines of a frame are written back over CXL and leave their slices, tensor entries first into the flat space (R430); a
granule of it is then as poisoned as the host's own memory (R416). -/
def flushHostFrame (s : State) (f : Nat) : State :=
  let s := (s.clusters.flatMap (fun c => (c.2.slice.filter (tensorInFrame s f)).map (fun e => ((BitVec.ofNat 13 c.1 : ClusterId), e)))).foldl
    (fun s e => evictEntry s e.1 e.2) s
  let s := (s.hostDirty.filter (fun e => inFrame f (64 * e.gran))).foldl (fun s e => e.back s) s
  let s := ((List.range 64).map ((hostBase + f) / 64 + ·)).foldl poisonBack s
  dropFrameL1 { s with clusters := s.clusters.map (fun c =>
      if c.2.slice.any (fun e => tagFlat e.tag && inFrame f e.base) then
        (c.1, { c.2 with slice := c.2.slice.filter (fun e => !(tagFlat e.tag && inFrame f e.base)) }) else c) } f

/-- A host frame is still in use: by a posted write, by accepted work of an engine that was translated to it, by an atomic whose
reply has not reached its register, or by a line that is kept until it can be written back over CXL (R356, R419). -/
def frameBusy (s : State) (f : Nat) : Bool :=
  let uses (m : Sparse Nat) : Bool := m.any (fun e => inFrame f e.2)
  let reads (c : Ctx) : Bool := c.replyAt.any (inFrame f) && (match c.pend with
    | .awaiting .. | .reply _ => true
    | _ => false)
  s.retention.any (fun r => inFrame f (64 * r.gran.gran)) || s.away.any (fun a => reads a.2.ctx)
    || s.saves.any (fun e => e.2.ctxs.any (fun c => reads c.2)) || s.cores.any (fun e =>
    e.2.journal.any (fun j => j.2.state == 1 && (inFrame f j.2.phys || uses j.2.frames))
      || e.2.ctxs.any (fun c => reads c.2)
      || e.2.ops.any (fun o => uses o.frames) || e.2.engine.any (fun g => uses g.frames) || e.2.gemvs.any (fun g => uses g.frames))

/-- Invalidations whose frames nothing uses any more complete; what their own pages called these frames is forgotten. The name that
another page has for one of them stays. -/
def settleInvalidations (s : State) : State :=
  let ready := s.invWait.filter (fun e => !e.2.1.any (frameBusy s))
  if ready.isEmpty then s
  else
    let fs := ready.flatMap (·.2.1)
    let names := ready.flatMap (·.2.2)
    let keep (t : Tenant) (m : List (Nat × Nat)) : List (Nat × Nat) := m.filter (fun e => !names.contains (t, e.1, e.2))
    let s := fs.foldl flushHostFrame s
    { s with
      invWait := s.invWait.filter (fun e => !ready.contains e), invDone := s.invDone ++ ready.map (·.1)
      tenants := s.tenants.map (fun e => if e.2.hostPages.isEmpty && e.2.hostOld.isEmpty then e
        else (e.1, { e.2 with
          hostPages := keep (BitVec.ofNat 7 e.1) e.2.hostPages, hostOld := keep (BitVec.ofNat 7 e.1) e.2.hostOld })) }

/-- Removes every translation of a tenant's range of PASID pages (R430): the pages with the frames they named, those of an older
completion included. -/
def removeRange (s : State) (t : Tenant) (first n : Nat) : List (Tenant × Nat × Nat) × State :=
  let inside (u : Nat) : Bool := decide (first ≤ u) && decide (u < first + n)
  let fs := (((s.tenantSt t).hostPages ++ (s.tenantSt t).hostOld).filter (fun e => inside e.1)).map (fun e => (t, e.1, e.2))
  let kept (l : List HostTrans) : List HostTrans := l.filter (fun e => !(e.tenant == t && inside e.page))
  (fs, { s with
    cores := s.cores.map (fun e => if e.2.hostTlb.isEmpty then e else (e.1, { e.2 with hostTlb := kept e.2.hostTlb }))
    clusters := s.clusters.map (fun c => (c.1, { c.2 with
      hostTlb := kept c.2.hostTlb
      atsReqs := c.2.atsReqs.map (fun e => if e.tenant == t && inside e.page then { e with stale := true } else e) })) })

/-- INVALIDATE_REQUEST (R430): the request of the picked ITAG names a PASID and a range of 4 KiB pages (first page and
count). Its completion is sent when no retired access uses a removed translation and no value read through one is on its way to a
register; an ITAG that already waits is only looked at again. No access of an instruction that has not retired waits to be performed
between steps, so none is turned back. -/
def execInvalidateRequest (s : State) : Host.Outcome State Fault Refusal :=
  let tag := s.pick.id
  if s.invWait.any (fun e => e.1 == tag) then .next (settleInvalidations s)
  else
    let ts := (s.tenants.filter (fun e => e.2.pasid.toNat == s.pick.num)).map (fun e => (BitVec.ofNat 7 e.1 : Tenant))
    let (names, s) := ts.foldl (fun (acc : List (Tenant × Nat × Nat) × State) t =>
      let r := removeRange acc.2 t s.pick.other (s.pick.words.headD 1).toNat
      (acc.1 ++ r.1, r.2)) ([], s)
    let fs := (names.map (·.2.2)).dedup
    let s := fs.foldl flushHostFrame s
    .next (settleInvalidations { s with invWait := s.invWait ++ [(tag, fs, names)] })

end Sys2Proof.Machine
end

