-- ==== Sys2Proof/Machine/Errors.lean ====
section
/-! DEFINITION. Storage errors, the CXL link, the Filid fabric and fencing: rows and their symbols, the patrol and the
rebuild, retention, stamped packets, and the settlement of a lost die (R239, R350 to R353, R413 to R423). -/

namespace Sys2Proof.Machine

/-! ## Rows and symbols (R413 to R415) -/

def State.banksOf (s : State) (x : Storage) : Banks :=
  match s.banks.find? (fun e => e.1 == x) with
  | some e => e.2
  | none => {}

def State.setBanks (s : State) (x : Storage) (b : Banks) : State :=
  { s with banks := s.banks.filter (fun e => e.1 != x) ++ (if b = {} then [] else [(x, b)]) }

/-- The rows of a storage: 128 bytes each; a stack counts its granules. -/
def storageRows : Storage → Nat
  | .localMem _ => 1024
  | .slice _ => 6144
  | .stack _ => 2000000000

/-- SOURCE of what a storage reports (R423), its tenant and its die. -/
def storageSource : Storage → BitVec 16
  | .localMem c => c
  | .slice cl => cl ++ (0 : BitVec 3)
  | .stack d => d ++ (0x1F00 : BitVec 13)

def storageTenant (s : State) : Storage → Tenant
  | .localMem c => s.tenantOf c
  | .slice cl => (s.cluster cl).tenant
  | .stack _ => 0

def storageDie : Storage → Die
  | .localMem c => coreDie c
  | .slice cl => cl.extractLsb' 10 3
  | .stack d => d

/-- The entry of a slice that holds a row: four rows each, in the order of the slice's list (DESIGN CHOICE, log 13). -/
def rowEntry (s : State) (cl : ClusterId) (row : Nat) : Option SliceEntry := (s.cluster cl).slice[row / 4]?

/-- ADDR of a row. -/
def rowAddr (s : State) (x : Storage) (row : Nat) : Word :=
  match x with
  | .localMem _ => BitVec.ofNat 64 (128 * row)
  | .slice cl => (match rowEntry s cl row with
    | some e => if tagFlat e.tag then BitVec.ofNat 64 (e.base + 128 * (row % 4)) else 0
    | none => 0)
  | .stack d => BitVec.ofNat 64 (d.toNat * 2 ^ 37 + 64 * row)

/-- A storage reports an event. -/
def logStorage (s : State) (x : Storage) (cls : BitVec 8) (detail addr : Word) : State :=
  logError s (storageSource x) 0 cls (storageTenant s x) detail addr s.time

/-- The tenant whose bytes a row holds (R277). -/
def rowTenant (s : State) (x : Storage) (row : Nat) : Tenant :=
  match x with
  | .slice cl => ((rowEntry s cl row).map (fun e => tagTenant e.tag)).getD (s.cluster cl).tenant
  | _ => storageTenant s x

/-- The two granules of an entry that a row holds. -/
def rowParts (row : Nat) : List Nat := [2 * (row % 4), 2 * (row % 4) + 1]

/-- Granules that a poisoned row of an entry covers, one that is no copy. -/
def rowGrans (e : SliceEntry) (row : Nat) : List Gran :=
  (rowParts row).map (fun g => if tagFlat e.tag then .flat (e.base / 64 + g) else .tensor e.tag g)

/-- A row of a slice is poisoned: the granules of its entry, or those of the copy alone, which leaves the home as it is. -/
def poisonEntryRow (s : State) (cl : ClusterId) (e : SliceEntry) (row : Nat) : State :=
  if e.copy then
    let k := s.cluster cl
    let bad := (rowParts row).foldl (fun (b : BitVec 8) g => b ||| (1#8 <<< g)) e.bad
    s.setCluster cl { k with slice := k.slice.map (fun x => if x == e then { x with bad := bad } else x) }
  else
    let gs := rowGrans e row
    { s with poison := s.poison.filter (fun g => !gs.contains g) ++ gs }

/-- Poison is created in a row, and class 4 is logged (R416, R417). -/
def poisonRow (s : State) (x : Storage) (row : Nat) : State :=
  let s := match x with
    | .localMem c =>
      let k := s.core c
      let ws := (List.range 8).map (· + 8 * row)
      s.setCore c { k with poison := k.poison.filter (fun u => !ws.contains u) ++ ws }
    | .slice cl => (match rowEntry s cl row with
      | some e => poisonEntryRow s cl e row
      | none => s)
    | .stack d =>
      let g := d.toNat * 2 ^ 31 + row
      let held := s.dirty.contains g || s.clusters.any (fun c => c.2.slice.any (fun e =>
        tagFlat e.tag && !e.copy && decide (e.base / 64 ≤ g) && decide (g < e.base / 64 + 8)))
      { s with
        stackPoison := s.stackPoison.filter (· != g) ++ [g]
        poison := if held then s.poison else s.poison.filter (· != .flat g) ++ [.flat g] }
  logError s (storageSource x) 0 4 (rowTenant s x row) (pasidDetail s (rowTenant s x row)) (rowAddr s x row) s.time

/-- Everything that a row holds is poisoned. -/
def rowPoisoned (s : State) (x : Storage) (row : Nat) : Bool :=
  match x with
  | .localMem c => ((List.range 8).map (· + 8 * row)).all (s.core c).poison.contains
  | .slice cl => (match rowEntry s cl row with
    | some e => if e.copy then (rowParts row).all e.bad.getLsbD else (rowGrans e row).all s.poison.contains
    | none => true)
  | .stack _ => true

/-- A bank is marked failed, and the rebuild of its memory begins (R415). -/
def failBank (s : State) (x : Storage) (bank : Nat) : State :=
  let b := s.banksOf x
  logStorage (s.setBanks x { b with failed := b.failed ++ [bank], rebuild := some (bank, 0) }) x 2 (BitVec.ofNat 64 bank) 0

/-- A corrected symbol counts in its bank: 16 within 2^24 cycles fail it. -/
def countCorrected (s : State) (x : Storage) (bank : Nat) : State :=
  let b := s.banksOf x
  let now := (s.die (storageDie x)).cycle
  let l := ((now :: sparseGet [] b.errors bank).filter (fun c => decide (now < c + 2 ^ 24))).take 16
  let s := s.setBanks x { b with errors := sparsePut b.errors bank l }
  if 16 ≤ l.length then failBank s x bank else s

/-- A row is decoded (R413): data as stored, one symbol corrected, the failed symbol rebuilt, or the row poisoned. The
symbols in error are gone afterwards. -/
def decodeRow (s : State) (x : Storage) (row : Nat) : State :=
  let b := s.banksOf x
  let bad := (sparseGet [] b.bad row).map (·.toNat)
  let s := s.setBanks x { b with bad := sparseErase b.bad row }
  match b.failed with
  | [] =>
    (match bad with
     | [] => s
     | [i] => countCorrected (logStorage s x 1 (BitVec.ofNat 64 i) (rowAddr s x row)) x i
     | _ => poisonRow s x row)
  | [f] => if bad.all (· == f) then s else poisonRow s x row
  | _ => poisonRow s x row

/-- Rows with symbols in error are decoded before anything reads them, and every row of a memory with two failed banks is
poisoned (DESIGN CHOICE, log 13: all at once, not each at its next read). -/
def settleRows (s : State) : State :=
  s.banks.foldl (fun s e =>
    if 2 ≤ e.2.failed.length then
      ((List.range (min 6144 (storageRows e.1))).filter (fun r => !rowPoisoned s e.1 r)).foldl (fun s r => poisonRow s e.1 r) s
    else e.2.bad.foldl (fun s r => decodeRow s e.1 r.1) s) s

/-- A storage and a row exist. -/
def rowExists (r : StorageRow) : Bool :=
  decide (r.row < storageRows r.store) && (match r.store with
    | .localMem c => coreExists c
    | .slice cl => coreExists (clusterCore cl 0)
    | .stack _ => true)

/-- SOFT_ERROR (R413, R416): the symbols listed by the pick are in error in the picked row. A stack has a code of its own:
the pick's flag says that it cannot correct the granule. -/
def execSoftError (s : State) : Host.Outcome State Fault Refusal :=
  let r := s.pick.store
  if !rowExists r then .next s
  else match r.store with
    | .stack _ => .next (if s.pick.flag then poisonRow s r.store r.row else s)
    | _ =>
      let b := s.banksOf r.store
      let new := (s.pick.words.filter (fun (w : Word) => decide (w.toNat < 10))).map (fun (w : Word) => (w.setWidth 5 : BitVec 5))
      .next (s.setBanks r.store { b with bad := sparseAssign [] b.bad r.row (sparseGet [] b.bad r.row ++ new).dedup })

/-- PATROL_SCRUB (R414): the patrol reads the picked row, and corrects or poisons it as a read would. -/
def execPatrolScrub (s : State) : Host.Outcome State Fault Refusal :=
  let r := s.pick.store
  match r.store with
  | .stack _ => .next s
  | _ => if rowExists r then .next (decodeRow s r.store r.row) else .next s

/-- BANK_REBUILD_ROW (R415): the rebuild of the picked memory visits its next row; after the last, class 3 is logged. -/
def execBankRebuildRow (s : State) : Host.Outcome State Fault Refusal :=
  let x := s.pick.store.store
  let b := s.banksOf x
  match b.rebuild with
  | none => .next s
  | some (bank, row) =>
    let s := decodeRow s x row
    let b := s.banksOf x
    if row + 1 < storageRows x then .next (s.setBanks x { b with rebuild := some (bank, row + 1) })
    else .next (logStorage (s.setBanks x { b with rebuild := none }) x 3 (BitVec.ofNat 64 bank) 0)

/-! ## The CXL link (R418, R419) -/

/-- SOURCE of the base logic of a sector. -/
def baseSource (d : Die) : BitVec 16 := d ++ (0x1F00 : BitVec 13)

/-- Host lines leave every slice; a clean granule is then as poisoned as the host's own memory (R416). -/
def dropHostLines (kept : List Nat) (s : State) : State :=
  let bases := ((s.clusters.flatMap (fun c => c.2.slice.filter (fun e => tagFlat e.tag && isHost e.base))).map (·.base)).dedup
  let gs := (bases.flatMap (fun b => (List.range 8).map (b / 64 + ·))).filter (fun g => !kept.contains g)
  let s := gs.foldl poisonBack s
  { s with clusters := s.clusters.map (fun c =>
      if c.2.slice.any (fun e => tagFlat e.tag && isHost e.base) then
        (c.1, { c.2 with slice := c.2.slice.filter (fun e => !(tagFlat e.tag && isHost e.base)) }) else c) }

/-- CXL_LINK_DOWN (R419): dirty host granules are retained, clean ones invalidated, class 6 logged, MSI-X 34 sent. -/
def execCxlLinkDown (s : State) : Host.Outcome State Fault Refusal :=
  if !s.linkUp || (s.die 4).fenced then .next s
  else
    let keep := s.hostDirty.map (fun e => ({ gran := e, data := memBytes s.hostMem (64 * e.gran - hostBase) 64 } : Retained))
    let s := dropHostLines (s.hostDirty.map (·.gran)) { s with retention := keep, hostDirty := [], linkUp := false, linkDownAt := some s.time }
    .next (sendMsix (logError s (baseSource 4) 0 6 0 (BitVec.ofNat 64 keep.length) 0 s.time) 0 34)

/-- CXL_LINK_RETRAIN (R419): the retained granules are written back with their poison, class 7 is logged, and held accesses go on.
From 2 × 10^9 ns on, the loss is settled first. With die.4 fenced no link comes back. -/
def execCxlLinkRetrain (s : State) : Host.Outcome State Fault Refusal :=
  if s.linkUp then .next s
  else
    let s' := { (s.retention.foldl (fun s r => r.gran.back s) s) with
      linkUp := true, linkDownAt := none, retention := [], heldHost := [] }
    match s.linkDownAt with
    | some t => if t + 2000000000 ≤ s.time then .next s else .next (logError s' (baseSource 4) 0 7 0 (BitVec.ofNat 64 s.retention.length) 0 s.time)
    | none => .next (if (s.die 4).fenced then s else s')

/-- A fatal report to a context, where it stands. -/
def reportAt (s : State) (h : BitVec 28) (cause : Cause) (einfo : Word) : State :=
  addReport s h { cause := cause, epc := (s.ctx (handleCore h) (handleCtx h)).pc, einfo := einfo }

/-- The live contexts of a tenant. -/
def liveOf (s : State) (t : Tenant) : List (BitVec 28) :=
  s.cores.flatMap (fun e =>
    let core : CoreId := BitVec.ofNat 16 e.1
    if s.tenantOf core == t then
      (e.2.ctxs.filter (fun c => c.2.run != .idle && c.1 != 15)).map (fun c => mkHandle core (BitVec.ofNat 4 c.1) c.2.inc)
    else [])

/-- One discarded retention entry: the host keeps its old bytes, with their own poison, class 8 is logged, and its writers are
told. -/
def discardRetained (s : State) (r : Retained) : State :=
  let a := 64 * r.gran.gran - hostBase
  let s := poisonBack { s with hostMem := memWrite s.hostMem a r.gran.old } r.gran.gran
  let s := logError s (baseSource 4) 0 8 r.gran.tenant (pasidDetail s r.gran.tenant) (BitVec.ofNat 64 a) s.time
  let hs := if r.gran.more then liveOf s r.gran.tenant else r.gran.writers.map (·.2)
  hs.foldl (fun s h => reportAt s h .hostlinkDown (BitVec.ofNat 64 a)) s

/-- A batch operation that a lost link or die holds ends, and its issuer is told. -/
def loseOp (s : State) (core : CoreId) (o : CopyOp) (einfo : Word) : State :=
  finishOp (reportAt s o.owner .hostlinkDown einfo) core o.id

/-- The global addresses that an accepted operation has before it, in order: of a copy its elements, of a loader or storer its next
tile, of a tile operation its tiles. -/
def opAddrs (s : State) (o : CopyOp) : List Nat :=
  let tiles (tid : Tid) (qs : Desc → List Nat) : List Nat := match s.desc o.tenant tid with
    | some d => ((qs d).filter (fun q => decide (q < d.tileCount))).flatMap (fun q => (tileAddrs d q 0 512).map (·.2))
    | none => []
  match o.op with
  | .delivery => []
  | .copy src dst _ ext sstr dstr toRing =>
    ((copyElems src dst ext sstr dstr).flatMap (fun e => (e.1 :: (if toRing.isSome then [] else [e.2])).filter (!isLocal ·))).map va57
  | .load tid first _ _ done | .drain tid first _ _ done => tiles tid (fun _ => [first + done])
  | .tile kind tid q arg _ => if kind = 2 then [] else tiles tid (fun d =>
      if kind = 0 then neighbours d q arg else if kind = 1 then [q] else List.range d.tileCount)

/-- The first line on the host that an operation still has before it. -/
def hostPart (s : State) (o : CopyOp) : Option Word :=
  ((opAddrs s o).find? (fun v => match leafOf (s.tenantSt o.tenant) (v % 2 ^ 57) with
    | some (_, l) => l.host
    | none => false)).map (fun v => canon (v % 2 ^ 57 / 64 * 64))

/-- The address of a column of the next results of a `gemv` that stands on the host. -/
def gemvHostPart (s : State) (g : GemvOp) : Option Nat :=
  ((g.next 64).flatMap g.column).find? (fun va => match leafOf (s.tenantSt g.tenant) (va % 2 ^ 57) with
    | some (_, l) => l.host
    | none => false)

/-- The `gemv` works of a core that read from the host are told; what they read there is lost, and a result that is held is told
when its turn comes. -/
def loseGemvs (s : State) (k : Core) : State :=
  k.gemvs.foldl (fun s g => match gemvHostPart s g with
    | some va => addReport s g.owner { cause := .hostlinkDown, epc := g.epc, einfo := canon (va / 64 * 64) }
    | none => s) s

/-- The outcome of a link that stays down: entries discarded, and every held access told (R419). -/
def loseLink (s : State) : State :=
  let s := s.retention.foldl discardRetained s
  let s := s.heldHost.foldl (fun s e => reportAt s (s.handle e.1 e.2.1) .hostlinkDown (canon e.2.2)) s
  let s := s.cores.foldl (fun s e =>
    let core : CoreId := BitVec.ofNat 16 e.1
    let s := e.2.journal.foldl (fun s j =>
      match j.2.state, j.2.hostPart s core with
      | 1#2, some va => freePosted (addReport s (mkHandle core j.2.ctx j.2.inc)
          { cause := Cause.hostlinkDown, epc := j.2.epc, einfo := canon (va / 64 * 64) }) core j.1
      | _, _ => s) s
    let s := loseGemvs s e.2
    e.2.ops.foldl (fun s o => match hostPart s o with
      | some a => loseOp s core o a
      | none => s) s) s
  { s with retention := [], heldHost := [], linkDownAt := none }

/-- RETENTION_TIMEOUT (R419): 2 × 10^9 ns after the class 6 entry with no link. -/
def execRetentionTimeout (s : State) : Host.Outcome State Fault Refusal :=
  match s.linkDownAt with
  | some t => if s.linkUp || decide (s.time < t + 2000000000) then .next s else .next (loseLink s)
  | none => .next s

/-! ## The Filid fabric (R350 to R353) -/

/-- `deliverable` (R351). -/
def deliverable (x : DieState) (p : Pkt) : Bool := x.accepts p.srcDie p.stamp

/-- The oldest packet that a die holds for another leaves once the link takes it (R351). -/
def releaseHeld (s : State) (a b : Die) : State :=
  match s.net.find? (fun q => q.phase == .held && q.srcDie == a && q.dst == b) with
  | some q =>
    if linkFull s a b then s
    else
      let (s, q') := inject s { q with time := s.time } q.matrix.isSome
      { s with net := s.net.map (fun x => if x.id = q.id then q' else x) }
  | none => s

/-- `deliver` (R351): the counter, the knowledge matrix, and the packet on the mesh of its die, behind those delivered
before (R354). -/
def handPkt (s : State) (p : Pkt) : State :=
  let x := s.die p.dst
  let s := s.setDie p.dst { x.received p.srcDie p.dst p.matrix with early := x.early.filter (· != p.id) }
  { s with net := s.net.filter (fun q => q.id != p.id) ++ [{ p with phase := .delivered }] }

/-- A delivered packet of a transfer that is done goes no further; its reply leaves (R351). -/
def settleEcho (s : State) (p : Pkt) : State :=
  match p.msg with
  | .echo reply =>
    let s := dropPkt s p.id
    if reply then s else sendHome s p.tenant p.dst p.srcDie (.echo true) [] false
  | _ => s

/-- A packet is delivered, and the link has room for the next one. -/
def deliverPkt (s : State) (p : Pkt) : State := settleEcho (releaseHeld (handPkt s p) p.srcDie p.dst) p

/-- The packet is the one its source's counter names next. -/
def headPkt (x : DieState) (p : Pkt) : Bool := p.stamp.getD p.srcDie.toNat 0 == x.deliv.getD p.srcDie.toNat 0

/-- The early buffer has room: a head packet has its own entry, the others 31 of their source and 32 shared (R352). -/
def earlyRoom (s : State) (x : DieState) (p : Pkt) : Bool :=
  let others (c : Nat) : Nat := (s.net.filter (fun q => x.early.contains q.id && q.srcDie.toNat == c && !headPkt x q)).length
  headPkt x p || decide (others p.srcDie.toNat < 31) || decide (((List.range 8).map (fun c => others c - 31)).foldl (· + ·) 0 < 32)

/-- The entry of a posted write whose packet is lost: refused when its home has gone (R422), else free. -/
def loseWrite (s : State) (homeLost : Bool) (core : CoreId) (e : Nat) : State :=
  if homeLost then refusePosted s core e .storeRefused 4 else freePosted s core e

/-- A packet is lost in the fabric: class 10 is logged, its operation ends, and its owner takes CAUSAL_LOSS, unless it was on a
fenced die (R353). -/
def losePkt (gone : Nat → Bool) (s : State) (p : Pkt) : State :=
  let s := logError (dropPkt s p.id) (baseSource p.dst) 0 10 p.tenant (pasidDetail s p.tenant) 0 s.time
  if !p.hasSrc || gone p.srcDie.toNat then s
  else
    let s := match p.opId with
      | some id => finishOp s p.src id
      | none => s
    let s := match p.msg with
      | .write core e => loseWrite s false core e
      | _ => s
    let core := handleCore p.owner
    let n := handleCtx p.owner
    let c := s.ctx core n
    let s := if s.handleLive p.owner && c.pend == .sent p.id then s.setCtx core n { c with pend := .none } else s
    addReport s p.owner { cause := .causalLoss, epc := p.epc, einfo := BitVec.ofNat 64 s.time }

/-- FILID_PACKET_ARRIVAL (R352, R353): the picked packet reaches its die, behind the earlier ones of its source, and waits
in the early buffer; one of an older generation is dropped. -/
def execFilidPacketArrival (s : State) : Host.Outcome State Fault Refusal :=
  match s.net.find? (fun p => p.id == s.pick.id) with
  | none => .next s
  | some p =>
    let x := s.die p.dst
    let first := s.net.all (fun q => !(q.phase == .link && q.srcDie == p.srcDie && q.dst == p.dst && decide (q.id < p.id)))
    if p.phase != .link || !first then .next s
    else if p.gen != x.gen then .next (losePkt s.fencedDie s p)
    else if !earlyRoom s x p then .next s
    else
      let s := s.setDie p.dst { x with early := x.early ++ [p.id] }
      .next { s with net := s.net.map (fun q => if q.id = p.id then { q with phase := .early } else q) }

/-- The packets of a die's early buffer that can be delivered. -/
def deliverables (s : State) (d : Die) : List Pkt :=
  s.net.filter (fun q => q.phase == .early && q.dst == d && deliverable (s.die d) q)

/-- The oldest by time stamp, ties broken by source die (R352). -/
def oldest (l : List Pkt) : Option Pkt :=
  l.foldl (fun best p => match best with
    | none => some p
    | some b => if p.time < b.time ∨ (p.time = b.time ∧ p.srcDie.toNat < b.srcDie.toNat) then some p else some b) none

/-- FILID_PACKET_DELIVER (R351, R352): the picked packet is delivered if it is the oldest that can be. -/
def execFilidPacketDeliver (s : State) : Host.Outcome State Fault Refusal :=
  match s.net.find? (fun p => p.id == s.pick.id) with
  | none => .next s
  | some p => if ((oldest (deliverables s p.dst)).map (·.id)) == some p.id then .next (deliverPkt s p) else .next s

/-! ## The links (R15, R420, R421) -/

/-- The dies that each of the ten links joins (R15). -/
def linkEnds : List (Nat × Nat) := [(0, 1), (1, 2), (2, 3), (4, 5), (5, 6), (6, 7), (0, 4), (1, 5), (2, 6), (3, 7)]

/-- The links of some dies. -/
def linksOf (gone : Nat → Bool) : List Nat := (linkEnds.zipIdx.filter (fun e => gone e.1.1 || gone e.1.2)).map (·.2)

/-- A path crosses a link that is disabled (R420). -/
def crossesDown (s : State) (p : List Nat) : Bool :=
  linkEnds.zipIdx.any (fun e => p.contains e.1.1 && p.contains e.1.2 && s.linksDown.contains e.2)

/-- The dies that cannot reach the lowest-numbered healthy die. -/
def cutOff (f : Nat → Bool) : List Nat :=
  let live := (List.range 8).filter (fun d => !f d)
  match live with
  | [] => []
  | l :: _ => live.filter (fun d => d != l && !avoids f (pathOf f l d))

/-! ## Fencing (R239, R353, R420, R422) -/

/-- Delivers what can be delivered among the survivors, oldest first; nothing is injected meanwhile (R353). -/
def drainFabric : Nat → State → State
  | 0, s => s
  | n + 1, s =>
    match oldest (s.net.filter (fun p => p.phase == .early && deliverable (s.die p.dst) p)) with
    | some p => drainFabric n (handPkt s p)
    | none => s

/-- A packet for a lost die is dropped: an orphan of its issuer, a refused write, or an arrival that R422 settles. -/
def dropForLost (s : State) (p : Pkt) : State :=
  let s := dropPkt s p.id
  if !p.hasSrc then s
  else match p.msg with
    | .write core e => loseWrite s true core e
    | .arrival .. => s
    | _ =>
      let s := orphanAtIssuer s p.src
      let s := match p.opId with
        | some id => finishOp s p.src id
        | none => s
      answerSender s p false

/-- The replies that contexts of survivors await from the lost dies will not come (R353). -/
def loseReplies (s : State) (gone : Nat → Bool) : State :=
  s.cores.foldl (fun s e =>
    let core : CoreId := BitVec.ofNat 16 e.1
    if gone (coreDie core).toNat then s
    else e.2.ctxs.foldl (fun s x => match x.2.pend with
      | .awaiting _ d =>
        if !gone d.toNat then s
        else
          let n : CtxNum := BitVec.ofNat 4 x.1
          let s := logError s (baseSource (coreDie core)) 0 10 (s.tenantOf core) (pasidDetail s (s.tenantOf core)) 0 s.time
          reportAt (s.setCtx core n { s.ctx core n with pend := .none, sent := false }) (s.handle core n) .causalLoss (BitVec.ofNat 64 s.time)
      | _ => s) s) s

/-- The steps of R353 with the drop of the fenced dies' traffic (R420): what is on their meshes ends with them, and what is for
them is dropped; what survivors hold is delivered where it can be, and lost otherwise; then a new generation begins, and what waited
to be sent is sent. -/
def resync (s : State) (f gone : Nat → Bool) : State :=
  let survivor (p : Pkt) : Bool := !gone p.srcDie.toNat
  let inside (p : Pkt) : Bool := gone p.srcDie.toNat && (p.phase == .held || p.phase == .mesh || gone p.dst.toNat)
  let s := { s with net := s.net.filter (fun p => !inside p) }
  let s := (s.net.filter (fun p => gone p.dst.toNat)).foldl (fun s p =>
    if survivor p then dropForLost s p else dropPkt s p.id) s
  let s := (s.net.filter (fun p => p.phase == .link && crossesDown s (pathOf f p.srcDie.toNat p.dst.toNat))).foldl (losePkt gone) s
  let s := { s with net := s.net.map (fun p => if p.phase == .link then { p with phase := .early } else p) }
  let s := drainFabric s.net.length s
  let s := (s.net.filter (fun p => p.phase == .early || p.phase == .link)).foldl (losePkt gone) s
  let s := loseReplies s gone
  let s := (List.range 8).foldl (fun s d =>
    let x := s.die (BitVec.ofNat 3 d)
    s.setDie (BitVec.ofNat 3 d) { x with
      know := List.replicate 64 0, deliv := List.replicate 8 0, gen := x.gen + 1, early := [] }) s
  let s := (s.net.filter (fun p => p.phase == .held)).foldl (fun s p => releaseHeld s p.srcDie p.dst) s
  (s.net.filter (fun p => p.phase == .delivered)).foldl (fun s p =>
    if gone p.srcDie.toNat && (match p.msg with
      | .echo _ => true
      | _ => false) then dropPkt s p.id else settleEcho s p) s

/-- A domain that a lost die is part of. -/
def domLost (gone : Nat → Bool) (core : CoreId) (dom : Word) : Bool :=
  gone (domHome core dom) || (domLevel dom == 3 && (List.range 8).any (fun d => gone d && (domDies dom).getLsbD d))

/-- Barrier episodes that a lost die is part of: held surviving members go on, with CAUSAL_LOSS (R422). A member that has
arrived and is not held has its arrival back. -/
def settleBarriers (s : State) (gone : Nat → Bool) (t : Nat) : State :=
  let keep (l : List Arrival) : List Arrival := l.filter (fun a => !domLost gone a.core a.dom)
  let part (b : Nat × Barrier) : Nat × Barrier := (b.1, { b.2 with arrivals := keep b.2.arrivals, held := keep b.2.held })
  let s : State := { s with sectors := s.sectors.map (fun (e : Nat × Sector) => (e.1, { e.2 with barriers := e.2.barriers.map part })) }
  s.cores.foldl (fun s e =>
    let core : CoreId := BitVec.ofNat 16 e.1
    let k := s.core core
    if k.arrival && !gone (coreDie core).toNat && domLost gone core k.dom then
      let c := k.ctx 0
      let free (c : Ctx) : State :=
        s.setCore core { (k.setCtx 0 c) with arrival := false, barX := false, exch := none, exchNext := none, exchLeft := false }
      match c.pend with
      | .arrived _ => reportAt (free { c with pend := .none }) (s.handle core 0) .causalLoss (BitVec.ofNat 64 t)
      | _ => free c
    else s) s

/-- A stage after dies were lost: what its home held is gone, and a range is dealt again. A record of a lost core in a queue that
survives may go to any core of the stage, since that core is assigned to it no more (R228). -/
def settleStage (s : State) (gone : Nat → Bool) (x : Stage) : Stage :=
  let lost := gone x.home.toNat
  let x := if lost then { x with queue := [], parked := [], parents := 0 } else x
  match x.range with
  | none => x
  | some r =>
    if !(diesOf x.dies).any (fun d => gone d.toNat) then x
    else
      -- the master before the loss was the lowest healthy die of DIES
      let was := (diesOf x.dies).filter (fun d => !(s.die d).fenced || gone d.toNat)
      -- of two bitmaps the one that survives; none when both are lost
      let copy := match was with
        | m :: p :: _ => if !gone m.toNat then r.master else if !gone p.toNat then r.deputy else []
        | [m] => if gone m.toNat then [] else r.master
        | [] => r.master
      { x with range := some { r with master := copy, deputy := copy, dealt := [], started := [], nextDeal := 0 } }

/-- A tenant's handle slots, stages and tills' bindings after dies were lost. -/
def settleTenant (s : State) (gone : Nat → Bool) (t : Tenant) : State :=
  let ts := s.tenantSt t
  let lostSlots := ts.handles.filter (fun e => e.2.used && gone (e.1 % 8))
  let s := s.setTenantSt t { ts with
    stages := ts.stages.map (fun e => (e.1, settleStage s gone e.2))
    handles := ts.handles.map (fun e => if gone (e.1 % 8) then (e.1, { gen := e.2.gen }) else e)
    leaves := ts.leaves.map (fun e => if e.2.p && e.2.mig && !e.2.host && gone (homeDie (e.2.phys 0)).toNat then (e.1, { e.2 with mig := false }) else e) }
  lostSlots.foldl (fun s e => quotaReturn (quotaReturn s t 6 0 1) t 7 0 e.2.bytes) s

/-- Tills whose bound record is gone. -/
def unbindTills (s : State) : State :=
  { s with sectors := s.sectors.map (fun (e : Nat × Sector) => (e.1, { e.2 with tills := e.2.tills.map (fun x =>
      match x.2.bound with
      | some st =>
        let id := mkTill (BitVec.ofNat 3 e.1) x.1
        if (s.stage x.2.owner st).parked.any (fun r => r.ev == some (.till id)) then x else (x.1, { x.2 with bound := none })
      | none => x) })) }

/-- Calls that a lost sector had not answered are answered by the coordinator. -/
def answerLost (s : State) (lowest d : Die) : State :=
  let k := s.sector d
  let cs := k.calls ++ k.flips.map (·.call)
  { s with replies := s.replies ++ cs.map (fun c => { id := c.id, owner := c.owner, ring := c.ring, seq := c.seq, svc := c.svc, status := 6, res := [], die := lowest }) }

/-- The purses of a die hold nothing any more. -/
def emptyPurses (s : State) (d : Die) : State :=
  let here (m : Sparse Purse) : Sparse Purse := m.map (fun e => if e.1 = d.toNat then (e.1, { e.2 with held := [] }) else e)
  { s with tenants := s.tenants.map (fun e => (e.1, { e.2 with mem := here e.2.mem, fab := here e.2.fab })) }

/-- The pins of the contexts of a core that is lost are dropped at their homes (R263, R422). -/
def dropPins (s : State) (k : Core) : State := (k.ctxs.filterMap (fun e => e.2.pinned)).foldl dropPin s

/-- Copies outside a lost sector of what it was home to end: lines of L1 caches, replicated and `thalo` copies, so that what is read
of it from then on is poison (R422). -/
def dropLostCopies (s : State) (d : Die) : State :=
  let lostLine (t : Tenant) (line : Nat) : Bool := dieOf s t (64 * line) == d
  let lostCopy (e : SliceEntry) : Bool := e.copy && (if tagFlat e.tag then homeDie e.base == d
    else match s.desc (tagTenant e.tag) (tagTid e.tag) with
      | some r => dieOf s (tagTenant e.tag) (r.tileAddr (tagTile e.tag)) == d
      | none => false)
  { s with
    cores := s.cores.map (fun (e : Nat × Core) =>
      let t := s.tenantOf (BitVec.ofNat 16 e.1)
      if e.2.l1.any (fun x => lostLine t x.1) then (e.1, { e.2 with l1 := e.2.l1.filter (fun x => !lostLine t x.1) }) else e)
    clusters := s.clusters.map (fun (e : Nat × Cluster) =>
      if e.2.slice.any lostCopy then (e.1, { e.2 with slice := e.2.slice.filter (fun x => !lostCopy x) }) else e) }

/-- The parts of a lost die (R422). -/
def removeDie (s : State) (lowest d : Die) : State :=
  let here (c : Nat) (e : Nat) : Bool := e / 2 ^ c == d.toNat
  let x := s.die d
  let s := dropLostCopies s d
  let s := (s.cores.filter (fun e => here 13 e.1)).foldl (fun s e => dropPins s e.2) (emptyPurses (answerLost s lowest d) d)
  let s := { s with
    cores := s.cores.filter (fun (e : Nat × Core) => !here 13 e.1)
    clusters := s.clusters.map (fun (e : Nat × Cluster) => if here 10 e.1 then (e.1, { tenant := e.2.tenant }) else e)
    heldHost := s.heldHost.filter (fun e => coreDie e.1 != d) }
  (s.setSector d {}).setDie d { cycle := x.cycle, rate := x.rate, phase := x.phase, gen := x.gen, fenced := true
                                stretch := x.stretch, balWin := x.balWin, purseWin := x.purseWin, pageWin := x.pageWin }

/-- The fence of a die other than die.0, with the dies it cuts off (R420 to R422). -/
def fenceDie (s : State) (d : Die) : State :=
  let t := s.time
  let f0 (n : Nat) : Bool := (s.die (BitVec.ofNat 3 n)).fenced
  let f1 (n : Nat) : Bool := f0 n || n == d.toNat
  let cut := cutOff f1
  let gone (n : Nat) : Bool := n == d.toNat || cut.contains n
  let s := resync { s with linksDown := (s.linksDown ++ linksOf gone).dedup } f0 gone
  let lost := (List.range 8).filter gone
  let lowest : Die := BitVec.ofNat 3 (((List.range 8).filter (fun n => !f0 n && !gone n)).headD 0)
  let s := lost.foldl (fun s n => removeDie s lowest (BitVec.ofNat 3 n)) s
  let s := settleBarriers s gone t
  let s := s.tenants.foldl (fun s e => settleTenant s gone (BitVec.ofNat 7 e.1)) s
  let s := unbindTills s
  let s := if gone 4 then loseLink { s with linkUp := false, linkDownAt := none
                                            retention := if s.linkUp then s.hostDirty.map (fun e => { gran := e, data := [] }) else s.retention
                                            hostDirty := [] } else s
  lost.foldl (fun s n => sendMsix (logError s (baseSource lowest) 0 9 0 (BitVec.ofNat 64 n) 0 t) 0 33) s

/-- The fence of any die: that of die.0 takes the PCI Express port with it, and the module stops (R420). -/
def fence (s : State) (d : Die) : State :=
  if (s.die d).fenced || s.removed then s
  else if d = 0 then { (s.setDie 0 { s.die 0 with fenced := true }) with removed := true }
  else fenceDie s d

/-- DIE_FENCE (R420): the picked die is fenced. -/
def execDieFence (s : State) : Host.Outcome State Fault Refusal := .next (fence s s.pick.die)

end Sys2Proof.Machine
end

