-- ==== Sys2Proof/Machine/Services.lean ====
section
/-! DEFINITION. The service kernel (R375 to R378): the services of R376, the flipping of a page between the device and
the host, and the emptying of a cluster that changes tenant (R366). A call stands in the list of its instance until a
service event serves it. -/

namespace Sys2Proof.Machine

/-! ## Statuses, service numbers and serving (R240, R242, R376) -/

def stOk : Nat := 0
def stPerm : Nat := 1
def stInval : Nat := 2
def stNoMem : Nat := 3
def stBusy : Nat := 4
def stQuota : Nat := 5
def stWrong : Nat := 6
def stNoMap : Nat := 7

/-- What an instance makes of a call: an answer with its result words, a call that it has to look at again, or one whose
answer comes later. -/
inductive Served where
  | answer (status : Nat) (res : List Word) (s : State)
  | waits (s : State)
  | taken (s : State)

/-- The services of R376. -/
def knownService (n : BitVec 12) : Bool :=
  (decide (0x010 ≤ n.toNat) && decide (n.toNat ≤ 0x016)) || (decide (0x801 ≤ n.toNat) && decide (n.toNat ≤ 0x807))

/-- The strong call of a context before this one has been reported complete (R242). -/
def strongFirst (s : State) (c : Call) : Bool :=
  !c.strong || (match c.prev with
    | none => true
    | some q => !s.sectors.any (fun k => k.2.calls.any (fun x => x.owner == c.owner && x.seq == q)
        || k.2.flips.any (fun f => f.call.owner == c.owner && f.call.seq == q)))

/-- A call leaves the list of its instance. -/
def dropCall (s : State) (d : Die) (id : Nat) : State :=
  let k := s.sector d
  s.setSector d { k with calls := k.calls.filter (fun c => c.id != id) }

/-- The reply of the instance of a sector to a call (R241). -/
def replyTo (d : Die) (s : State) (c : Call) (status : Nat) (res : List Word) : State :=
  { s with replies := s.replies ++ [{
      die := d, id := c.id, owner := c.owner, ring := c.ring, seq := c.seq, svc := c.svc, status := BitVec.ofNat 16 status
      res := res, rel := c.rel }] }

/-- Argument i of a call, counted from 1 as the s registers are. -/
def Call.arg (c : Call) (i : Nat) : Word := c.args.getD (i - 1) 0

/-- Serves the picked call of the picked sector when it is a call of service n, or one of a number that no service has,
which is answered with EINVAL. A strong call waits for the one before it. -/
def serve (n : Nat) (body : Die → Call → State → Served) (s : State) : Host.Outcome State Fault Refusal :=
  let d := s.pick.die
  match (s.sector d).calls.find? (fun c => c.id == s.pick.id) with
  | none => .next s
  | some c =>
    if !strongFirst s c then .next s
    else if !knownService c.svc then .next (replyTo d (dropCall s d c.id) c stInval [])
    else if c.svc.toNat ≠ n then .next s
    else match body d c s with
      | .answer st res t => .next (replyTo d (dropCall t d c.id) c st res)
      | .waits t => .next t
      | .taken t => .next (dropCall t d c.id)

/-- A refused call changes nothing. -/
def refuse (status : Nat) (s : State) : Served := .answer status [] s

/-! ## Pages (R374, R377) -/

/-- The leaf entry as service 0x015 returns it (R374). -/
def Leaf.word (l : Leaf) : Word :=
  BitVec.ofBool l.p ++ BitVec.ofBool l.mig ++ BitVec.ofBool l.host ++ BitVec.ofBool l.frz ++ BitVec.ofBool l.norc
    ++ l.size ++ l.key ++ BitVec.ofBool l.rd ++ BitVec.ofBool l.wr ++ BitVec.ofBool l.ex ++ l.frame

/-- The page that a call names in s1: present, and homed in the sector of the instance. -/
def withCallPage (d : Die) (c : Call) (s : State) (k : Nat → Leaf → Served) : Served :=
  if !canonical (c.arg 1) then refuse stInval s
  else match leafOf (s.tenantSt c.tenant) (va57 (c.arg 1)) with
    | none => refuse stNoMap s
    | some (key, l) =>
      if dieOf s c.tenant (va57 (c.arg 1)) ≠ d then refuse stWrong s
      else if !l.p then refuse stNoMap s
      else k key l

/-- The addresses of a page overlap the region of an armed till of its tenant (R377). -/
def tillArmedOn (s : State) (t : Tenant) (key : Nat) (l : Leaf) : Bool :=
  (allTills s).any (fun e => e.2.owned && e.2.armed && e.2.owner == t
    && decide (e.2.base.toNat % 2 ^ 57 < key * 65536 + pageBytes l.size)
    && decide (key * 65536 < e.2.base.toNat % 2 ^ 57 + 512 * e.2.grans))

/-- Every TLB of the tenant's clusters drops a page (R378). -/
def dropPage (s : State) (t : Tenant) (key : Nat) (l : Leaf) : State :=
  let u := l.untranslated (key * 65536) / 4096
  let kept (x : List HostTrans) : List HostTrans :=
    x.filter (fun h => !(l.host && h.tenant == t && decide (u ≤ h.page) && decide (h.page < u + 16)))
  { s with
    clusters := s.clusters.map (fun (e : Nat × Cluster) => if e.2.tenant == t then (e.1, { e.2 with
        tlb := e.2.tlb.filter (· != key)
        hostTlb := kept e.2.hostTlb }) else e)
    cores := s.cores.map (fun (e : Nat × Core) =>
      if (e.2.tlb.contains key || !e.2.hostTlb.isEmpty) && s.tenantOf (BitVec.ofNat 16 e.1) == t then
        (e.1, { e.2 with tlb := e.2.tlb.filter (· != key), hostTlb := kept e.2.hostTlb }) else e) }

/-- RD, WR and EX of bits 2:0. -/
def Leaf.setRights (l : Leaf) (r : Word) : Leaf := { l with rd := r.getLsbD 2, wr := r.getLsbD 1, ex := r.getLsbD 0 }

def protectBody (d : Die) (c : Call) (s : State) : Served :=
  if 8 ≤ (c.arg 2).toNat then refuse stInval s
  else withCallPage d c s (fun key l =>
    if l.mig || tillArmedOn s c.tenant key l || (l.frz && (c.arg 2).getLsbD 1) then refuse stBusy s
    else .answer stOk [] (dropPage (setLeaf s c.tenant key (some (l.setRights (c.arg 2)))) c.tenant key l))

/-- PROTECT, service 0x010 (R376, R377): a frozen page stays read-only (R285). -/
def execProtect (s : State) : Host.Outcome State Fault Refusal := serve 0x010 protectBody s

/-- Constant-path copies of a page are invalidated (R285). -/
def dropConst (s : State) (t : Tenant) (key : Nat) (l : Leaf) : State :=
  let out (a : Nat) : Bool := decide (64 * a < key * 65536) || decide (key * 65536 + pageBytes l.size ≤ 64 * a)
  { s with clusters := s.clusters.map (fun (e : Nat × Cluster) =>
      if e.2.tenant == t then (e.1, { e.2 with constCopies := e.2.constCopies.filter out }) else e) }

/-- The live handle slots of a tenant whose fold read a page (R261). -/
def readersOf (ts : TenantState) (key : Nat) : List Nat :=
  (ts.handles.filter (fun e => e.2.used && !e.2.released && e.2.pages.contains key)).map (·.1)

/-- Releases a handle slot (R264). -/
def releaseSlot (s : State) (t : Tenant) (slot : Nat) : State :=
  let ts := s.tenantSt t
  let h := sparseGet ({} : HandleSlot) ts.handles slot
  reclaim (s.setTenantSt t { ts with handles := sparsePut ts.handles slot { h with released := true } }) t slot

def unfreezeBody (d : Die) (c : Call) (s : State) : Served :=
  withCallPage d c s (fun key l =>
    let hs := readersOf (s.tenantSt c.tenant) key
    let s := hs.foldl (fun s q => releaseSlot s c.tenant q) (dropConst s c.tenant key l)
    .answer stOk [BitVec.ofNat 64 hs.length] (setLeaf s c.tenant key (some { l with frz := false })))

/-- UNFREEZE, service 0x012 (R376): the copies end and the handles are released before FRZ is cleared. -/
def execUnfreeze (s : State) : Host.Outcome State Fault Refusal := serve 0x012 unfreezeBody s

def queryBody (d : Die) (c : Call) (s : State) : Served := withCallPage d c s (fun _ l => .answer stOk [l.word] s)

/-- QUERY, service 0x015 (R374, R376). -/
def execQuery (s : State) : Host.Outcome State Fault Refusal := serve 0x015 queryBody s

/-! ## Flips (R377, R378) -/

/-- Step 1 of a flip or an unmapping: MIG is set and the translations of the page end. -/
def beginFlip (d : Die) (c : Call) (key : Nat) (l : Leaf) (kind : Nat) (host : Nat) (s : State) : Served :=
  let s := dropPage (setLeaf s c.tenant key (some { l with mig := true })) c.tenant key l
  let k := s.sector d
  .taken (s.setSector d { k with flips := k.flips ++ [{
    id := c.id, call := c, tenant := c.tenant, va := BitVec.ofNat 64 (key * 65536), kind := kind, hostAddr := host }] })

def todevBody (d : Die) (c : Call) (s : State) : Served :=
  withCallPage d c s (fun key l =>
    if !l.host || l.mig || l.frz || tillArmedOn s c.tenant key l then refuse stBusy s
    else beginFlip d c key l 0 0 s)

/-- TODEV, service 0x013 (R378). -/
def execTodev (s : State) : Host.Outcome State Fault Refusal := serve 0x013 todevBody s

def tohostBody (d : Die) (c : Call) (s : State) : Served :=
  if (c.arg 2).toNat % 4096 ≠ 0 ∨ 2 ^ 54 ≤ (c.arg 2).toNat then refuse stInval s
  else withCallPage d c s (fun key l =>
    if l.host || l.mig || l.frz || l.size != 0 || tillArmedOn s c.tenant key l then refuse stBusy s
    else beginFlip d c key l 1 (c.arg 2).toNat s)

/-- TOHOST, service 0x014 (R378): a host-backed page has SIZE 0 (R374), so only a 64 KiB page can be flipped. -/
def execTohost (s : State) : Host.Outcome State Fault Refusal := serve 0x014 tohostBody s

def unmapBody (d : Die) (c : Call) (s : State) : Served :=
  withCallPage d c s (fun key l =>
    if l.mig || tillArmedOn s c.tenant key l then refuse stBusy s
    else beginFlip d c key l 2 0 s)

/-- UNMAP, service 0x016 (R376, R377): steps 1 to 3 of R378, then P is cleared. -/
def execUnmap (s : State) : Host.Outcome State Fault Refusal := serve 0x016 unmapBody s

/-- An address of a tenant lies in a page. -/
def inPage (key : Nat) (l : Leaf) (va : Nat) : Bool :=
  decide (key * 65536 ≤ va % 2 ^ 57) && decide (va % 2 ^ 57 < key * 65536 + pageBytes l.size)

/-- Some byte of a tile stands in a page. -/
def tileInPage (d : Desc) (q : Nat) (key : Nat) (l : Leaf) : Bool :=
  (d.runs q).any (fun r => r.2.2 != 0 && decide (r.2.1 % 2 ^ 57 < key * 65536 + pageBytes l.size)
    && decide (key * 65536 < r.2.1 % 2 ^ 57 + r.2.2))

/-- A posted journal entry of a core writes into a page. -/
def entryInPage (s : State) (core : CoreId) (key : Nat) (l : Leaf) (j : JEntry) : Bool :=
  j.state == 1 && (j.pages s core).any (inPage key l)

/-- The results of a `gemv` that go to memory reach into a page. -/
def resultInPage (key : Nat) (l : Leaf) (res : Word) (n : Nat) : Bool :=
  decide (va57 res < key * 65536 + pageBytes l.size) && decide (key * 65536 < va57 res + n)

/-- Some of the columns of a `gemv` from column i on lie in a page. -/
def columnsInPage (key : Nat) (l : Leaf) (base stride len i n : Nat) : Bool :=
  (List.range (n - i)).any (fun j =>
    let a := base + (i + j) * stride
    decide (a < key * 65536 + pageBytes l.size) && decide (key * 65536 < a + len))

/-- The in-flight count of a page is not zero (R309, R378): retired work that was translated before MIG was set. Results that a flip
of this very page holds up, since their columns stand in it, do not hold the flip (DESIGN CHOICE, log 76). -/
def pageBusy (s : State) (t : Tenant) (key : Nat) (l : Leaf) : Bool :=
  s.cores.any (fun (e : Nat × Core) =>
    (s.tenantOf (BitVec.ofNat 16 e.1) == t && e.2.journal.any (fun j => entryInPage s (BitVec.ofNat 16 e.1) key l j.2))
    || e.2.ops.any (fun o => o.tenant == t && o.pages.any (fun v => inPage key l (v * 65536)))
    || e.2.engine.any (fun x => x.op == .gemv && x.tenant == t && x.toMem && resultInPage key l x.ops3 (x.gN * resBytes x.bf16)
        && !(l.mig && columnsInPage key l x.gBase x.gStride (x.gK * x.capB.tag.width / 8) 0 x.gN))
    || e.2.gemvs.any (fun g => g.tenant == t && g.toMem && resultInPage key l g.res (g.gN * resBytes g.bf16)
        && !(l.mig && columnsInPage key l g.gBase g.gStride (g.gK * g.capB.tag.width / 8) g.done g.gN)))

def freezeBody (d : Die) (c : Call) (s : State) : Served :=
  withCallPage d c s (fun key l =>
    if l.wr || l.host || l.mig then refuse stBusy s
    else if pageBusy s c.tenant key l then .waits s
    else .answer stOk [] (dropPage (setLeaf s c.tenant key (some { l with frz := true })) c.tenant key l))

/-- FREEZE, service 0x011 (R285, R376): refused while the page is writable; a host-backed page is never frozen (R374). What was
accepted while the page could be written is done first. -/
def execFreeze (s : State) : Host.Outcome State Fault Refusal := serve 0x011 freezeBody s

/-- The physical addresses of a page: one range of a stack, or host frames of 4 KiB. -/
def pageFrames (s : State) (t : Tenant) (key : Nat) (l : Leaf) : List (Nat × Nat) :=
  if l.host then
    (List.range 16).filterMap (fun i =>
      (sparseFind (s.tenantSt t).hostPages (l.untranslated (key * 65536) / 4096 + i)).map (fun f => (hostBase + f, 4096)))
  else [(l.phys (key * 65536), pageBytes l.size)]

def inFrames (fs : List (Nat × Nat)) (p : Nat) : Bool := fs.any (fun f => decide (f.1 ≤ p) && decide (p < f.1 + f.2))

/-- Step 3: every dirty byte goes home, tensor entries first, then no entry, copy, L1 line or constant copy of the page is
left, and its counters restart in memory-side mode. -/
def flushPage (s : State) (t : Tenant) (key : Nat) (l : Leaf) : State :=
  let fs := pageFrames s t key l
  let tensor (e : SliceEntry) : Bool := !tagFlat e.tag && tagTenant e.tag == t && (match s.desc t (tagTid e.tag) with
    | some d => tileInPage d (tagTile e.tag) key l
    | none => false)
  let flat (e : SliceEntry) : Bool := tagFlat e.tag && inFrames fs e.base
  let out (p : SliceEntry → Bool) (s : State) : State :=
    (s.clusters.flatMap (fun c => (c.2.slice.filter p).map (fun e => (c.1, e)))).foldl
      (fun s e => evictEntry s (BitVec.ofNat 13 e.1) e.2) s
  let s := out flat (out tensor s)
  let s := ((s.dirty.filter (fun g => inFrames fs (64 * g))).map (fun g => g / 8 * 512)).dedup.foldl (fun s p => backFlat s t p) s
  let s := (s.hostDirty.filter (fun e => inFrames fs (64 * e.gran))).foldl (fun s e => e.back s) s
  let s := dropConst s t key l
  let s := { s with
    cores := s.cores.map (fun (e : Nat × Core) =>
      if s.tenantOf (BitVec.ofNat 16 e.1) == t && e.2.l1.any (fun x => inPage key l (64 * x.1)) then
        (e.1, { e.2 with l1 := e.2.l1.filter (fun x => !inPage key l (64 * x.1)) }) else e) }
  if l.host then s
  else
    let d := homeDie (l.phys (key * 65536))
    let k := s.sector d
    s.setSector d { k with modes := k.modes.filter (fun m => !inFrames fs (m.1 * 65536)) }

/-- Moves what stands at physical addresses: bytes, and the poison and records of granules. A record does not follow its
granule into host memory, where it starts at zero (R343). In a stack the bytes are encrypted under the key of the page that
stands there (R373); granules of zeros read as such. -/
def moveBytes (s : State) (src dst n : Nat) : State :=
  let inn (a : Nat) (base : Nat) : Bool := decide (base ≤ a) && decide (a < base + n)
  let cells := if isHost src then (s.hostMem.filter (fun c => inn c.1 (src - hostBase))).map (fun c => (c.1 - (src - hostBase), c.2))
    else (s.mem.filter (fun c => inn c.1 src)).map (fun c => (c.1 - src, c.2))
  let put (m : List Host.Cell) (base : Nat) : List Host.Cell :=
    cells.foldl (fun m c => memSet m (base + c.1) c.2) (m.filter (fun c => !inn c.1 base))
  let g (x : Gran) : Option Nat := match x with
    | .flat g => if inn (64 * g) src then some (g - src / 64 + dst / 64) else none
    | .tensor .. | .own _ => none
  let bad := s.poison.filterMap g
  let recs := if isHost dst then [] else s.grans.filterMap (fun e => (g e.1).map (fun n => (Gran.flat n, e.2)))
  let keep (x : Gran) : Bool := match x with
    | .flat g => !inn (64 * g) dst && (isHost src || !inn (64 * g) src)
    | .tensor .. | .own _ => true
  let s := { s with stackPoison := s.stackPoison.filter (fun x => !inn (64 * x) dst) ++ bad }
  let s := { s with poison := s.poison.filter keep ++ bad.map Gran.flat, grans := s.grans.filter (fun (e : Gran × GranRec) => keep e.1) ++ recs }
  if isHost dst then { s with hostMem := put s.hostMem (dst - hostBase) }
  else
    let s := { s with mem := put s.mem dst }
    ((cells.map (fun c => (dst + c.1) / 64)).dedup).foldl (fun s g => storeStack s g (memBytes s.mem (64 * g) 64)) s

/-- The releases that granules carry follow their bytes to the home of the new place, where a 129th takes the place of another
(R338, R346). -/
def moveSyncs (s : State) (va src dst n : Nat) : State :=
  let rs := s.clusters.flatMap (fun e => e.2.syncs.filter (fun r => r.within src n))
  rs.foldl (fun s r => match r.gran with
    | .flat g =>
      let off := 64 * g - src
      putSync s (flatHome (va + off) (dst + off)) { r with gran := .flat ((dst + off) / 64) }
    | .tensor .. | .own _ => s) (dropSyncs (dropSyncs s src n) dst n)

/-- A piece of a page moves with all that stands beside its bytes. -/
def movePiece (s : State) (va src dst n : Nat) : State := moveSyncs (moveBytes s src dst n) va src dst n

/-- The frames of a device page are given back (log 5). -/
def giveFrames (s : State) (key : Nat) (l : Leaf) : State :=
  if l.host then s
  else
    let p := l.phys (key * 65536)
    let d := homeDie p
    let s := clearStack s p (pageBytes l.size)
    let k := s.sector d
    s.setSector d { k with freed := k.freed ++ (List.range (pageBytes l.size / 65536)).map (fun i => p % 2 ^ 37 / 65536 + i) }

/-- The host frames of sixteen pages of a PASID: those that the pick supplies, or those a completion named. -/
def hostFrames (s : State) (t : Tenant) (u : Nat) : Option (List Nat) :=
  (List.range 16).mapM (fun i => match s.pick.words[i]? with
    | some w => some (w.toNat / 4096 * 4096)
    | none => sparseFind (s.tenantSt t).hostPages (u + i))

/-- The owner of a key slot: a tenant, or 127 when it is not assigned (R373, R444). -/
def State.keyHolder (s : State) (slot : BitVec 12) : BitVec 7 := sparseGet 0 s.keyOwner slot.toNat

/-- The lowest key slot that a tenant holds, or slot 0 (log 5). -/
def lowestKey (s : State) (t : Tenant) : BitVec 12 :=
  if s.keyHolder 0 = t then 0
  else match s.keyOwner.find? (fun e => e.2 == t) with
    | some e => BitVec.ofNat 12 e.1
    | none => BitVec.ofNat 12 (((List.range 4096).find? (fun i => s.keyHolder (BitVec.ofNat 12 i) == t)).getD 0)

/-- Steps 3 and 4 toward the host; with no room in host memory the page stays. -/
def flipToHost (s : State) (d : Die) (f : Flip) (key : Nat) (l : Leaf) : State :=
  let back (s : State) : State := setLeaf s f.tenant key (some { l with mig := false })
  match hostFrames s f.tenant (f.hostAddr / 4096) with
  | none => replyTo d (back s) f.call stNoMem []
  | some fs =>
    let s := flushPage s f.tenant key l
    let p := l.phys (key * 65536)
    let s := (fs.zipIdx).foldl (fun s e =>
      movePiece s (key * 65536 + 4096 * e.2) (p + 4096 * e.2) (hostBase + e.1) 4096) s
    let s := giveFrames s key l
    let s := setLeaf s f.tenant key (some { l with mig := false, host := true, key := 0, frame := BitVec.ofNat 42 (f.hostAddr / 4096) })
    let s := s.setTenantSt f.tenant ((fs.zipIdx).foldl (fun ts e => ts.nameFrame (f.hostAddr / 4096 + e.2) e.1) (s.tenantSt f.tenant))
    replyTo d s f.call stOk []

/-- Steps 3 and 4 toward the device. The page takes the lowest key slot of its tenant (log 5). -/
def flipToDev (s : State) (d : Die) (f : Flip) (key : Nat) (l : Leaf) : State :=
  let back (s : State) : State := setLeaf s f.tenant key (some { l with mig := false })
  match hostFrames s f.tenant (l.untranslated (key * 65536) / 4096), takeFrames (s.sector d) 1 with
  | none, _ => replyTo d (back s) f.call stNoMap []
  | _, none => replyTo d (back s) f.call stNoMem []
  | some fs, some (n, k) =>
    let s := flushPage s f.tenant key l
    let s := clearStack (s.setSector d { k with modes := (s.sector d).modes }) (frameBase d n) 65536
    let s := setLeaf s f.tenant key (some { l with mig := false, host := false, key := lowestKey s f.tenant, frame := frameField d n })
    let s := (fs.zipIdx).foldl (fun s e =>
      movePiece s (key * 65536 + 4096 * e.2) (hostBase + e.1) (frameBase d n + 4096 * e.2) 4096) s
    replyTo d s f.call stOk []

/-- Step 3 and the end of an unmapping. -/
def finishUnmap (s : State) (d : Die) (f : Flip) (key : Nat) (l : Leaf) : State :=
  let s := giveFrames (flushPage s f.tenant key l) key l
  let s := (pageFrames s f.tenant key l).foldl (fun s r => dropSyncs s r.1 r.2) s
  replyTo d (setLeaf s f.tenant key (some { l with mig := false, p := false })) f.call stOk []

/-- The page of a flip, while it stands. -/
def flipPage (s : State) (f : Flip) : Option (Nat × Leaf) := leafOf (s.tenantSt f.tenant) (va57 f.va)

/-- A flip can end: nothing uses the page any more, and the link carries its bytes. -/
def flipReady (s : State) (f : Flip) : Bool :=
  match flipPage s f with
  | some (key, l) => !pageBusy s f.tenant key l && (s.linkUp || (f.kind == 2 && !l.host))
  | none => true

/-- PAGE_FLIP_COMPLETE (R378): the picked flip of the picked sector ends once the in-flight count is zero. -/
def execPageFlipComplete (s : State) : Host.Outcome State Fault Refusal :=
  let d := s.pick.die
  let k := s.sector d
  match k.flips.find? (fun f => f.id == s.pick.id) with
  | none => .next s
  | some f =>
    if !flipReady s f then .next s
    else
      let s := s.setSector d { k with flips := k.flips.filter (fun x => x.id != f.id) }
      match flipPage s f with
      | none => .next (replyTo d s f.call stNoMap [])
      | some (key, l) =>
        .next (if f.kind = 0 then flipToDev s d f key l else if f.kind = 1 then flipToHost s d f key l else finishUnmap s d f key l)

/-! ## Mapping (R376) -/

/-- Some page of a tenant that is present, or deferred, has a part from key to key + n − 1. -/
def mapped (ts : TenantState) (key n : Nat) : Bool :=
  ts.leaves.any (fun e => (e.2.p || (sparseFind ts.deferred e.1).isSome)
    && decide (e.1 < key + n) && decide (key < e.1 + pageBytes e.2.size / 65536))

def mapBody (d : Die) (c : Call) (s : State) : Served :=
  let size := (c.arg 3).setWidth 2
  let slot : BitVec 12 := (c.arg 4).extractLsb' 3 12
  if 8 ≤ (c.arg 1).toNat ∨ 3 ≤ (c.arg 3).toNat ∨ 2 ^ 15 ≤ (c.arg 4).toNat ∨ !canonical (c.arg 2)
      ∨ va57 (c.arg 2) % pageBytes size ≠ 0 ∨ isLocal (c.arg 2) then refuse stInval s
  else if s.keyHolder slot ≠ c.tenant then refuse stPerm s
  else
    let n := pageBytes size / 65536
    let key := va57 (c.arg 2) / 65536
    let ts := s.tenantSt c.tenant
    if mapped ts key n then refuse stBusy s
    else match takeFrames (s.sector d) n with
      | none => refuse stNoMem s
      | some (f, k) =>
        let s := clearStack (s.setSector d k) (frameBase d f) (pageBytes size)
        let ts := { ts with leaves := ts.leaves.filter (fun e => decide (e.1 < key) || decide (key + n ≤ e.1)) }
        let l : Leaf := { p := true, size := size, key := slot, frame := frameField d f }
        .answer stOk [] (setLeaf (s.setTenantSt c.tenant ts) c.tenant key (some (l.setRights (c.arg 4))))

/-- MAP, service 0x801 (R376): one page of zeros, in frames of the sector. A page that covers addresses of local memory can
never be reached, and is refused (R21; DESIGN CHOICE, log 26). -/
def execMap (s : State) : Host.Outcome State Fault Refusal := serve 0x801 mapBody s

/-! ## Limits (R368, R369, R444) -/

/-- The sector whose base logic keeps the count of a kind: its own for tills, else TAG mod 8 (R369). -/
def countHome (t : Tenant) (kind : Nat) (d : Die) : Die := if kind = 4 then d else t.setWidth 3

def quotaBody (d : Die) (c : Call) (s : State) : Served :=
  let kind := (c.arg 2).toNat
  if 8 ≤ (c.arg 1).toNat ∨ 9 ≤ kind then refuse stInval s
  else if countHome c.tenant kind d ≠ d then refuse stWrong s
  else .answer stOk [BitVec.ofNat 64 ((s.tenantSt c.tenant).limit c.tenant kind d), BitVec.ofNat 64 (quotaCount s c.tenant kind d)] s

/-- QUOTA, service 0x802 (R376). -/
def execQuota (s : State) : Host.Outcome State Fault Refusal := serve 0x802 quotaBody s

/-- A limit takes a new value; a lowered one takes nothing back (R369). -/
def setLimit (s : State) (t : Tenant) (kind : Nat) (d : Die) (n : Nat) : State :=
  let ts := s.tenantSt t
  s.setTenantSt t { ts with limits := sparsePut ts.limits (countKey kind d) n }

/-- A tenant's tag: 0 to 64 (R364). -/
def tenantArg (w : Word) : Option Tenant := if w.toNat ≤ 64 then some (w.setWidth 7) else none

def setquotaBody (d : Die) (c : Call) (s : State) : Served :=
  let kind := (c.arg 3).toNat
  if c.tenant ≠ 0 then refuse stPerm s
  else match tenantArg (c.arg 2) with
    | none => refuse stInval s
    | some t =>
      if 8 ≤ (c.arg 1).toNat ∨ 9 ≤ kind ∨ largestLimit kind < (c.arg 4).toNat then refuse stInval s
      else if countHome t kind d ≠ d then refuse stWrong s
      else .answer stOk [] (setLimit s t kind d (c.arg 4).toNat)

/-- SETQUOTA, service 0x804 (R368, R444). -/
def execSetquota (s : State) : Host.Outcome State Fault Refusal := serve 0x804 setquotaBody s

def arenaBody (d : Die) (c : Call) (s : State) : Served :=
  if c.tenant ≠ 0 then refuse stPerm s
  else match tenantArg (c.arg 2) with
    | none => refuse stInval s
    | some t =>
      if 8 ≤ (c.arg 1).toNat ∨ largestLimit 7 < (c.arg 3).toNat then refuse stInval s
      else if countHome t 7 d ≠ d then refuse stWrong s
      else if (c.arg 3).toNat < quotaCount s t 7 d then refuse stBusy s
      else .answer stOk [] (setLimit s t 7 d (c.arg 3).toNat)

/-- ARENA, service 0x807 (R376, R444): a size below its use is refused. -/
def execArena (s : State) : Host.Outcome State Fault Refusal := serve 0x807 arenaBody s

def setpurseBody (_ : Die) (c : Call) (s : State) : Served :=
  if c.tenant ≠ 0 then refuse stPerm s
  else match tenantArg (c.arg 2) with
    | none => refuse stInval s
    | some t =>
      if 8 ≤ (c.arg 1).toNat ∨ 2 ≤ (c.arg 3).toNat ∨ 65536 ≤ (c.arg 4).toNat ∨ c.arg 5 = 0 ∨ 2 ^ 20 < (c.arg 5).toNat then
        refuse stInval s
      else
        let die : Die := (c.arg 1).setWidth 3
        let p := s.purse t (c.arg 3 == 1) die
        .answer stOk [] (s.setPurse t (c.arg 3 == 1) die
          { p with rate := (c.arg 4).toNat, depth := (c.arg 5).toNat, bal := ((c.arg 5).toNat : Int) })

/-- SETPURSE, service 0x805 (R370): BAL becomes DEPTH. -/
def execSetpurse (s : State) : Host.Outcome State Fault Refusal := serve 0x805 setpurseBody s

/-! ## Key slots (R373, R444) -/

/-- A page of some tenant maps a key slot. -/
def keyMapped (s : State) (slot : BitVec 12) : Bool :=
  s.tenants.any (fun (e : Nat × TenantState) => e.2.leaves.any (fun l => l.2.p && !l.2.host && l.2.key == slot))

def keyassignBody (_ : Die) (c : Call) (s : State) : Served :=
  if c.tenant ≠ 0 then refuse stPerm s
  else if 8 ≤ (c.arg 1).toNat ∨ 4096 ≤ (c.arg 2).toNat ∨ (64 < (c.arg 3).toNat ∧ c.arg 3 ≠ 127) then refuse stInval s
  else
    let slot : BitVec 12 := (c.arg 2).setWidth 12
    let t : BitVec 7 := (c.arg 3).setWidth 7
    if s.keyHolder slot = t then .answer stOk [] s
    else if keyMapped s slot then refuse stBusy s
    else if t ≠ 127 ∧ !quotaFits s t 8 0 1 then refuse stQuota s
    else .answer stOk [] { s with keyOwner := sparseAssign 0 s.keyOwner slot.toNat t }

/-- KEYASSIGN, service 0x806 (R373): a slot leaves its tenant only when no page maps it. -/
def execKeyassign (s : State) : Host.Outcome State Fault Refusal := serve 0x806 keyassignBody s

/-! ## Clusters (R366) -/

/-- The cores of a cluster. -/
def clusterCores (cl : ClusterId) : List CoreId := (List.range 8).map (fun i => clusterCore cl (BitVec.ofNat 3 i))

/-- Step 1: every context of a core is stopped, and ended; the handler and what waits for it go too. Of a saved context, what
its images do not hold is kept (log 12). -/
def endContexts (s : State) (core : CoreId) : State :=
  let s := plainCtxs.foldl (fun s n => stow s core n) s
  let k := s.core core
  let lost := k.msgs.length
  let s := s.setCore core { k with msgs := [], hqueue := [], handling := none }
  let s := (List.range lost).foldl (fun s _ => orphan s core) s
  (plainCtxs ++ [15]).foldl (fun (s : State) (n : CtxNum) => if (s.ctx core n).run == Run.idle then s else becomeIdle (stopCtx s core n) core n) s

/-- What the service kernel holds of a core of its tenant. -/
def savedOf (s : State) (core : CoreId) : SavedCore :=
  sparseGet { tenant := s.tenantOf core } s.saves (savedKey (s.tenantOf core) core)

/-- The service kernel holds this of a core of its tenant. -/
def putSaved (s : State) (core : CoreId) (v : SavedCore) : State :=
  { s with saves := sparsePut s.saves (savedKey (s.tenantOf core) core) v }

/-- The kernel saves the contexts of a core that no handler has saved, with their refused entries: a core whose `ctl.evec` is 0 is
never pre-empted (R366, R385, R405, DESIGN CHOICE, log 70). -/
def keepContexts (s : State) (core : CoreId) : State :=
  let open_ := plainCtxs.filter (fun n => (s.ctx core n).run == .live || (s.ctx core n).run == .trapped)
  if open_.isEmpty then s
  else
    let s := open_.foldl (fun s n => stopCtx s core n) s
    let v := savedOf s core
    let kept (n : CtxNum) : BitVec 28 × Ctx := (s.handle core n, { s.ctx core n with pend := (s.ctx core n).pend.answer })
    putSaved s core { v with
      ctxs := v.ctxs ++ open_.map kept, journal := v.journal ++ (s.core core).journal.filter (fun e => e.2.state == 2) }

/-- The kernel saves the scratchpad of a core (R366, R405, R408). -/
def keepMemory (s : State) (core : CoreId) : State :=
  let k := s.core core
  if k.mem.isEmpty && k.poison.isEmpty && (savedOf s core).ctxs.isEmpty then s
  else putSaved s core { savedOf s core with mem := k.mem, poison := k.poison }

/-- The kept contexts that can be given back together: of each number the one that was saved first. -/
def firstKept (l : List (BitVec 28 × Ctx)) : List (BitVec 28 × Ctx) :=
  l.zipIdx.filterMap (fun e => if (l.take e.2).any (fun x => handleCtx x.1 == handleCtx e.1.1) then none else some e.1)

/-- A refused entry stands in the journal again, under its own number or else the lowest free one, by which its context then
names it. -/
def giveEntry (k : Core) (e : Nat × JEntry) : Core :=
  let (k, q) := reenter k e.1 e.2
  let named (x : Word) : Word := if x == entryInfo e.1 then entryInfo q else x
  let c := k.ctx e.2.ctx
  if q = e.1 then k
  else k.setCtx e.2.ctx { c with
    einfo := if c.run == .trapped then named c.einfo else c.einfo
    reports := c.reports.map (fun r => { r with einfo := named r.einfo }) }

/-- A kept context stands on its core again; what its accepted work has finished meanwhile is finished. -/
def giveContext (now : Nat) (k : Core) (e : BitVec 28 × Ctx) : Core :=
  let n := handleCtx e.1
  let c := e.2
  let k := k.setCtx n { c with
    stopped := false, nextIssue := now, fline := none, sealed := c.sealed.filter (batchOpen k e.1)
    gemvLast := c.gemvLast.filter (fun id => k.gemvs.any (fun g => g.id == id)) }
  if c.run == .trapped then queueDelivery k now (.trap n) else k

/-- The kernel gives a tenant back what it has saved of a core: the bytes, and the contexts where they stood. A context whose number
another one takes first stays with the kernel. Whether it does so is its own decision (DESIGN CHOICE, log 70). -/
def giveBack (s : State) (core : CoreId) : State :=
  match sparseFind s.saves (savedKey (s.tenantOf core) core) with
  | none => s
  | some v =>
    let given := firstKept v.ctxs
    let rest := v.ctxs.filter (fun e => !given.contains e)
    let mine (e : Nat × JEntry) : Bool := given.any (fun x => handleCtx x.1 == e.2.ctx && handleInc x.1 == e.2.inc)
    let k := given.foldl (giveContext (s.cycleAt core)) { s.core core with mem := v.mem, poison := v.poison }
    let s := s.setCore core ((v.journal.filter mine).foldl giveEntry k)
    if rest.isEmpty then { s with saves := sparseErase s.saves (savedKey (s.tenantOf core) core) }
    else putSaved s core { tenant := v.tenant, ctxs := rest, journal := v.journal.filter (fun e => !mine e) }

/-- A core that can be pre-empted has a context to be saved. -/
def toPreempt (k : Core) : Bool := k.evec != 0 && k.ctxs.any (fun e => decide (e.1 < 11) && (e.2.run == .live || e.2.run == .trapped))

/-- A PREEMPT waits for the handler of a core, or is being handled. -/
def preempting (k : Core) : Bool :=
  let p (d : Delivery) : Bool := match d with
    | .preempt _ => true
    | _ => false
  k.hqueue.any (fun e => p e.2) || (k.handling.map p).getD false

/-- The first part of step 1: the cores of a cluster are pre-empted, with reason 1. -/
def preemptCluster (s : State) (cl : ClusterId) : State :=
  (clusterCores cl).foldl (fun s core =>
    let k := s.core core
    if toPreempt k then s.setCore core (queueDelivery k (s.cycleAt core) (.preempt 1)) else s) s

/-- Step 2: the engines of a core are drained and its writes are done. -/
def coreDrained (k : Core) : Bool := k.engine.isEmpty && k.gemvs.isEmpty && k.ops.isEmpty && k.journal.all (fun e => e.2.state != 1)

/-- Step 3: nothing that the old tenant left in a core can be read; handles of its contexts stay out of date. -/
def clearCore (s : State) (core : CoreId) : State :=
  let k := s.core core
  s.setCore core { ctxs := k.ctxs.map (fun (e : Nat × Ctx) => (e.1, { inc := e.2.inc })) }

/-- A packet is on its way to a core of a cluster, or is an arrival at a barrier from one. -/
def packetOf (cl : ClusterId) (p : Pkt) : Bool :=
  (msgTarget p.msg).map coreCluster == some cl || (match p.msg with
    | .arrival core _ _ => coreCluster core == cl
    | _ => false)

/-- The contexts of a cluster are ended and its work is done, and no packet for one of its cores, and no arrival from one, is on its
way. -/
def clusterEmpty (s : State) (cl : ClusterId) : Bool :=
  s.net.all (fun p => !packetOf cl p) && (clusterCores cl).all (fun c => coreDrained (s.core c) && (s.core c).ctxs.all (fun e => e.2.run == .idle))

/-- The cores of a cluster have arrived at no barrier. -/
def forgetArrivals (cl : ClusterId) (b : Barrier) : Barrier :=
  { b with arrivals := b.arrivals.filter (fun a => coreCluster a.core != cl), held := b.held.filter (fun a => coreCluster a.core != cl) }

/-- The cores of a cluster are in no MAP any more: an answer for a page is for the contexts that waited (R4, R400). -/
def forgetMaps (cl : ClusterId) (x : DieState) : DieState :=
  let others (l : List CoreId) : List CoreId := l.filter (fun c => coreCluster c != cl)
  { x with trapMsgs := x.trapMsgs.map (fun m => { m with cores := others m.cores })
           collectors := x.collectors.map (fun r => (r.1, r.2.map (fun o => { o with cores := others o.cores }))) }

/-- A cluster takes a new tenant. The slice stays (R366). -/
def giveCluster (s : State) (cl : ClusterId) (t : Tenant) : State :=
  let s := (clusterCores cl).foldl clearCore s
  let s := { s with dies := s.dies.map (fun (e : Nat × DieState) => (e.1, forgetMaps cl e.2)) }
  let sec (k : Sector) : Sector := { k with barriers := k.barriers.map (fun e => (e.1, forgetArrivals cl e.2)) }
  let s := { s with sectors := s.sectors.map (fun (e : Nat × Sector) => (e.1, sec e.2)) }
  let k := s.cluster cl
  s.setCluster cl { tenant := t, slice := k.slice, syncs := k.syncs }

/-- The calls that are about to give a tenant a cluster. -/
def pendingAssigns (s : State) (t : Tenant) : Nat :=
  (s.sectors.map (fun k => (k.2.calls.filter (fun x => x.svc == 0x803 && x.preempted && x.arg 2 == t.setWidth 64)).length)).foldl (· + ·) 0

/-- The first part of step 1 of a call has been done: from now on it is no more refused. -/
def beginAssign (s : State) (d : Die) (id : Nat) : State :=
  let k := s.sector d
  s.setSector d { k with calls := k.calls.map (fun x => if x.id = id then { x with preempted := true } else x) }

def assignBody (d : Die) (c : Call) (s : State) : Served :=
  if c.tenant ≠ 0 then refuse stPerm s
  else match tenantArg (c.arg 2) with
    | none => refuse stInval s
    | some t =>
      let cl : ClusterId := (c.arg 3).setWidth 13
      if 8 ≤ (c.arg 1).toNat ∨ 2 ^ 13 ≤ (c.arg 3).toNat ∨ 20 ≤ (cl.extractLsb' 0 5).toNat ∨ 20 ≤ (cl.extractLsb' 5 5).toNat then
        refuse stInval s
      else if cl.extractLsb' 10 3 ≠ d then refuse stWrong s
      else if (s.cluster cl).tenant = t then .answer stOk [] s
      else if !c.preempted && !quotaFits s t 0 0 (1 + pendingAssigns s t) then refuse stQuota s
      else if !c.preempted && (clusterCores cl).any (fun x => toPreempt (s.core x)) then
        .waits (beginAssign (preemptCluster s cl) d c.id)
      else if (clusterCores cl).any (fun x => preempting (s.core x)) then .waits s
      else
        let s := (clusterCores cl).foldl endContexts ((clusterCores cl).foldl keepContexts s)
        if clusterEmpty s cl then
          let s := giveCluster ((clusterCores cl).foldl keepMemory s) cl t
          .answer stOk [] (if s.pick.flag then (clusterCores cl).foldl giveBack s else s)
        else .waits (beginAssign s d c.id)

/-- ASSIGN, service 0x803 (R366): the cores whose handler can be entered are pre-empted and their handlers save what is to be
saved, the kernel saves the rest, then the contexts end, the engines drain, and the scratchpads are saved and the cluster is cleared
and given to the tenant. Until it is empty the call is looked at again. The pick says whether the kernel gives back what it holds of
the tenant's work on these cores. -/
def execAssign (s : State) : Host.Outcome State Fault Refusal := serve 0x803 assignBody s

end Sys2Proof.Machine
end

