-- ==== Sys2Proof/Machine/Host.lean ====
section
/-! DEFINITION. What the outside world does to the module: the registers of BAR0, launches, key loads and function-level
resets (R432 to R434), host writes over CXL (R435), scale packets (R357, R436, R437), attestation (R379), the service
level, the clocks and reset (R438, R439, R444). The parameters of each event stand in the pick. -/

namespace Sys2Proof.Machine

/-- Registers of BAR0 other than SVC and LOG answer from service level 1 (R438). -/
def State.barAnswers (s : State) : Bool := s.svc != 0 && !s.removed

/-- A write to a register of BAR0 that only the physical function has (R433). -/
def State.pfAnswers (s : State) : Bool := s.barAnswers && s.pick.tenant == 0

/-! ## Launches (R434) -/

/-- A saturating 32-bit counter. -/
def satSucc (x : BitVec 32) : BitVec 32 := if x = BitVec.allOnes 32 then x else x + 1

/-- LSTAT of a function: launches accepted in the low half, dropped in the high half. -/
def countLaunch (s : State) (t : Tenant) (accepted : Bool) : State :=
  let x := sparseGet 0 s.lstat t.toNat
  let hi := x.extractLsb' 32 32
  let lo := x.extractLsb' 0 32
  { s with lstat := sparsePut s.lstat t.toNat (if accepted then hi ++ satSucc lo else satSucc hi ++ lo) }

/-- The message that a launch record sends; none when the record is dropped. -/
def launchTarget (s : State) (t : Tenant) (bs : List Byte) : Option State :=
  let target := wordAt bs 0
  let pc := wordAt bs 8
  let core : CoreId := target.extractLsb' 4 16
  if bs.length ≠ 32 ∨ target.extractLsb' 20 44 ≠ 0 ∨ pc % 16 ≠ 0 then none
  else if !coreExists core || s.tenantOf core != t || !s.inService (coreDie core) then none
  else (hearMessage s core 65536).bind (fun s => acceptMessage s (target.setWidth 20) pc (wordAt bs 16) (wordAt bs 24) 0 [])

/-- LAUNCH (R434): a write of the picked bytes at the picked offset from LAUNCH of the picked function. An accepted record
acts at its core at once; it has no sending core, and comes after the messages of its cycle (R207). -/
def execLaunch (s : State) : Host.Outcome State Fault Refusal :=
  let t := s.pick.tenant
  if !s.barAnswers || decide (64 < t.toNat) then .next s
  else
    match if s.pick.num = 0 then launchTarget s t s.pick.bytes else none with
    | some s => .next (countLaunch s t true)
    | none => .next (countLaunch s t false)

/-! ## Registers of the physical function (R433, R437) -/

/-- A value of n bytes after a write of bytes from an offset within it. -/
def mergeBytes (n old off : Nat) (bs : List Byte) : Nat :=
  bytesNat ((List.range n).map (fun i => if off ≤ i ∧ i < off + bs.length then bs.getD (i - off) 0
    else BitVec.ofNat 8 (old / 256 ^ i)))

/-- The write lies within a register. -/
def inReg (base n off len : Nat) : Bool := decide (base ≤ off) && decide (off + len ≤ base + n)

/-- The entry of the module's own number is held at VALID 0 in every table (R437). -/
def clearOwnRoute (s : State) : State :=
  let own (k : Sector) : Sector :=
    { k with routes := sparseAssign 0 k.routes s.modnum.toNat (sparseGet 0 k.routes s.modnum.toNat &&& 0x7F) }
  { s with sectors := s.sectors.map (fun (e : Nat × Sector) => (e.1, own e.2)) }

/-- A vector whose mask has been cleared sends the message that was pending (R433). -/
def msixUnmasked (s : State) (i : Nat) : State :=
  let e := s.msixEntry i
  if s.msixPend.contains i && !e.getLsbD 96 then
    { s with msixPend := s.msixPend.filter (· != i), msixOut := s.msixOut ++ [(e.extractLsb' 0 64, e.extractLsb' 64 32)] }
  else s

/-- A write of bytes within one entry of the MSI-X table of a function, which stands at offset 0 of its BAR2 (PRESUMED, log 69): the
reserved bits of vector control are not held. -/
def writeMsix (s : State) (f : BitVec 7) (off : Nat) (bs : List Byte) : State :=
  let v := off / 16
  let i := msixPlace f v
  if bs.length = 0 ∨ 16 < off % 16 + bs.length ∨ msixVectors f ≤ v then s
  else
    let e := BitVec.ofNat 128 (mergeBytes 16 (s.msixEntry i).toNat (off % 16) bs) &&& BitVec.ofNat 128 (2 ^ 97 - 1)
    msixUnmasked { s with msixTable := sparsePut s.msixTable i e } i

/-- The physical function maps the page of a tenant at an address into the HDM range, or takes it out (R435). -/
def mapHdm (s : State) (t : Tenant) (va : Nat) (on : Bool) : State :=
  match leafOf (s.tenantSt t) va with
  | some (key, l) =>
    if l.host then s
    else { s with hdm := s.hdm.filter (· != (t, key)) ++ (if on then [(t, key)] else []) }
  | none => s

/-- BAR_REGISTER_WRITE (R433): a write of the picked bytes at the picked offset to KSLOT, KEY or MODNUM of BAR0. Reserved bits are
not held. The pick may name another space: 2, the MSI-X table in BAR2 of the picked function; 3, the map of the HDM range, where the
physical function names a tenant, an address of it and, by the flag, whether its page is mapped (DESIGN CHOICE, log 71). -/
def execBarRegisterWrite (s : State) : Host.Outcome State Fault Refusal :=
  let off := s.pick.num
  let bs := s.pick.bytes
  if s.pick.other = 2 then .next (if s.barAnswers && decide (s.pick.tenant.toNat ≤ 64) then writeMsix s s.pick.tenant off bs else s)
  else if s.pick.other = 3 then .next (if s.barAnswers then mapHdm s s.pick.tenant (off % 2 ^ 57) s.pick.flag else s)
  else if !s.pfAnswers then .next s
  else if inReg 0x1000 8 off bs.length then
    .next { s with kslot := BitVec.ofNat 12 (mergeBytes 8 s.kslot.toNat (off - 0x1000) bs) }
  else if inReg 0x1040 64 off bs.length then
    .next { s with keyReg := BitVec.ofNat 512 (mergeBytes 64 s.keyReg.toNat (off - 0x1040) bs) }
  else if inReg 0x4000 8 off bs.length then
    .next (clearOwnRoute { s with modnum := BitVec.ofNat 16 (mergeBytes 8 s.modnum.toNat (off - 0x4000) bs) })
  else .next s

/-- KCMD (R373, R433): a write of 1 starts a load of KEY into KSLOT, or is refused because a page maps the slot. A write
while a load is in progress does nothing. -/
def execKcmd (s : State) : Host.Outcome State Fault Refusal :=
  if !s.pfAnswers || s.pick.num != 1 || s.kcmd == 1 then .next s
  else if keyMapped s s.kslot then .next { s with kcmd := 3 }
  else .next { s with kcmd := 1, keyLoad := some (s.kslot, s.keyReg) }

/-- KEY_LOAD_DONE (R433): both keys of the slot are replaced whole, and KCMD reads 2. -/
def execKeyLoadDone (s : State) : Host.Outcome State Fault Refusal :=
  match s.keyLoad with
  | some (slot, key) => .next { s with keys := sparsePut s.keys slot.toNat key, kcmd := 2, keyLoad := none }
  | none => .next s

/-- FENCE_REGISTER (R420, R433): bits 2:0 name a die from 1 to 7; 0 is ignored. -/
def execFenceRegister (s : State) : Host.Outcome State Fault Refusal :=
  let d : Die := BitVec.ofNat 3 s.pick.num
  .next (if !s.pfAnswers || d == 0 then s else fence s d)

/-- A route entry as it is held (R437): VALID with a lane of 6 or 7 or a reserved bit is not valid. -/
def heldRoute (b : Byte) : Byte :=
  if b.getLsbD 7 && b.extractLsb' 3 4 == 0 && decide ((b.extractLsb' 0 3).toNat < 6) then b
  else if b.getLsbD 7 then b &&& 0x7F else b

/-- One entry of the scale window is written. -/
def writeRoute (s : State) (off : Nat) (b : Byte) : State :=
  let d : Die := BitVec.ofNat 3 (off / 65536)
  let m := off % 65536
  let k := s.sector d
  s.setSector d { k with routes := sparseAssign 0 k.routes m (if m = s.modnum.toNat then b &&& 0x7F else heldRoute b) }

/-- SCALE_ROUTE_WRITE (R437): an aligned write of 1, 2, 4 or 8 bytes at the picked BAR0 offset, one entry a byte. -/
def execScaleRouteWrite (s : State) : Host.Outcome State Fault Refusal :=
  let off := s.pick.num
  let bs := s.pick.bytes
  let n := bs.length
  if !s.pfAnswers || !inReg 0x80000 0x80000 off n || !(n == 1 || n == 2 || n == 4 || n == 8) || off % n != 0 then .next s
  else .next ((bs.zipIdx).foldl (fun s e => writeRoute s (off - 0x80000 + e.2) e.1) s)

/-! ## What a read of BAR0 gives (R423, R433, R437, R438) -/

/-- The 32 bytes of an entry of the error log (R423). -/
def logBytes (e : LogEntry) : List Byte :=
  natBytes 8 (e.time % 2 ^ 64) ++ natBytes 8 e.addr.toNat ++ natBytes 8 e.detail.toNat
    ++ natBytes 8 (e.source.toNat + 2 ^ 16 * e.unit.toNat + 2 ^ 20 * e.cls.toNat + 2 ^ 28 * e.tenant.toNat)

/-- Entry i of the log in BAR0: the newest stands before LOGHEAD. An index that holds no entry yet reads zero. -/
def logAt (s : State) (i : Nat) : List Byte :=
  match s.log[(i + 4096 + s.log.length - s.logHead) % 4096]? with
  | some e => logBytes e
  | none => List.replicate 32 0

/-- The registers of a function that a read of BAR0 reaches, with their offsets. A virtual function has LSTAT alone. -/
def barRegs (s : State) (t : Tenant) : List (Nat × List Byte) :=
  let reg (off x : Nat) : Nat × List Byte := (off, natBytes 8 x)
  let lstat := reg 0x20 (sparseGet 0 s.lstat t.toNat).toNat
  if t ≠ 0 then [lstat]
  else [lstat, reg 0x100 s.svc.toNat, reg 0x1000 s.kslot.toNat, reg 0x1008 s.kcmd.toNat, (0x1040, List.replicate 64 0)
        , reg 0x3000 s.logHead, reg 0x3008 s.logOvr, reg 0x4000 s.modnum.toNat]

/-- One byte at an offset of BAR0 of a function as a read gives it; none where no register answers. At level 0 only SVC and LOG
do (R438). -/
def barByte (s : State) (t : Tenant) (off : Nat) : Option Byte :=
  let early := decide (0x100 ≤ off ∧ off < 0x108) || decide (0x10000 ≤ off ∧ off < 0x30000)
  if s.removed || (!s.barAnswers && !early) then none
  else match (barRegs s t).find? (fun r => decide (r.1 ≤ off ∧ off < r.1 + r.2.length)) with
    | some r => r.2[off - r.1]?
    | none =>
      if t ≠ 0 then none
      else if 0x10000 ≤ off ∧ off < 0x30000 then (logAt s ((off - 0x10000) / 32))[off % 32]?
      else if 0x80000 ≤ off ∧ off < 0x100000 then
        some (sparseGet 0 (s.sector (BitVec.ofNat 3 ((off - 0x80000) / 65536))).routes (off % 65536))
      else none

/-- A read of n bytes at an offset of BAR0 of a function. -/
def barRead (s : State) (t : Tenant) (off n : Nat) : Option (List Byte) :=
  (List.range n).foldr (fun i acc => (barByte s t (off + i)).bind (fun b => acc.map (b :: ·))) (some [])

/-- A byte of BAR2 of a function: the MSI-X table, and behind its entries the pending-bit array (R433, PRESUMED, log 69). -/
def bar2Byte (s : State) (t : Tenant) (off : Nat) : Option Byte :=
  let n := msixVectors t
  if !s.barAnswers || decide (64 < t.toNat) then none
  else if off < 16 * n then some ((s.msixEntry (msixPlace t (off / 16))).extractLsb' (8 * (off % 16)) 8)
  else if off < 16 * n + 8 then
    some (BitVec.ofNat 8 (((List.range 8).filter (fun i => s.msixPend.contains (msixPlace t (8 * (off - 16 * n) + i)))).foldl (fun a i => a + 2 ^ i) 0))
  else none

/-! ## Function-level reset (R432, R444) -/

/-- The clusters of a tenant other than 0. -/
def tenantClusters (s : State) (t : Tenant) : List ClusterId :=
  (s.clusters.filter (fun e => e.2.tenant == t)).map (fun e => BitVec.ofNat 13 e.1)

/-- Every context of a core ends without a trap, and the work its engines have accepted ends with them. -/
def resetCore (s : State) (core : CoreId) : State :=
  let s := endContexts s core
  let k := s.core core
  s.setCore core { k with engine := [], gemvs := [], ops := [] }

/-- The resources of R368 go back: what a tenant holds in its own tables, in every sector and of key slots. Limits and pages
stay. -/
def returnResources (s : State) (t : Tenant) : State :=
  let ts := s.tenantSt t
  let s := s.setTenantSt t {
    leaves := ts.leaves, deferred := ts.deferred, pasid := ts.pasid, hostPages := ts.hostPages, limits := ts.limits
    handles := (ts.handles.filter (fun e => e.2.gen != 1 || e.2.used)).map (fun e =>
      (e.1, { gen := if e.2.used then (if e.2.gen = 0xFFFF then 1 else e.2.gen + 1) else e.2.gen })) }
  let sec (k : Sector) : Sector := { k with
    tills := k.tills.filter (fun e => !(e.2.owned && e.2.owner == t))
    counters := k.counters.map (fun e => if e.2.used && e.2.tenant == t then (e.1, { gen := e.2.gen + 1 }) else e)
    barriers := k.barriers.map (fun e => (e.1, { e.2 with tillActs := e.2.tillActs.filter (fun a => a.1 != t) }))
    calls := k.calls.filter (fun c => c.tenant != t) }
  let entry (e : SliceEntry) : Bool := !tagFlat e.tag && tagTenant e.tag == t
  let gran (x : Gran) : Bool := match x with
    | .tensor tag _ => tagTenant tag != t
    | .flat _ | .own _ => true
  { s with
    away := s.away.filter (fun e => e.2.tenant != t), saves := s.saves.filter (fun e => e.2.tenant != t)
    hdm := s.hdm.filter (fun e => e.1 != t)
    sectors := s.sectors.map (fun (e : Nat × Sector) => (e.1, sec e.2))
    clusters := s.clusters.map (fun (e : Nat × Cluster) =>
      if e.2.slice.any entry then (e.1, { e.2 with slice := e.2.slice.filter (fun x => !entry x) }) else e)
    poison := s.poison.filter gran, grans := s.grans.filter (fun (e : Gran × GranRec) => gran e.1)
    keyOwner := s.keyOwner.filter (fun e => e.2 != t) }

/-- The reset of a function goes on: its contexts end, and once their posted writes are done its clusters are cleared and
return to tenant 0 with the rest. -/
def continueFlr (s : State) (t : Tenant) : State :=
  let cls := tenantClusters s t
  let s := (cls.flatMap clusterCores).foldl resetCore s
  if cls.all (clusterEmpty s) then
    let s := cls.foldl (fun s cl => giveCluster s cl 0) s
    { (returnResources s t) with flrWait := s.flrWait.filter (· != t) }
  else { s with flrWait := if s.flrWait.contains t then s.flrWait else s.flrWait ++ [t] }

/-- FUNCTION_LEVEL_RESET (R432, R444): of the picked virtual function, 1 to 64. -/
def execFunctionLevelReset (s : State) : Host.Outcome State Fault Refusal :=
  if s.pick.tenant = 0 ∨ 64 < s.pick.tenant.toNat then .next s else .next (continueFlr s s.pick.tenant)

/-! ## Host writes and scale packets (R357, R358, R435) -/

/-- A write that no core of the module made is performed at the home of a device page, and tills count it (R333, R348,
R358). -/
def foreignWrite (s : State) (t : Tenant) (va p : Nat) (l : Leaf) (bs : List Byte) (kind : WriteKind := .plain) : State :=
  let addrs := addrRange va bs.length
  let hits := tillsCounting s t addrs
  let s := foreignGrans s (flatGrans l p bs.length) hits
  countTills none (performFlat s t va p (good bs) (homeDie p) none kind 0) addrs hits

/-- The device page that a foreign write of some bytes within one granule of 64 reaches, if it can be performed now. -/
def foreignPage (s : State) (t : Tenant) (va n : Nat) : Option (Leaf × Nat) :=
  if n = 0 ∨ 64 < va % 64 + n then none
  else match leafOf (s.tenantSt t) va with
    | some (_, l) =>
      if !l.p || l.mig || l.host || !stackExists (l.phys va) || !s.inService (homeDie (l.phys va)) then none
      else some (l, l.phys va)
    | none => none

/-- The page that the host reaches through CXL.mem: one that the physical function has mapped into the HDM range, while the link is
up (R419, R435). With the pick's flag the write comes over PCI Express, which needs no such link (R333; DESIGN CHOICE, log 77). -/
def hdmPage (s : State) (t : Tenant) (va n : Nat) : Option (Leaf × Nat) :=
  match leafOf (s.tenantSt t) va with
  | some (key, _) => if (s.linkUp || s.pick.flag) && s.hdm.contains (t, key) then foreignPage s t va n else none
  | none => none

/-- What the host reads through CXL.mem: the bytes at the home of a mapped page, with their poison (R416, R435). -/
def hostCxlRead (s : State) (t : Tenant) (va n : Nat) : Option (List PByte) :=
  (hdmPage s t va n).map (fun x => flatBytes s x.2 n)

/-- HOST_CXL_WRITE (R285, R333, R435): the host writes the picked bytes, through CXL.mem or over PCI Express, to the mapped device page at the picked address of
the tenant the page belongs to. A write to a frozen page completes with an error. -/
def execHostCxlWrite (s : State) : Host.Outcome State Fault Refusal :=
  let va := s.pick.num % 2 ^ 57
  match hdmPage s s.pick.tenant va s.pick.bytes.length with
  | some (l, p) =>
    if l.frz then .next { s with hostErrors := s.hostErrors + 1 }
    else .next (foreignWrite s s.pick.tenant va p l s.pick.bytes)
  | none => .next s

/-- A till increment from another module counts bytes as a write would (R31, R333). -/
def addToTill (s : State) (t : Tenant) (id : BitVec 13) (n : Nat) : State :=
  let x := s.till id
  if x.owned && x.armed && x.owner == t then
    let c := x.count + n
    if c < x.total then s.setTill id { x with count := c }
    else fireAction none (s.setTill id { x with count := c, fired := true, armed := false }) id
  else s

/-- A packet of this module carries its own number as its source (R437). -/
def stampScale (src : BitVec 16) : ScalePacket → ScalePacket
  | .send _ t c r d => .send src t c r d
  | .write _ t a d => .write src t a d
  | .atomic _ t a o w x => .atomic src t a o w x
  | .tillAdd _ t i n => .tillAdd src t i n

/-- A packet of a core for another module leaves on the lane that the table of the core's sector names, with MODNUM as its source; one
for an unreachable module is an orphan of the core (R205, R436, R437). -/
def sendScale (s : State) (core : CoreId) (dst : BitVec 16) (p : ScalePacket) : State :=
  let d := coreDie core
  let e := sparseGet 0 (s.sector d).routes dst.toNat
  if e.getLsbD 7 then { s with scaleOut := s.scaleOut ++ [(6 * d.toNat + (e.extractLsb' 0 3).toNat, dst, stampScale s.modnum p)] }
  else orphanAtIssuer s core

/-- SCALE_PACKET_ARRIVAL (R31, R357, R436, R437): with the flag of the pick, the picked packet of the picked core leaves for the module
that the pick numbers; no instruction names one (log 50). Else the picked packet arrives on a scale link of the picked sector. A frozen page, or
one that the write may not enter, refuses it. A send is no sync packet (R26), and an atomic leaves the releases of its granule
(R346). -/
def execScalePacketArrival (s : State) : Host.Outcome State Fault Refusal :=
  let d := s.pick.die
  if s.pick.flag then
    match s.pick.scale with
    | some p => .next (if coreExists s.pick.core && s.inService (coreDie s.pick.core) then sendScale s s.pick.core (BitVec.ofNat 16 s.pick.num) p else s)
    | none => .next s
  else if !s.inService d then .next s
  else match s.pick.scale with
  | none => .next s
  | some (.send _ t core ring data) =>
    if !coreExists core || s.tenantOf core != t || 16384 < data.length then .next s
    else .next (sendHome s t d (coreDie core) (.delivery core ring (good data)) [] false)
  | some (.write _ t addr data) =>
    (match foreignPage s t (va57 addr) data.length with
     | some (l, p) => if l.frz || !l.wr then .next s else .next (foreignWrite s t (va57 addr) p l data)
     | none => .next s)
  | some (.atomic _ t addr op wide x) =>
    let n := if wide then 8 else 4
    (match foreignPage s t (va57 addr) n with
     | some (l, p) =>
       if l.frz || !l.wr || !l.rd || va57 addr % n != 0 then .next s
       else
         let old := bytesNat ((flatBytes s p n).map (·.1))
         .next (foreignWrite s t (va57 addr) p l (natBytes n (aopResult op n old (lowBits n x))) .atomic)
     | none => .next s)
  | some (.tillAdd _ t id n) => .next (addToTill s t id n)

/-! ## Attestation (R379) -/

/-- A response leaves. Data object exchange is on the physical function only: a request to another one, which the pick names, has
no answer (R379, R432), and none comes from a module that has been removed (R439). Firmware images have been verified before they run, which is before reset ends (log 54). -/
def respond (s : State) (r : SpdmReply) : State := if s.pick.tenant = 0 ∧ s.removed = false then { s with spdmOut := s.spdmOut ++ [r] } else s

/-- The digest of the certificate chain in slot 0. -/
def chainDigest : BitVec 384 := Config.sha384 Config.certificate

/-- The limits of a tenant: of each kind, that of tills in each sector. -/
def limitsOf (ts : TenantState) (t : Tenant) : List Nat :=
  (List.range 9).flatMap (fun k =>
    if k = 4 then (List.range 8).map (fun d => ts.limit t 4 (BitVec.ofNat 3 d)) else [ts.limit t k 0])

/-- A list with its length before it, so that what follows another list is never read as its end. -/
def counted (l : List Nat) : List Nat := l.length :: l

/-- The numbers of measurement 4, in tenant order: clusters, limits, purses and key slots, then the slots that are not
assigned. -/
def assignmentNumbers (s : State) : List Nat :=
  (List.range 65).flatMap (fun n =>
    let t : Tenant := BitVec.ofNat 7 n
    let ts := s.tenantSt t
    let purses (m : Sparse Purse) : List Nat := m.flatMap (fun e => [e.1, e.2.rate, e.2.depth])
    [n] ++ counted ((s.clusters.filter (fun e => e.2.tenant == t && n != 0)).map (·.1))
      ++ counted (limitsOf ts t) ++ counted (purses ts.mem) ++ counted (purses ts.fab)
      ++ counted ((s.keyOwner.filter (fun e => e.2 == t)).map (·.1)))
    ++ [127] ++ counted ((s.keyOwner.filter (fun e => e.2 == 127)).map (·.1))

/-- The digest of a measurement. -/
def measurement (s : State) (i : Nat) : BitVec 384 :=
  Config.sha384 (if i = 4 then Config.measurementTable (assignmentNumbers s)
    else if i = 5 then Config.measurementTable [s.svc.toNat] ++ Config.measurementBlock 5
    else Config.measurementBlock i)

/-- GET_VERSION (R379). -/
def execGetVersion (s : State) : Host.Outcome State Fault Refusal := .next (respond s .version)

/-- GET_CAPABILITIES (R379). -/
def execGetCapabilities (s : State) : Host.Outcome State Fault Refusal := .next (respond s .capabilities)

/-- NEGOTIATE_ALGORITHMS (R379). -/
def execNegotiateAlgorithms (s : State) : Host.Outcome State Fault Refusal := .next (respond s .algorithms)

/-- GET_DIGESTS (R379). -/
def execGetDigests (s : State) : Host.Outcome State Fault Refusal := .next (respond s (.digests chainDigest))

/-- GET_CERTIFICATE (R379). -/
def execGetCertificate (s : State) : Host.Outcome State Fault Refusal := .next (respond s (.certificate Config.certificate))

/-- CHALLENGE (R379): a signature with the identity key over the request and the chain's digest. -/
def execChallenge (s : State) : Host.Outcome State Fault Refusal :=
  .next (respond s (.challengeAuth chainDigest (Config.ecdsaSign (s.pick.bytes ++ natBytes 48 chainDigest.toNat))))

/-- GET_MEASUREMENTS (R379): the picked index, or all five, signed with the request. -/
def execGetMeasurements (s : State) : Host.Outcome State Fault Refusal :=
  let ids := if 1 ≤ s.pick.num ∧ s.pick.num ≤ 5 then [s.pick.num] else [1, 2, 3, 4, 5]
  let vs := ids.map (fun i => (i, measurement s i))
  .next (respond s (.measurements vs (Config.ecdsaSign (s.pick.bytes ++ vs.flatMap (fun v => natBytes 48 v.2.toNat)))))

/-! ## Service level, clocks and reset (R438, R439, R444) -/

/-- SERVICE_LEVEL_CHANGE (R438): the level rises to the picked one; it never falls except at reset. -/
def execServiceLevelChange (s : State) : Host.Outcome State Fault Refusal :=
  if s.svc.toNat < s.pick.num ∧ s.pick.num ≤ 3 then .next { s with svc := BitVec.ofNat 2 s.pick.num } else .next s

/-- One sixteenth lower, down to eight. -/
def lowerRate (x : DieState) (n now : Nat) : DieState := { x with rate := max 8 (x.rate - n), rateAt := now }

/-- SUPPLY_SAG (R439): what happens to the supply or the temperature of the picked die. A sag of 2 % stretches a period, and
each further 1 % holds the clock one sixteenth lower; a hot die steps down, and one that is hot at eight sixteenths stops
the module. -/
def execSupplySag (s : State) : Host.Outcome State Fault Refusal :=
  let d := s.pick.die
  let x := s.die d
  match s.pick.power with
  | .sag p =>
    if p < 2 then .next s
    else .next (s.setDie d { x with supplyGood := false, stretch := true, rate := min x.rate (max 8 (16 - (p - 2))), rateAt := s.time })
  | .supplyGood => .next (s.setDie d { x with supplyGood := true, rateAt := s.time })
  | .hot =>
    if x.hot ∧ x.rate ≤ 8 then .next { (s.setDie d x) with removed := true }
    else .next (s.setDie d { (lowerRate x 1 s.time) with hot := true })
  | .cool => .next (s.setDie d { x with hot := false, rateAt := s.time })

/-- CLOCK_RECOVER (R439): the picked die climbs one sixteenth for 65,536 ns within 2 % of the supply. -/
def execClockRecover (s : State) : Host.Outcome State Fault Refusal :=
  let d := s.pick.die
  let x := s.die d
  if x.supplyGood && !x.hot && decide (x.rate < 16) && decide (x.rateAt + 65536 ≤ s.time) then
    .next (s.setDie d { x with rate := x.rate + 1, rateAt := s.time })
  else .next s

/-- RESET (R444): the machine is as right after reset. The host's memory and what the agenda names are not the module's. -/
def execReset (s : State) : Host.Outcome State Fault Refusal :=
  .next { State.reset with agenda := s.agenda, hostMem := s.hostMem }

end Sys2Proof.Machine
end

