-- ==== Sys2Proof/Machine/Module.lean ====
section
/-! DEFINITION. The image loader (R38, R82 to R88, R360, R427): the file format, relocation, and the placing of the
sections. A request is loaded whole or not at all. -/

namespace Sys2Proof.Machine

/-! ## The file (R82 to R85) -/

/-- A section, symbol or relocation entry as it stands in the file. -/
structure ImgSection where
  kind : Nat
  off  : Nat
  size : Nat

structure ImgSymbol where
  name  : List Byte
  sect  : Nat
  flags : Nat
  value : Word

structure ImgReloc where
  kind  : Nat
  sect  : Nat
  sym   : Nat
  place : Nat
  addend : Word

structure Image where
  sections : List ImgSection
  symbols  : List ImgSymbol
  relocs   : List ImgReloc

/-- What loading fails with: the code, and the index of the offending entry. -/
abbrev LoadFault := LoadCode × Nat

/-- The little-endian number of n bytes of a file from an offset. -/
def fieldAt (bs : List Byte) (off n : Nat) : Nat := bytesNat ((bs.drop off).take n)

/-- Bytes that must be zero. -/
def zeroAt (bs : List Byte) (off n : Nat) : Bool := fieldAt bs off n == 0

/-- A part of the file: it starts at a multiple of 8 and lies within the file. -/
def partOk (bs : List Byte) (off n : Nat) : Bool := off % 8 == 0 && decide (off + n ≤ bs.length)

/-- Two parts have no byte in common. -/
def apart (a b : Nat × Nat) : Bool := a.2 == 0 || b.2 == 0 || decide (a.1 + a.2 ≤ b.1) || decide (b.1 + b.2 ≤ a.1)

/-- The offsets and counts of the header (R82). -/
def hdrSec (bs : List Byte) : Nat × Nat := (fieldAt bs 24 8, fieldAt bs 8 4)
def hdrSym (bs : List Byte) : Nat × Nat := (fieldAt bs 32 8, fieldAt bs 12 4)
def hdrRel (bs : List Byte) : Nat × Nat := (fieldAt bs 40 8, fieldAt bs 16 4)
def hdrStr (bs : List Byte) : Nat × Nat := (fieldAt bs 48 8, fieldAt bs 20 4)

/-- The header and its four tables. What R87's table does not name of them is ELOAD_FORMAT (DESIGN CHOICE, log 57). -/
def headerOk (bs : List Byte) : Bool :=
  let tables : List (Nat × Nat) :=
    [(0, 64), ((hdrSec bs).1, 32 * (hdrSec bs).2), ((hdrSym bs).1, 24 * (hdrSym bs).2), ((hdrRel bs).1, 24 * (hdrRel bs).2), hdrStr bs]
  decide (64 ≤ bs.length) && fieldAt bs 0 4 == 0x1A58564D && fieldAt bs 4 2 == 1 && zeroAt bs 6 2 && zeroAt bs 56 8
    && decide (1 ≤ (hdrSec bs).2) && decide ((hdrSec bs).2 ≤ 4)
    && tables.all (fun t => partOk bs t.1 t.2) && decide (tables.Pairwise (fun a b => apart a b = true))

/-- The ranges that no section may overlap. -/
def tableParts (bs : List Byte) : List (Nat × Nat) :=
  [(0, 64), ((hdrSec bs).1, 32 * (hdrSec bs).2), ((hdrSym bs).1, 24 * (hdrSym bs).2), ((hdrRel bs).1, 24 * (hdrRel bs).2), hdrStr bs]

/-- Section entry i (R83), after the sections before it. -/
def readSection (bs : List Byte) (before : List ImgSection) (i : Nat) : Except LoadFault ImgSection :=
  let o := (hdrSec bs).1 + 32 * i
  let x : ImgSection := { kind := fieldAt bs o 1, off := fieldAt bs (o + 8) 8, size := fieldAt bs (o + 16) 8 }
  if !zeroAt bs (o + 1) 7 || !zeroAt bs (o + 24) 8 then .error (.format, i)
  else if x.kind = 0 ∨ 4 < x.kind then .error (.kind, i)
  else if before.any (fun y => y.kind == x.kind) || !partOk bs x.off x.size || (x.kind == 1 && x.size % 16 != 0)
      || !(tableParts bs ++ before.map (fun y => (y.off, y.size))).all (apart (x.off, x.size)) then .error (.format, i)
  else .ok x

/-- Symbol entry i (R84). One that names a section of kind 1 to 4 which its own image does not hold is ELOAD_FORMAT, and
its size, and its value against its section, are not checked (DESIGN CHOICE, log 57). -/
def readSymbol (bs : List Byte) (secs : List ImgSection) (i : Nat) : Except LoadFault ImgSymbol :=
  let o := (hdrSym bs).1 + 24 * i
  let str := (bs.drop (hdrStr bs).1).take (hdrStr bs).2
  let n := fieldAt bs o 4
  let x : ImgSymbol := { name := (str.drop n).takeWhile (· != 0), sect := fieldAt bs (o + 4) 1, flags := fieldAt bs (o + 5) 1
                         value := wordAt bs (o + 8) }
  let known := x.sect == 0 || x.sect == 255 || secs.any (fun y => y.kind == x.sect)
  if !zeroAt bs (o + 6) 2 || decide (8 ≤ x.flags) || !(str.drop n).contains 0 then .error (.format, i)
  else if 4 < x.sect ∧ x.sect ≠ 255 then .error (.kind, i)
  else if !known then .error (.format, i)
  else .ok x

/-- Relocation entry i (R85). -/
def readReloc (bs : List Byte) (i : Nat) : ImgReloc :=
  let o := (hdrRel bs).1 + 24 * i
  { kind := fieldAt bs o 1, sect := fieldAt bs (o + 2) 1, sym := fieldAt bs (o + 4) 4, place := fieldAt bs (o + 8) 8
    addend := wordAt bs (o + 16) }

/-- The sections of a file, in order. -/
def readSections (bs : List Byte) : List Nat → List ImgSection → Except LoadFault (List ImgSection)
  | [], acc => .ok acc
  | i :: is, acc => match readSection bs acc i with
    | .error e => .error e
    | .ok x => readSections bs is (acc ++ [x])

/-- An image file as it is read (R82 to R85). A header that fails has no entry: its index is 0 (DESIGN CHOICE, log 57). -/
def readImage (bs : List Byte) : Except LoadFault Image :=
  if !headerOk bs then .error (.format, 0)
  else match readSections bs (List.range (hdrSec bs).2) [] with
    | .error e => .error e
    | .ok secs => match (List.range (hdrSym bs).2).mapM (readSymbol bs secs) with
      | .error e => .error e
      | .ok syms => .ok { sections := secs, symbols := syms, relocs := (List.range (hdrRel bs).2).map (readReloc bs) }

/-! ## Symbols and relocation (R86, R87) -/

/-- A symbol that other images may name. -/
def ImgSymbol.isGlobal (x : ImgSymbol) : Bool := x.flags % 2 == 1 && x.sect != 255

/-- The loaded address of a section of an image. -/
def sectionBase (u : LoadImage) (kind : Nat) : Word := u.base.getD (kind - 1) 0

/-- The loaded value of a symbol that is not external. -/
def symValue (u : LoadImage) (x : ImgSymbol) : Word := if x.sect = 0 then x.value else sectionBase u x.sect + x.value

/-- The global symbols of a request. -/
def globals (us : List (LoadImage × Image)) : List (List Byte × Word) :=
  us.flatMap (fun u => (u.2.symbols.filter ImgSymbol.isGlobal).map (fun x => (x.name, symValue u.1 x)))

/-- The loaded value of a symbol: an external one is looked for in every image of the request, its own included (R87, DESIGN CHOICE,
log 57). -/
def resolve (gs : List (List Byte × Word)) (u : LoadImage) (x : ImgSymbol) : Option Word :=
  if x.sect = 255 then (gs.find? (fun g => g.1 == x.name)).map (·.2) else some (symValue u x)

/-- The first symbol that is global twice, or external and nowhere defined. -/
def symbolFault (us : List (LoadImage × Image)) : Option LoadFault :=
  let gs := globals us
  let bad (x : ImgSymbol) : Bool :=
    (x.isGlobal && decide (1 < (gs.filter (fun g => g.1 == x.name)).length))
      || (x.sect == 255 && !gs.any (fun g => g.1 == x.name))
  us.findSome? (fun u => (u.2.symbols.findIdx? bad).map (fun i => (.symbol, i)))

/-- The format of a word by its OP: I, M and B words hold relocated fields. -/
def opFormat (op : Nat) : Char :=
  if op ∈ [0x07, 0x11, 0x16, 0x18] then 'I'
  else if op ∈ [0x1A, 0x60, 0x61, 0x62, 0x63, 0x64, 0x67, 0x68, 0x90, 0x91, 0x92, 0x93, 0x94, 0x95, 0x96] then 'M'
  else if op ∈ [0x01, 0x02, 0x04, 0x05, 0x06] then 'B' else '-'

/-- The field of a kind in a word: its low bit, its width and the format of the word. -/
def relocField (kind : Nat) : Nat × Nat × Char :=
  match kind with
  | 2 => (50, 40, 'B')
  | 3 => (59, 64, 'I')
  | 4 => (67, 32, 'M')
  | _ => (90, 16, 'B')

/-- A value fits the signed field of w bits. -/
def fitsSigned (w : Nat) (x : Int) : Bool := decide (-(2 : Int) ^ (w - 1) ≤ x) && decide (x ≤ (2 : Int) ^ (w - 1) - 1)

/-- One relocation applied to the contents of its section, after the checks of what stands in the file (R86, R87). The order of the
checks of one entry, and the codes of what the table does not name, are the model's (DESIGN CHOICE, log 57). -/
def relocate (gs : List (List Byte × Word)) (u : LoadImage) (img : Image) (i : Nat) (r : ImgReloc) (reserved : Bool)
    (file data : List Byte) : Except LoadFault (List Byte) :=
  match img.symbols[r.sym]? with
  | none => .error (.format, i)
  | some sym =>
    let len := if r.kind = 1 then 8 else 16
    if reserved then .error (.format, i)
    else if r.kind = 0 ∨ 5 < r.kind ∨ r.sect = 0 ∨ 4 < r.sect then .error (.kind, i)
    else if r.kind ≠ 1 ∧ r.sect ≠ 1 then .error (.kind, i)
    else if data.length < r.place + len then .error (.format, i)
    else match resolve gs u sym with
      | none => .error (.symbol, i)
      | some sv =>
        let v := sv + r.addend
        let old := fieldAt file r.place len
        let put (x : Nat) : List Byte := data.take r.place ++ natBytes len x ++ data.drop (r.place + len)
        if r.kind = 1 then (if old = 0 then .ok (put v.toNat) else .error (.format, i))
        else
          let (lo, w, f) := relocField r.kind
          let dist := (v - (sectionBase u 1 + BitVec.ofNat 64 r.place)).toInt
          if r.place % 16 ≠ 0 then .error (.align, i)
          else if opFormat (old % 256) ≠ f then .error (.kind, i)
          else if old / 2 ^ lo % 2 ^ w ≠ 0 then .error (.format, i)
          else if r.kind = 2 ∧ dist % 16 ≠ 0 then .error (.align, i)
          else if (r.kind = 2 ∧ !fitsSigned 40 (dist / 16)) ∨ (r.kind = 4 ∧ !fitsSigned 32 v.toInt)
              ∨ (r.kind = 5 ∧ 65535 < v.toNat) then .error (.range, i)
          else
            let x := if r.kind = 2 then (BitVec.ofInt 40 (dist / 16)).toNat else v.toNat % 2 ^ w
            let cur := fieldAt data r.place len
            .ok (put (cur - cur / 2 ^ lo % 2 ^ w * 2 ^ lo + x * 2 ^ lo))

/-- The contents of an image's sections, by kind. -/
abbrev Contents := List (Nat × List Byte)

/-- The relocations of an image in file order, over the contents that stand in the file. -/
def relocateAll (bs : List Byte) (gs : List (List Byte × Word)) (u : LoadImage) (img : Image) (file : Contents) :
    List (ImgReloc × Nat) → Contents → Except LoadFault Contents
  | [], cs => .ok cs
  | (r, i) :: rs, cs =>
    let o := (hdrRel bs).1 + 24 * i
    let reserved := !zeroAt bs (o + 1) 1 || !zeroAt bs (o + 3) 1
    let of (x : Contents) : List Byte := ((x.find? (fun c => c.1 == r.sect)).map (·.2)).getD []
    match relocate gs u img i r reserved (of file) (of cs) with
    | .error e => .error e
    | .ok d => relocateAll bs gs u img file rs (cs.map (fun c => if c.1 = r.sect then (c.1, d) else c))

/-- The relocated contents of an image. -/
def contentsOf (gs : List (List Byte × Word)) (u : LoadImage × Image) : Except LoadFault Contents :=
  let file : Contents := u.2.sections.map (fun x => (x.kind, (u.1.bytes.drop x.off).take x.size))
  relocateAll u.1.bytes gs u.1 u.2 file u.2.relocs.zipIdx file

/-- Every image of a request read and relocated: headers, sections and symbols of all images come before any relocation (DESIGN
CHOICE, log 57). -/
def relocateRequest (r : LoadRequest) : Except LoadFault (List (LoadImage × Contents)) :=
  match r.images.mapM (fun u => (readImage u.bytes).map (fun i => (u, i))) with
  | .error e => .error e
  | .ok us => match symbolFault us with
    | some e => .error e
    | none => us.mapM (fun u => (contentsOf (globals us) u).map (fun c => (u.1, c)))

/-! ## Placing (R38, R88, R360, R427) -/

/-- The pages of a section: the number of its first page, and the bytes of each. The loader makes pages of 64 KiB (R38, DESIGN CHOICE,
log 62). -/
def sectionPages (u : LoadImage) (kind : Nat) (data : List Byte) : List (Nat × List Byte) :=
  (List.range ((data.length + 65535) / 65536)).map (fun i =>
    (va57 (sectionBase u kind) / 65536 + i, (data.drop (65536 * i)).take 65536))

/-- The leaf entry of a page of a section. The key slot is the lowest that the tenant holds (log 5). -/
def sectionLeaf (kind : Nat) (key : BitVec 12) : Leaf :=
  { key := key, rd := true, wr := kind == 2, ex := kind == 1, frz := kind == 4 }

/-- One page is placed in a frame of its sector, or left to its first fault; none for lack of a frame. -/
def placePage (s : State) (t : Tenant) (d : Die) (l : Leaf) (deferred : Bool) (key : Nat) (data : List Byte) : Option State :=
  if deferred then
    let l := { l with frame := frameField d 0 }
    let s := setLeaf s t key (some l)
    let ts := s.tenantSt t
    some (s.setTenantSt t { ts with deferred := sparsePut ts.deferred key { leaf := l, data := data } })
  else match takeFrames (s.sector d) 1 with
    | none => none
    | some (f, k) =>
      let s := setLeaf (clearStack (s.setSector d k) (frameBase d f) 65536) t key (some { l with p := true, frame := frameField d f })
      some (placeBytes s (frameBase d f) data)

/-- The sections of a request in order: image, section kind and contents, with the index of the section. -/
def allSections (us : List (LoadImage × Contents)) : List (LoadImage × Nat × List Byte × Nat) :=
  us.flatMap (fun u => u.2.zipIdx.map (fun c => (u.1, c.1.1, c.1.2, c.2)))

/-- Places every section, or fails with ELOAD_SPACE. -/
def placeAll (t : Tenant) (key : BitVec 12) : List (LoadImage × Nat × List Byte × Nat) → State → Except LoadFault State
  | [], s => .ok s
  | (u, kind, data, i) :: rest, s =>
    let d : Die := u.sector.getD (kind - 1) 0
    let put (s : Option State) (p : Nat × List Byte) : Option State :=
      s.bind (fun s => placePage s t d (sectionLeaf kind key) (u.deferred.contains kind) p.1 p.2)
    match (sectionPages u kind data).foldl put (some s) with
    | some s => placeAll t key rest s
    | none => .error (.space, i)

/-- The kernel's addresses can be used: page aligned, canonical, none of local memory (R21), and no page of the request or of the
tenant twice. -/
def basesOk (s : State) (r : LoadRequest) (us : List (LoadImage × Contents)) : Bool :=
  let pages := (allSections us).flatMap (fun e => (sectionPages e.1 e.2.1 e.2.2.1).map (·.1))
  (allSections us).all (fun e => canonical (sectionBase e.1 e.2.1) && !isLocal (sectionBase e.1 e.2.1) && (sectionBase e.1 e.2.1).extractLsb' 0 16 == 0)
    && decide pages.Nodup && pages.all (fun p => !mapped (s.tenantSt r.tenant) p 1)

/-- Copies of the instruction words of a page range in buffers and caches end (R88). -/
def dropCode (s : State) (t : Tenant) (pages : List Nat) : State :=
  let hit (a : Nat) : Bool := pages.contains (a / 65536)
  let ctx (c : Ctx) : Ctx := match c.fline with
    | some (a, _) => if hit (va57 a) then { c with fline := none } else c
    | none => c
  { s with
    clusters := s.clusters.map (fun (e : Nat × Cluster) => if e.2.tenant == t then
      (e.1, { e.2 with icache := e.2.icache.filter (fun a => !hit (va57 a)) }) else e)
    cores := s.cores.map (fun (e : Nat × Core) => if s.tenantOf (BitVec.ofNat 16 e.1) == t then
      (e.1, { e.2 with ctxs := e.2.ctxs.map (fun (c : Nat × Ctx) => (c.1, ctx c.2)), ibuf := e.2.ibuf.filter (fun a => !hit (a % 2 ^ 57)) }) else e) }

/-- An entry of a slice holds bytes of some pages of a tenant: a flat entry or its copy, or a tile. -/
def entryOfPages (s : State) (t : Tenant) (pages : List Nat) (e : SliceEntry) : Bool :=
  tagTenant e.tag == t && (if tagFlat e.tag then pages.contains ((e.tag.extractLsb' 0 56).toNat / 128)
    else match s.desc t (tagTid e.tag) with
      | some d => (d.runs (tagTile e.tag)).any (fun r => pages.any (fun p =>
          decide (r.2.1 % 2 ^ 57 < 65536 * (p + 1)) && decide (65536 * p < r.2.1 % 2 ^ 57 + r.2.2)))
      | none => false)

/-- No slice entry, L1 line or constant copy holds bytes of the pages that a load is about to place (R88). -/
def dropSlices (s : State) (t : Tenant) (pages : List Nat) : State :=
  let s := (s.clusters.flatMap (fun c => (c.2.slice.filter (entryOfPages s t pages)).map (fun e => (c.1, e)))).foldl
    (fun s e => evictEntry s (BitVec.ofNat 13 e.1) e.2) s
  let hit (line : Nat) : Bool := pages.contains (line / 1024)
  { s with
    clusters := s.clusters.map (fun e => if e.2.tenant == t then
      (e.1, { e.2 with constCopies := e.2.constCopies.filter (fun x => !hit x) }) else e)
    cores := s.cores.map (fun e => if e.2.l1.any (fun x => hit x.1) && s.tenantOf (BitVec.ofNat 16 e.1) == t then
      (e.1, { e.2 with l1 := e.2.l1.filter (fun x => !hit x.1) }) else e) }

/-- A request loaded whole, or its fault; none when the kernel's addresses cannot be used. -/
def loadRequest (s : State) (r : LoadRequest) : Option (Except LoadFault State) :=
  match relocateRequest r with
  | .error e => some (.error e)
  | .ok us =>
    if !basesOk s r us then none
    else
      let pages := (allSections us).flatMap (fun e => (sectionPages e.1 e.2.1 e.2.2.1).map (·.1))
      some ((placeAll r.tenant (lowestKey s r.tenant) (allSections us) (dropSlices s r.tenant pages)).map
        (fun s => dropCode s r.tenant pages))

/-- IMAGE_LOAD (R87, R88): the picked request is loaded whole, or nothing is and its code is reported. -/
def execImageLoad (s : State) : Host.Outcome State Fault Refusal :=
  match s.pick.load with
  | none => .next s
  | some r => match loadRequest s r with
    | none => .next s
    | some (.ok t) => .next { t with loads := s.loads ++ [(.ok, 0)] }
    | some (.error e) => .next { s with loads := s.loads ++ [e] }

end Sys2Proof.Machine
end

