-- ==== Sys2Proof/Machine/Dispatch.lean ====
section
/-! DEFINITION. The dispatch: one arm for each constructor of Instr, each one direct call of its meaning. -/

namespace Sys2Proof.Machine

def exec (i : Instr) (s : State) : Host.Outcome State Fault Refusal :=
  match i with
  | .nop h => Sys2Proof.Machine.execNop h s
  | .br h off => Sys2Proof.Machine.execBr h off s
  | .brl h off => Sys2Proof.Machine.execBrl h off s
  | .ret h => Sys2Proof.Machine.execRet h s
  | .jt h base b pad bound => Sys2Proof.Machine.execJt h base b pad bound s
  | .land h pad foldable => Sys2Proof.Machine.execLand h pad foldable s
  | .loop h c off => Sys2Proof.Machine.execLoop h c off s
  | .trap h imm => Sys2Proof.Machine.execTrap h imm s
  | .eret h => Sys2Proof.Machine.execEret h s
  | .add h d a b => Sys2Proof.Machine.execAdd h d a b s
  | .sub h d a b => Sys2Proof.Machine.execSub h d a b s
  | .and h d a b => Sys2Proof.Machine.execAnd h d a b s
  | .or h d a b => Sys2Proof.Machine.execOr h d a b s
  | .xor h d a b => Sys2Proof.Machine.execXor h d a b s
  | .andn h d a b => Sys2Proof.Machine.execAndn h d a b s
  | .shl h d a b => Sys2Proof.Machine.execShl h d a b s
  | .shr h d a b => Sys2Proof.Machine.execShr h d a b s
  | .sra h d a b => Sys2Proof.Machine.execSra h d a b s
  | .rol h d a b => Sys2Proof.Machine.execRol h d a b s
  | .min h d a b => Sys2Proof.Machine.execMin h d a b s
  | .max h d a b => Sys2Proof.Machine.execMax h d a b s
  | .minu h d a b => Sys2Proof.Machine.execMinu h d a b s
  | .maxu h d a b => Sys2Proof.Machine.execMaxu h d a b s
  | .addImm h d a imm => Sys2Proof.Machine.execAddImm h d a imm s
  | .subImm h d a imm => Sys2Proof.Machine.execSubImm h d a imm s
  | .andImm h d a imm => Sys2Proof.Machine.execAndImm h d a imm s
  | .orImm h d a imm => Sys2Proof.Machine.execOrImm h d a imm s
  | .xorImm h d a imm => Sys2Proof.Machine.execXorImm h d a imm s
  | .andnImm h d a imm => Sys2Proof.Machine.execAndnImm h d a imm s
  | .shlImm h d a imm => Sys2Proof.Machine.execShlImm h d a imm s
  | .shrImm h d a imm => Sys2Proof.Machine.execShrImm h d a imm s
  | .sraImm h d a imm => Sys2Proof.Machine.execSraImm h d a imm s
  | .rolImm h d a imm => Sys2Proof.Machine.execRolImm h d a imm s
  | .minImm h d a imm => Sys2Proof.Machine.execMinImm h d a imm s
  | .maxImm h d a imm => Sys2Proof.Machine.execMaxImm h d a imm s
  | .minuImm h d a imm => Sys2Proof.Machine.execMinuImm h d a imm s
  | .maxuImm h d a imm => Sys2Proof.Machine.execMaxuImm h d a imm s
  | .mul h d a b => Sys2Proof.Machine.execMul h d a b s
  | .mulh h d a b => Sys2Proof.Machine.execMulh h d a b s
  | .mulhu h d a b => Sys2Proof.Machine.execMulhu h d a b s
  | .div h d a b => Sys2Proof.Machine.execDiv h d a b s
  | .divu h d a b => Sys2Proof.Machine.execDivu h d a b s
  | .rem h d a b => Sys2Proof.Machine.execRem h d a b s
  | .remu h d a b => Sys2Proof.Machine.execRemu h d a b s
  | .clz h d a => Sys2Proof.Machine.execClz h d a s
  | .ctz h d a => Sys2Proof.Machine.execCtz h d a s
  | .popc h d a => Sys2Proof.Machine.execPopc h d a s
  | .sext h d a w => Sys2Proof.Machine.execSext h d a w s
  | .zext h d a w => Sys2Proof.Machine.execZext h d a w s
  | .bext h d a p len => Sys2Proof.Machine.execBext h d a p len s
  | .bins h d a f p len => Sys2Proof.Machine.execBins h d a f p len s
  | .cmpEq h kt kf a b => Sys2Proof.Machine.execCmpEq h kt kf a b s
  | .cmpNe h kt kf a b => Sys2Proof.Machine.execCmpNe h kt kf a b s
  | .cmpLt h kt kf a b => Sys2Proof.Machine.execCmpLt h kt kf a b s
  | .cmpGe h kt kf a b => Sys2Proof.Machine.execCmpGe h kt kf a b s
  | .cmpLtu h kt kf a b => Sys2Proof.Machine.execCmpLtu h kt kf a b s
  | .cmpGeu h kt kf a b => Sys2Proof.Machine.execCmpGeu h kt kf a b s
  | .cmpEqImm h kt kf a imm => Sys2Proof.Machine.execCmpEqImm h kt kf a imm s
  | .cmpNeImm h kt kf a imm => Sys2Proof.Machine.execCmpNeImm h kt kf a imm s
  | .cmpLtImm h kt kf a imm => Sys2Proof.Machine.execCmpLtImm h kt kf a imm s
  | .cmpGeImm h kt kf a imm => Sys2Proof.Machine.execCmpGeImm h kt kf a imm s
  | .cmpLtuImm h kt kf a imm => Sys2Proof.Machine.execCmpLtuImm h kt kf a imm s
  | .cmpGeuImm h kt kf a imm => Sys2Proof.Machine.execCmpGeuImm h kt kf a imm s
  | .sel h d k a b => Sys2Proof.Machine.execSel h d k a b s
  | .plogAnd h d a b => Sys2Proof.Machine.execPlogAnd h d a b s
  | .plogOr h d a b => Sys2Proof.Machine.execPlogOr h d a b s
  | .plogXor h d a b => Sys2Proof.Machine.execPlogXor h d a b s
  | .plogAndn h d a b => Sys2Proof.Machine.execPlogAndn h d a b s
  | .movi h d imm => Sys2Proof.Machine.execMovi h d imm s
  | .mov h ops => Sys2Proof.Machine.execMov h ops s
  | .lea h d ea => Sys2Proof.Machine.execLea h d ea s
  | .gaddr h d e o => Sys2Proof.Machine.execGaddr h d e o s
  | .dtset h e x => Sys2Proof.Machine.execDtset h e x s
  | .fadd h r a b d => Sys2Proof.Machine.execFadd h r a b d s
  | .fsub h r a b d => Sys2Proof.Machine.execFsub h r a b d s
  | .fmul h r a b d => Sys2Proof.Machine.execFmul h r a b d s
  | .fdiv h r a b d => Sys2Proof.Machine.execFdiv h r a b d s
  | .fmin h r a b d => Sys2Proof.Machine.execFmin h r a b d s
  | .fmax h r a b d => Sys2Proof.Machine.execFmax h r a b d s
  | .fsqrt h r a d => Sys2Proof.Machine.execFsqrt h r a d s
  | .fma h r a b c d => Sys2Proof.Machine.execFma h r a b c d s
  | .fms h r a b c d => Sys2Proof.Machine.execFms h r a b c d s
  | .fnma h r a b c d => Sys2Proof.Machine.execFnma h r a b c d s
  | .fcmpEq h kt kf a b d => Sys2Proof.Machine.execFcmpEq h kt kf a b d s
  | .fcmpNe h kt kf a b d => Sys2Proof.Machine.execFcmpNe h kt kf a b d s
  | .fcmpLt h kt kf a b d => Sys2Proof.Machine.execFcmpLt h kt kf a b d s
  | .fcmpGe h kt kf a b d => Sys2Proof.Machine.execFcmpGe h kt kf a b d s
  | .fcmpUn h kt kf a b d => Sys2Proof.Machine.execFcmpUn h kt kf a b d s
  | .fcvt h r a src dst rnd => Sys2Proof.Machine.execFcvt h r a src dst rnd s
  | .fclass h r a d => Sys2Proof.Machine.execFclass h r a d s
  | .vadd h d a b => Sys2Proof.Machine.execVadd h d a b s
  | .vsub h d a b => Sys2Proof.Machine.execVsub h d a b s
  | .vmul h d a b => Sys2Proof.Machine.execVmul h d a b s
  | .vmin h d a b => Sys2Proof.Machine.execVmin h d a b s
  | .vmax h d a b => Sys2Proof.Machine.execVmax h d a b s
  | .vand h d a b => Sys2Proof.Machine.execVand h d a b s
  | .vor h d a b => Sys2Proof.Machine.execVor h d a b s
  | .vxor h d a b => Sys2Proof.Machine.execVxor h d a b s
  | .vandn h d a b => Sys2Proof.Machine.execVandn h d a b s
  | .vshl h d a b => Sys2Proof.Machine.execVshl h d a b s
  | .vshr h d a b => Sys2Proof.Machine.execVshr h d a b s
  | .vsra h d a b => Sys2Proof.Machine.execVsra h d a b s
  | .vfma h d a b c => Sys2Proof.Machine.execVfma h d a b c s
  | .vfms h d a b c => Sys2Proof.Machine.execVfms h d a b c s
  | .vfnma h d a b c => Sys2Proof.Machine.execVfnma h d a b c s
  | .vcmpEq h d a b => Sys2Proof.Machine.execVcmpEq h d a b s
  | .vcmpNe h d a b => Sys2Proof.Machine.execVcmpNe h d a b s
  | .vcmpLt h d a b => Sys2Proof.Machine.execVcmpLt h d a b s
  | .vcmpGe h d a b => Sys2Proof.Machine.execVcmpGe h d a b s
  | .vcmpLtu h d a b => Sys2Proof.Machine.execVcmpLtu h d a b s
  | .vcmpGeu h d a b => Sys2Proof.Machine.execVcmpGeu h d a b s
  | .vcmpUn h d a b => Sys2Proof.Machine.execVcmpUn h d a b s
  | .vsel h d k a b => Sys2Proof.Machine.execVsel h d k a b s
  | .vabs h d a => Sys2Proof.Machine.execVabs h d a s
  | .vneg h d a => Sys2Proof.Machine.execVneg h d a s
  | .vdot h d a b seg => Sys2Proof.Machine.execVdot h d a b seg s
  | .vsum h d a seg => Sys2Proof.Machine.execVsum h d a seg s
  | .vcvt h d a t sb ctl => Sys2Proof.Machine.execVcvt h d a t sb ctl s
  | .vtag h d a t => Sys2Proof.Machine.execVtag h d a t s
  | .vgtag h d a => Sys2Proof.Machine.execVgtag h d a s
  | .vsplat h d a t => Sys2Proof.Machine.execVsplat h d a t s
  | .vext h d a l => Sys2Proof.Machine.execVext h d a l s
  | .vins h d a x l => Sys2Proof.Machine.execVins h d a x l s
  | .vperm h d a b => Sys2Proof.Machine.execVperm h d a b s
  | .vpack h d a b t => Sys2Proof.Machine.execVpack h d a b t s
  | .vunpkLo h d a t => Sys2Proof.Machine.execVunpkLo h d a t s
  | .vunpkHi h d a t => Sys2Proof.Machine.execVunpkHi h d a t s
  | .vsfnExp2 h d a => Sys2Proof.Machine.execVsfnExp2 h d a s
  | .vsfnLog2 h d a => Sys2Proof.Machine.execVsfnLog2 h d a s
  | .vsfnRcp h d a => Sys2Proof.Machine.execVsfnRcp h d a s
  | .vsfnRsqrt h d a => Sys2Proof.Machine.execVsfnRsqrt h d a s
  | .vsfnTanh h d a => Sys2Proof.Machine.execVsfnTanh h d a s
  | .vsfnSigm h d a => Sys2Proof.Machine.execVsfnSigm h d a s
  | .vsfnSilu h d a => Sys2Proof.Machine.execVsfnSilu h d a s
  | .vsfnErf h d a => Sys2Proof.Machine.execVsfnErf h d a s
  | .mzero h m => Sys2Proof.Machine.execMzero h m s
  | .mma h m a b ring gate shape => Sys2Proof.Machine.execMma h m a b ring gate shape s
  | .mload h m a => Sys2Proof.Machine.execMload h m a s
  | .mstore h a m => Sys2Proof.Machine.execMstore h a m s
  | .mcvt h m t ring => Sys2Proof.Machine.execMcvt h m t ring s
  | .mmvGet h d m p => Sys2Proof.Machine.execMmvGet h d m p s
  | .mmvPut h m a p => Sys2Proof.Machine.execMmvPut h m a p s
  | .mwait h m => Sys2Proof.Machine.execMwait h m s
  | .gemv h a n res tid ring bf16 mem => Sys2Proof.Machine.execGemv h a n res tid ring bf16 mem s
  | .mspill h a => Sys2Proof.Machine.execMspill h a s
  | .mrest h a => Sys2Proof.Machine.execMrest h a s
  | .ld h d ea sz => Sys2Proof.Machine.execLd h d ea sz s
  | .ldSx h d ea sz => Sys2Proof.Machine.execLdSx h d ea sz s
  | .st h x ea sz => Sys2Proof.Machine.execSt h x ea sz s
  | .ldv h d ea sz => Sys2Proof.Machine.execLdv h d ea sz s
  | .stv h x ea sz => Sys2Proof.Machine.execStv h x ea sz s
  | .ldc h d ea sz => Sys2Proof.Machine.execLdc h d ea sz s
  | .ldcSx h d ea sz => Sys2Proof.Machine.execLdcSx h d ea sz s
  | .ldt h d n o tid t => Sys2Proof.Machine.execLdt h d n o tid t s
  | .stt h n o x tid => Sys2Proof.Machine.execStt h n o x tid s
  | .pref h ea => Sys2Proof.Machine.execPref h ea s
  | .prefi h ea sz => Sys2Proof.Machine.execPrefi h ea sz s
  | .rdef h base lg n ring => Sys2Proof.Machine.execRdef h base lg n ring s
  | .racq h d ring => Sys2Proof.Machine.execRacq h d ring s
  | .racqFree h d ring => Sys2Proof.Machine.execRacqFree h d ring s
  | .rrel h a ring => Sys2Proof.Machine.execRrel h a ring s
  | .rres h ring => Sys2Proof.Machine.execRres h ring s
  | .rpub h a ring => Sys2Proof.Machine.execRpub h a ring s
  | .send h a c n ring => Sys2Proof.Machine.execSend h a c n ring s
  | .cpy h a => Sys2Proof.Machine.execCpy h a s
  | .seal h d => Sys2Proof.Machine.execSeal h d s
  | .bwait h n => Sys2Proof.Machine.execBwait h n s
  | .tsub h f n tid ring => Sys2Proof.Machine.execTsub h f n tid ring s
  | .tdrain h f n tid ring => Sys2Proof.Machine.execTdrain h f n tid ring s
  | .gath h d base tid cnt => Sys2Proof.Machine.execGath h d base tid cnt s
  | .tfind h k n tid => Sys2Proof.Machine.execTfind h k n tid s
  | .tnear h n dims tid => Sys2Proof.Machine.execTnear h n dims tid s
  | .thalo h n die tid => Sys2Proof.Machine.execThalo h n die tid s
  | .tdrop h tid => Sys2Proof.Machine.execTdrop h tid s
  | .tflush h tid => Sys2Proof.Machine.execTflush h tid s
  | .tdef h t a => Sys2Proof.Machine.execTdef h t a s
  | .tget h t a => Sys2Proof.Machine.execTget h t a s
  | .tkill h t => Sys2Proof.Machine.execTkill h t s
  | .amo h d ea sz x op ord scope => Sys2Proof.Machine.execAmo h d ea sz x op ord scope s
  | .red h ea sz x op ord scope => Sys2Proof.Machine.execRed h ea sz x op ord scope s
  | .cas h d ea sz x ord scope => Sys2Proof.Machine.execCas h d ea sz x ord scope s
  | .lda h d ea sz scope => Sys2Proof.Machine.execLda h d ea sz scope s
  | .stl h x ea sz scope => Sys2Proof.Machine.execStl h x ea sz scope s
  | .fence h scope => Sys2Proof.Machine.execFence h scope s
  | .xfence h scope paths => Sys2Proof.Machine.execXfence h scope paths s
  | .tilset h t a => Sys2Proof.Machine.execTilset h t a s
  | .tilget h d t => Sys2Proof.Machine.execTilget h d t s
  | .tilarm h t => Sys2Proof.Machine.execTilarm h t s
  | .start h d p a b => Sys2Proof.Machine.execStart h d p a b s
  | .startTry h d k p a b => Sys2Proof.Machine.execStartTry h d k p a b s
  | .amsg h c p sn => Sys2Proof.Machine.execAmsg h c p sn s
  | .amsgTry h k c p sn => Sys2Proof.Machine.execAmsgTry h k c p sn s
  | .exit h => Sys2Proof.Machine.execExit h s
  | .yield h => Sys2Proof.Machine.execYield h s
  | .wait h d m => Sys2Proof.Machine.execWait h d m s
  | .sig h c b => Sys2Proof.Machine.execSig h c b s
  | .bar h => Sys2Proof.Machine.execBar h s
  | .barX h => Sys2Proof.Machine.execBarX h s
  | .arrive h => Sys2Proof.Machine.execArrive h s
  | .xsend h a ch => Sys2Proof.Machine.execXsend h a ch s
  | .xsel h d ch => Sys2Proof.Machine.execXsel h d ch s
  | .dom h x => Sys2Proof.Machine.execDom h x s
  | .park h ev live => Sys2Proof.Machine.execPark h ev live s
  | .parkTry h k ev live => Sys2Proof.Machine.execParkTry h k ev live s
  | .enq h stg a => Sys2Proof.Machine.execEnq h stg a s
  | .enqTry h k stg a => Sys2Proof.Machine.execEnqTry h k stg a s
  | .jinit h d n a => Sys2Proof.Machine.execJinit h d n a s
  | .jinitTry h d k n a => Sys2Proof.Machine.execJinitTry h d k n a s
  | .jdone h c => Sys2Proof.Machine.execJdone h c s
  | .stdecl h stg a => Sys2Proof.Machine.execStdecl h stg a s
  | .dist h stg first last chunk => Sys2Proof.Machine.execDist h stg first last chunk s
  | .scall h svc ring => Sys2Proof.Machine.execScall h svc ring s
  | .scallSc h svc ring => Sys2Proof.Machine.execScallSc h svc ring s
  | .fold h dh ds e mask => Sys2Proof.Machine.execFold h dh ds e mask s
  | .callh h x => Sys2Proof.Machine.execCallh h x s
  | .relh h x => Sys2Proof.Machine.execRelh h x s
  | .hstat h d x => Sys2Proof.Machine.execHstat h d x s
  | .mfc h d reg => Sys2Proof.Machine.execMfc h d reg s
  | .mtc h x reg => Sys2Proof.Machine.execMtc h x reg s
  | .mtcLmcfg h x => Sys2Proof.Machine.execMtcLmcfg h x s
  | .mtcMxcnt h x => Sys2Proof.Machine.execMtcMxcnt h x s
  | .mtcStatus h x => Sys2Proof.Machine.execMtcStatus h x s
  | .csave h c => Sys2Proof.Machine.execCsave h c s
  | .crest h c => Sys2Proof.Machine.execCrest h c s
  | .nispl h c => Sys2Proof.Machine.execNispl h c s
  | .jrnl h da dd e => Sys2Proof.Machine.execJrnl h da dd e s
  | .tlbi h a => Sys2Proof.Machine.execTlbi h a s
  | .tlbiAll h => Sys2Proof.Machine.execTlbiAll h s
  | .time h d => Sys2Proof.Machine.execTime h d s
  | .unassignedOp w => Sys2Proof.Machine.execUnassignedOp w s
  | .activeMessageArrival => Sys2Proof.Machine.execActiveMessageArrival s
  | .signalArrival => Sys2Proof.Machine.execSignalArrival s
  | .watchdog => Sys2Proof.Machine.execWatchdog s
  | .barrierArrival => Sys2Proof.Machine.execBarrierArrival s
  | .barrierEpisodeComplete => Sys2Proof.Machine.execBarrierEpisodeComplete s
  | .engineInstrComplete => Sys2Proof.Machine.execEngineInstrComplete s
  | .mmaPairStep => Sys2Proof.Machine.execMmaPairStep s
  | .mcvtTilePublish => Sys2Proof.Machine.execMcvtTilePublish s
  | .gemvResultDelivery => Sys2Proof.Machine.execGemvResultDelivery s
  | .sendDelivery => Sys2Proof.Machine.execSendDelivery s
  | .copyComplete => Sys2Proof.Machine.execCopyComplete s
  | .loaderTilePush => Sys2Proof.Machine.execLoaderTilePush s
  | .storerTileWrite => Sys2Proof.Machine.execStorerTileWrite s
  | .postedWritePerformed => Sys2Proof.Machine.execPostedWritePerformed s
  | .postedWriteRefused => Sys2Proof.Machine.execPostedWriteRefused s
  | .pageModeWindow => Sys2Proof.Machine.execPageModeWindow s
  | .purseWindow => Sys2Proof.Machine.execPurseWindow s
  | .purseAdmit => Sys2Proof.Machine.execPurseAdmit s
  | .stageBalance => Sys2Proof.Machine.execStageBalance s
  | .recordDispatch => Sys2Proof.Machine.execRecordDispatch s
  | .parkEventComplete => Sys2Proof.Machine.execParkEventComplete s
  | .joinDecrement => Sys2Proof.Machine.execJoinDecrement s
  | .distChunkDeal => Sys2Proof.Machine.execDistChunkDeal s
  | .distChunkComplete => Sys2Proof.Machine.execDistChunkComplete s
  | .replyPublish => Sys2Proof.Machine.execReplyPublish s
  | .protect => Sys2Proof.Machine.execProtect s
  | .freeze => Sys2Proof.Machine.execFreeze s
  | .unfreeze => Sys2Proof.Machine.execUnfreeze s
  | .todev => Sys2Proof.Machine.execTodev s
  | .tohost => Sys2Proof.Machine.execTohost s
  | .pageFlipComplete => Sys2Proof.Machine.execPageFlipComplete s
  | .query => Sys2Proof.Machine.execQuery s
  | .unmap => Sys2Proof.Machine.execUnmap s
  | .map => Sys2Proof.Machine.execMap s
  | .quota => Sys2Proof.Machine.execQuota s
  | .assign => Sys2Proof.Machine.execAssign s
  | .setquota => Sys2Proof.Machine.execSetquota s
  | .setpurse => Sys2Proof.Machine.execSetpurse s
  | .keyassign => Sys2Proof.Machine.execKeyassign s
  | .arena => Sys2Proof.Machine.execArena s
  | .foldRequestServe => Sys2Proof.Machine.execFoldRequestServe s
  | .handlerEntry => Sys2Proof.Machine.execHandlerEntry s
  | .asyncTrapTake => Sys2Proof.Machine.execAsyncTrapTake s
  | .preempt => Sys2Proof.Machine.execPreempt s
  | .trapMessageCollect => Sys2Proof.Machine.execTrapMessageCollect s
  | .trapMessageMerge => Sys2Proof.Machine.execTrapMessageMerge s
  | .faultAnswer => Sys2Proof.Machine.execFaultAnswer s
  | .prgResponse => Sys2Proof.Machine.execPrgResponse s
  | .translationCompletion => Sys2Proof.Machine.execTranslationCompletion s
  | .invalidateRequest => Sys2Proof.Machine.execInvalidateRequest s
  | .ifetchLookup => Sys2Proof.Machine.execIfetchLookup s
  | .icacheFill => Sys2Proof.Machine.execIcacheFill s
  | .imageLoad => Sys2Proof.Machine.execImageLoad s
  | .patrolScrub => Sys2Proof.Machine.execPatrolScrub s
  | .bankRebuildRow => Sys2Proof.Machine.execBankRebuildRow s
  | .cxlLinkDown => Sys2Proof.Machine.execCxlLinkDown s
  | .cxlLinkRetrain => Sys2Proof.Machine.execCxlLinkRetrain s
  | .retentionTimeout => Sys2Proof.Machine.execRetentionTimeout s
  | .dieFence => Sys2Proof.Machine.execDieFence s
  | .filidPacketArrival => Sys2Proof.Machine.execFilidPacketArrival s
  | .filidPacketDeliver => Sys2Proof.Machine.execFilidPacketDeliver s
  | .launch => Sys2Proof.Machine.execLaunch s
  | .kcmd => Sys2Proof.Machine.execKcmd s
  | .fenceRegister => Sys2Proof.Machine.execFenceRegister s
  | .scaleRouteWrite => Sys2Proof.Machine.execScaleRouteWrite s
  | .barRegisterWrite => Sys2Proof.Machine.execBarRegisterWrite s
  | .functionLevelReset => Sys2Proof.Machine.execFunctionLevelReset s
  | .hostCxlWrite => Sys2Proof.Machine.execHostCxlWrite s
  | .scalePacketArrival => Sys2Proof.Machine.execScalePacketArrival s
  | .getVersion => Sys2Proof.Machine.execGetVersion s
  | .getCapabilities => Sys2Proof.Machine.execGetCapabilities s
  | .negotiateAlgorithms => Sys2Proof.Machine.execNegotiateAlgorithms s
  | .getDigests => Sys2Proof.Machine.execGetDigests s
  | .getCertificate => Sys2Proof.Machine.execGetCertificate s
  | .challenge => Sys2Proof.Machine.execChallenge s
  | .getMeasurements => Sys2Proof.Machine.execGetMeasurements s
  | .serviceLevelChange => Sys2Proof.Machine.execServiceLevelChange s
  | .supplySag => Sys2Proof.Machine.execSupplySag s
  | .clockRecover => Sys2Proof.Machine.execClockRecover s
  | .reset => Sys2Proof.Machine.execReset s
  | .tileOperationComplete => Sys2Proof.Machine.execTileOperationComplete s
  | .keyLoadDone => Sys2Proof.Machine.execKeyLoadDone s
  | .priEnable => Sys2Proof.Machine.execPriEnable s
  | .softError => Sys2Proof.Machine.execSoftError s

end Sys2Proof.Machine
end

