-- ==== Sys2Proof/Machine/Sched.lean ====
section
/-! DEFINITION. What happens next: which context of a core is ready (R201 to R203, R217, R403), which event is due when no
context is ready, one cycle of the clocks (R33, R393, R438, R439), and what the issuing context does at its program
counter, in a routine or in residual code. The order of independent events is open; the agenda of the state may name any
order, and the default is used when it is empty (log 1). -/

namespace Sys2Proof.Machine

/-! ## Ready contexts (R201) -/

/-- The contexts of a core in issue order. -/
def ctxOrder : List CtxNum := [0, 1, 2, 3, 4, 5, 6, 7, 8, 9, 10, 15]

/-- A held instruction whose answer has not come does not try again: an `amsg` on its way, a `bar` that has arrived, a `fold`
in its queue, and a request whose reply is to come, or never comes (R208, R215, R247, R403, R438). -/
def awaits (c : Ctx) : Bool :=
  match c.pend with
  | .sent _ | .arrived _ | .folding | .awaiting .. | .dropped => true
  | .reply _ => false
  | _ => c.sent

/-- A stopped context only finishes the instruction it is in (R403). -/
def goesOn (c : Ctx) : Bool := !c.stopped || midway c.pend

/-- A `gemv` of the context has not read its vector yet (R193). -/
def gemvReading (k : Core) (h : BitVec 28) : Bool := k.engine.any (fun e => e.op == .gemv && e.owner == h)

/-- In an exchange phase only the control context issues, and the handler for a trap of it (R217). -/
def phaseAllows (k : Core) (n : CtxNum) : Bool := k.exch.isNone || n == 0 || (n == 15 && k.handling == some (.trap 0))

/-- A context may try to issue: an instruction that is held says so when it is tried. -/
def ctxReady (s : State) (core : CoreId) (n : CtxNum) : Bool :=
  let k := s.core core
  let c := k.ctx n
  c.run == .live && goesOn c && !awaits c && c.pageWait.isNone && decide (c.nextIssue ≤ s.cycleAt core) && !k.tried.contains n
    && phaseAllows k n && !gemvReading k (s.handle core n)

/-- The round robin starts after the context that issued last. -/
def rotation (last : CtxNum) : List CtxNum :=
  ctxOrder.filter (fun n => decide (last.toNat < n.toNat)) ++ ctxOrder.filter (fun n => decide (n.toNat ≤ last.toNat))

/-- Of the ready contexts in round-robin order, the one that issues, and those that it passes over: a context that yielded is
passed over once, at its next turn on which another is ready (R203). -/
def chooseFrom (k : Core) : List CtxNum → Option (CtxNum × List CtxNum)
  | [] => none
  | [n] => some (n, [])
  | n :: l =>
    let yielded (m : CtxNum) : Bool := (k.ctx m).passOver
    match (n :: l).find? (fun m => !yielded m) with
    | some m => some (m, (n :: l).takeWhile yielded)
    | none => some (n, n :: l)

/-- Passes that have been used are over. -/
def Core.spend (k : Core) : Core :=
  { k.spent.foldl (fun k n => k.setCtx n { k.ctx n with passOver := false }) k with spent := [] }

/-- The context that a core issues from now, if any: in the release cycle of a phased domain the control context comes first
(R201, R203, R216). -/
def pickCtx (s : State) (core : CoreId) : Option (CtxNum × State) :=
  let k := (s.core core).spend
  if k.issued || !s.inService (coreDie core) then none
  else
    let l := (rotation k.lastCtx).filter (ctxReady s core)
    let l := if k.barFirst == some (s.cycleAt core) && l.contains 0 then [0] else l
    (chooseFrom k l).map (fun e => (e.1, s.setCore core { k with passed := e.2 }))

/-- The first core that can issue. -/
def pickCore (s : State) : Option CoreId :=
  (s.cores.find? (fun e => (pickCtx s (BitVec.ofNat 16 e.1)).isSome)).map (fun e => BitVec.ofNat 16 e.1)

/-! ## One cycle -/

/-- A die's arithmetic clock: below service level 3 it runs at half the full rate (R438), and at a lower rate it misses some
of its periods; a stretched one ends a period of the full clock later (R439, DESIGN CHOICE, log 72). -/
def tickDie (svc : BitVec 2) (d : DieState) : DieState × Bool :=
  if d.stretch then ({ d with stretch := false }, false)
  else
  let p := d.phase + (if svc = 3 then 2 * d.rate else d.rate)
  if 32 ≤ p then ({ d with phase := p - 32, cycle := d.cycle + 1 }, true) else ({ d with phase := p }, false)

/-- The window of a die's stage balancer, purses or page modes has ended and has not been served (R236, R283, R372). -/
def windowDue (x : DieState) : Bool :=
  decide (x.balWin < x.cycle / 4096) || decide (x.purseWin < x.cycle / 4096) || decide (x.pageWin < x.cycle / 65536)

/-- A core in the next cycle: it may issue again, and a phase that was released enters or ends now (R216, R217). -/
def nextCycle (k : Core) : Core :=
  match k.exchNext with
  | some e => { k with issued := false, tried := [], exch := e, exchNext := none, exchLeft := false }
  | none => { k with issued := false, tried := [] }

/-- One period of the full clock of 2.1 GHz: each die's cycle, and 10/21 ns of the time stamp. -/
def tick (s : State) : State :=
  let moved := (List.range 8).filter (fun d => (tickDie s.svc (s.die (BitVec.ofNat 3 d))).2)
  let s := (List.range 8).foldl (fun s d =>
    s.setDie (BitVec.ofNat 3 d) (tickDie s.svc (s.die (BitVec.ofNat 3 d))).1) s
  let f := s.timeFrac + 10
  { s with
    time := s.time + f / 21, timeFrac := f % 21
    cores := s.cores.map (fun e =>
      if moved.contains (coreDie (BitVec.ofNat 16 e.1)).toNat then (e.1, nextCycle e.2) else e) }

/-- A cycle, unless something of this cycle is still to happen: a window of a die, or the issue of a core that has a ready
context (R201, R202, R216, R218). -/
def cycleTurn (s : State) : State := if (pickCore s).isSome || s.dies.any (fun e => windowDue e.2) then s else tick s

/-! ## Events that are due -/

/-- Windows of the dies. -/
def windowEvents (s : State) : List (Instr × Pick) :=
  s.dies.flatMap (fun e =>
    let p : Pick := { die := BitVec.ofNat 3 e.1 }
    if windowDue e.2 then [(.purseWindow, p), (.pageModeWindow, p), (.stageBalance, p)] else [])

/-- Packets (R26, R351, R352), and replies (R241). -/
def packetEvents (s : State) : List (Instr × Pick) :=
  s.net.filterMap (fun p =>
    let q : Pick := { id := p.id, die := p.dst }
    match p.phase, p.msg with
    | .held, _ => none
    | .link, _ => some (.filidPacketArrival, q)
    | .early, _ => some (.filidPacketDeliver, q)
    | _, .amsg .. => some (.activeMessageArrival, q)
    | _, .signal .. => some (.signalArrival, q)
    | _, .delivery .. => some (.sendDelivery, q)
    | _, .jdone _ => some (.joinDecrement, q)
    | _, .arrival .. => some (.barrierArrival, q)
    | _, .write .. | _, .echo _ => none)
  ++ s.replies.map (fun r => (.replyPublish, { id := r.id }))

/-- What the engines, the journal and the handler of a core do next, in the order of R274. -/
def coreEvents (s : State) : List (Instr × Pick) :=
  s.cores.flatMap (fun e =>
    let p : Pick := { core := BitVec.ofNat 16 e.1, num := 64 }
    let k := e.2
    (if k.hqueue.isEmpty then [] else [(.handlerEntry, p)])
    ++ ((List.range 32).filter (fun i => (k.jentry i).state == 1)).map (fun i => (.postedWritePerformed, { p with id := i }))
    ++ (if k.engine.isEmpty then [] else [(.mmaPairStep, p), (.mcvtTilePublish, p), (.engineInstrComplete, p)])
    ++ k.ops.flatMap (fun o =>
      let q := { p with id := o.id }
      [(.copyComplete, q), (.loaderTilePush, q), (.storerTileWrite, q), (.tileOperationComplete, q)])
    ++ k.gemvs.map (fun g => (.gemvResultDelivery, { p with id := g.id }))
    ++ (if k.stage.isSome then [(.recordDispatch, p)] else []))

/-- Fills and folds of a cluster. -/
def clusterEvents (s : State) : List (Instr × Pick) :=
  s.clusters.flatMap (fun e =>
    let p : Pick := { cluster := BitVec.ofNat 13 e.1 }
    e.2.inflight.map (fun l => (.icacheFill, { p with num := l.1.toNat }))
    ++ (if e.2.folds.isEmpty then [] else [(.foldRequestServe, p)]))

/-- Barriers, calls and flips of a sector. -/
def sectorEvents (s : State) : List (Instr × Pick) :=
  s.sectors.flatMap (fun e =>
    let p : Pick := { die := BitVec.ofNat 3 e.1 }
    e.2.barriers.map (fun b => (.barrierEpisodeComplete, { p with num := b.1 }))
    ++ e.2.calls.map (fun c => (serviceRow c.svc.toNat, { p with id := c.id }))
    ++ e.2.flips.map (fun f => (.pageFlipComplete, { p with id := f.id })))
where
  serviceRow (n : Nat) : Instr :=
    match n with
    | 0x010 => .protect | 0x011 => .freeze | 0x012 => .unfreeze | 0x013 => .todev | 0x014 => .tohost | 0x016 => .unmap
    | 0x801 => .map | 0x802 => .quota | 0x803 => .assign | 0x804 => .setquota | 0x805 => .setpurse | 0x806 => .keyassign
    | 0x807 => .arena
    | _ => .query

/-- Trap messages and the answers that an instance gives of itself: a page that it cannot place is not resolved. -/
def faultEvents (s : State) : List (Instr × Pick) :=
  s.dies.flatMap (fun e =>
    let p : Pick := { die := BitVec.ofNat 3 e.1, answer := .notResolved }
    e.2.trapMsgs.map (fun m => (.trapMessageCollect, { p with id := m.id }))
    ++ e.2.collectors.flatMap (fun r => r.2.map (fun o =>
      (.faultAnswer, { p with row := r.1, tenant := o.tenant, num := o.page
                              other := (match o.kind with
                                | .read => 0
                                | .write => 1
                                | .fetch => 2
                                | .host => 3) }))))

/-- Held requests of purses; parked records and chunks of stages. -/
def tenantEvents (s : State) : List (Instr × Pick) :=
  s.tenants.flatMap (fun e =>
    let p : Pick := { tenant := BitVec.ofNat 7 e.1 }
    let held (fab : Bool) (m : Sparse Purse) : List (Instr × Pick) :=
      (m.filter (fun x => !x.2.held.isEmpty)).map (fun x => (.purseAdmit, { p with die := BitVec.ofNat 3 x.1, flag := fab }))
    held false e.2.mem ++ held true e.2.fab
    ++ e.2.stages.flatMap (fun x =>
      let q := { p with stage := BitVec.ofNat 6 x.1 }
      x.2.parked.map (fun r => (.parkEventComplete, { q with id := r.r.id }))
      ++ (match x.2.range with
        | some r => (List.range 8).map (fun d => (.distChunkDeal, { q with die := BitVec.ofNat 3 d }))
            ++ r.started.map (fun c => (.distChunkComplete, { q with num := c.1 }))
            ++ r.master.map (fun c => (.distChunkComplete, { q with num := c }))
        | none => [])))

/-- What the module does of itself toward the host. -/
def hostEvents (s : State) : List (Instr × Pick) :=
  s.invWait.map (fun e => (.invalidateRequest, { id := e.1 }))
  ++ s.flrWait.map (fun t => (.functionLevelReset, { tenant := t }))
  ++ (if s.keyLoad.isSome then [(.keyLoadDone, ({} : Pick))] else [])
  ++ (if s.linkDownAt.isSome then [(.retentionTimeout, ({} : Pick))] else [])
  ++ (s.dies.filter (fun e => decide (e.2.rate < 16))).map (fun e => (.clockRecover, { die := BitVec.ofNat 3 e.1 }))

/-- The events that the machine performs of itself, in the default order. -/
def ownEvents (s : State) : List (Instr × Pick) :=
  windowEvents s ++ coreEvents s ++ packetEvents s ++ clusterEvents s ++ sectorEvents s ++ faultEvents s ++ tenantEvents s
    ++ hostEvents s

/-- The state in which an event is performed. -/
def withPick (p : Pick) (s : State) : State := { s with pick := p, curCore := p.core, curCtx := p.ctx }

/-- An event changes the machine. -/
def changes (s : State) (e : Instr × Pick) : Bool :=
  match exec e.1 (withPick e.2 s) with
  | .next t => t != withPick e.2 s
  | _ => true

/-- The first event that can happen now, when no context can issue. -/
def dueEvent (s : State) : Option (Instr × Pick) := (ownEvents s).find? (changes s)

/-! ## The next occurrence -/

/-- The reply of a request comes to its context; for a saved one it waits at the network interface, or is forwarded (R403, R407,
R408). -/
def replyArrives (core : CoreId) (n : CtxNum) (s : State) : State :=
  let c := s.ctx core n
  match c.pend with
  | .awaiting v _ =>
    let s := s.setCtx core n { c with pend := .reply v, replyAfter := ((s.core core).msgsFor n).length }
    if c.run == .saved && c.forwarding then divertReply s core n else s
  | _ => s

/-- A context whose reply is to come. -/
def dueReply (s : State) : Option (CoreId × CtxNum) :=
  s.cores.findSome? (fun e => (ctxOrder.find? (fun n => match (e.2.ctx n).pend with
    | .awaiting .. => true
    | _ => false)).map (fun n => (BitVec.ofNat 16 e.1, n)))

/-- What a step does; an issue may leave its reply to come. -/
inductive Next where
  | event (i : Instr) (s : State)
  | issue (s : State)
  | depart (s : State)
  | idle (s : State)

/-- Rows that take the place of an instruction: they happen at the turn of a context only. -/
def atIssue : Instr → Bool
  | .watchdog | .asyncTrapTake | .ifetchLookup => true
  | _ => false

/-- An event's turn: its parameters, and the context it may concern. -/
def eventTurn (i : Instr) (p : Pick) (s : State) : Next :=
  if (encode i).isNone && !atIssue i then .event i (withPick p s) else .idle s

/-- A core's turn. -/
def coreTurn (core : CoreId) (go : State → Next) (s : State) : Next :=
  match pickCtx s core with
  | some (n, s) => go { s with curCore := core, curCtx := n }
  | none => .idle s

/-- The agenda's head; with an empty agenda a ready context, then an event that is due, a reply, or a cycle. -/
def nextUp (s : State) : Next :=
  match s.agenda with
  | .event i p :: rest => eventTurn i p { s with agenda := rest }
  | .turn core :: rest => coreTurn core .issue { s with agenda := rest }
  | .depart core :: rest => coreTurn core .depart { s with agenda := rest }
  | .reply core n :: rest => .idle (replyArrives core n { s with agenda := rest })
  | .tick :: rest => .idle (cycleTurn { s with agenda := rest })
  | [] =>
    match pickCore s with
    | some core => coreTurn core .issue s
    | none => match dueEvent s, dueReply s with
      | some (i, p), _ => eventTurn i p s
      | none, some (core, n) => .idle (replyArrives core n s)
      | none, none => .idle (cycleTurn s)

/-! ## The instruction at the program counter -/

/-- What the issuing context does at its program counter. -/
inductive Fetch where
  /-- An event takes the place of the instruction. -/
  | event (i : Instr)
  | instr (i : Instr) (s : State)
  | illegal (einfo : Nat)
  /-- An instruction marked sent retires with its reply (R403). -/
  | reply (i : Instr) (x : Word) (s : State)
  /-- Residual code goes on (R263). -/
  | resid (r : ResidPos)

/-- What decoding depends on (R382, R438). -/
def decodeEnv (s : State) : DecodeEnv := { handler := s.curCtx == 15, matrixOff := decide (s.svc.toNat < 2) }

/-- The word that 16 bytes of a line hold: decoded, or ILLEGAL; a poisoned word is consumed and retires without an
effect (R417). -/
def fetchWord (bs : List PByte) (s : State) : Fetch :=
  match cleanBytes bs with
  | (_, some i) => .instr (.nop {}) (consumed s (s.me.pc + BitVec.ofNat 64 i))
  | (w, none) =>
    match decodeWord (decodeEnv s) (wordOfBytes w) with
    | .ok i => (match s.me.pend with
      | .reply x => .reply i x s
      | _ => .instr i s)
    | .error e => .illegal e

/-- At an instruction boundary: no instruction of the context has left the core (R381). -/
def atBoundary (c : Ctx) : Bool :=
  match c.pend with
  | .none | .queued _ | .admitted .. | .checked | .splitting => true
  | _ => false

/-- An asynchronous report is taken at an instruction boundary (R381), a lookup precedes the first word of a line
(R424), and WATCHDOG stands in place of an instruction (R204), but not of one that was issued and has its reply (R403). In an
exchange phase reports wait (R217). -/
def fetch (s : State) : Fetch :=
  let c := s.me
  let answered := match c.pend with
    | .reply _ => true
    | _ => false
  let dog := watchdogDue c && !answered
  if !c.reports.isEmpty && atBoundary c && s.myCore.exch.isNone then .event .asyncTrapTake
  else match c.resid with
    | some r => if dog then .event .watchdog else .resid r
    | none => match c.fline with
      | some (l, bs) =>
        if l == lineOf c.pc then (if dog then .event .watchdog else fetchWord (wordIn bs c.pc) s) else .event .ifetchLookup
      | none => .event .ifetchLookup

/-- The reply of a sent instruction goes to its destinations, and the instruction retires (R403). -/
def replyTurn (i : Instr) (x : Word) (s : State) : State :=
  let write (c : Ctx) (o : Operand) : Ctx :=
    if o.dst && decide (o.code.toNat < 0x40) then c.setS (o.code.setWidth 6) x
    else if o.dst && decide (0x60 ≤ o.code.toNat) && decide (o.code.toNat < 0x68) then c.setK (o.code.setWidth 3) (x != 0)
    else c
  match i with
  | .callh .. => (match enterResid x (s.setMe { s.me with callPin := none }) with
    | .goto t pc => retire i i.latency pc true t
    | .trap c e => trapMe s c e
    | _ => holdMe s)
  | _ => retire i i.latency (s.me.pc + 16) false (s.setMe (i.operands.foldl write s.me))

/-- The instructions of R403, where they have a request to send. -/
def sendsRequest (i : Instr) (c : Ctx) : Bool :=
  match i with
  | .amo _ _ ea _ _ _ _ _ | .cas _ _ ea _ _ _ _ => !isLocal (mAddress c ea)
  | .callh .. | .relh .. | .tilset .. | .tdef .. | .tkill .. | .jinit .. | .jinitTry .. | .stdecl .. => true
  | .dist _ _ a b _ => decide ((readS c a).toNat < (readS c b).toNat)
  | _ => false

/-- The value of a reply: what an instruction has written to its s destination, or 1 where only its predicate says that it has
succeeded (R231). -/
def replyValue (i : Instr) (c : Ctx) : Word :=
  let ds := i.operands.filter (·.dst)
  let x := ((ds.find? (fun o => decide (o.code.toNat < 0x40))).map (fun o => c.getS (o.code.setWidth 6))).getD 0
  if x = 0 && ds.any (fun o => decide (0x60 < o.code.toNat) && decide (o.code.toNat < 0x68) && c.getK (o.code.setWidth 3)) then 1 else x

/-- The physical address that an atomic of the issuing context reads. -/
def readFrom (i : Instr) (s : State) : Option Nat :=
  match i with
  | .amo _ _ ea _ _ _ _ _ | .cas _ _ ea _ _ _ _ => physOf s s.myTenant (va57 (mAddress s.me ea))
  | _ => none

/-- An instruction of s whose request has been performed, in t, has not had its reply: its context stands where it was, with
what its release and its acquire have changed, the reports that it owes and the pin it has made, and waits for the value from
the die that answers. -/
def awaitReply (i : Instr) (s t : State) : State :=
  let c := t.me
  if c.run == .live && t.myCore.issued then
    let own := coreDie s.curCore
    let heard (d : Die) : BitVec 12 × BitVec 12 := ((s.die d).deliv.getD own.toNat 0, (t.die d).deliv.getD own.toNat 0)
    let die := (((List.range 8).map (BitVec.ofNat 3)).find? (fun d => d != own && (heard d).1 != (heard d).2)).getD own
    let (v, pin) := match i with
      | .callh _ x => (readS s.me x, some (readS s.me x))
      | _ => (replyValue i c, none)
    t.setMe { s.me with passOver := s.me.passOver && !s.myCore.passed.contains s.curCtx
                        rc := c.rc, acq := c.acq, mmOvf := c.mmOvf, wdogCount := c.wdogCount, reports := c.reports, callPin := pin
                        replyAt := readFrom i s, pend := .awaiting v die }
  else t

/-- Applies a function to a next state. -/
def onNext (f : State → State) : Host.Outcome State Fault Refusal → Host.Outcome State Fault Refusal
  | .next s => .next (f s)
  | .fault e => .fault e
  | .refused r => .refused r

/-- One instruction of residual code (R254, R260, R263). -/
def residStep (r : ResidPos) (s : State) : Host.Outcome State Fault Refusal :=
  match residTurn (decodeEnv s) r s with
  | .next t => .next t
  | .run i t => onNext (residAfter i s t) (exec i t)
  | .foldTrap i t => onNext (residAfter i s t) (issue i (fun u => .trap .foldTrap u.me.pc) t)
  | .illegal e t => illegalWord e t

/-- The issuing context issues, or an event takes the place of its instruction. -/
def issueTurn (s : State) : Host.Outcome State Fault Refusal :=
  match fetch s with
  | .event i => exec i { s with pick := { s.pick with core := s.curCore, ctx := s.curCtx } }
  | .instr i t => exec i t
  | .illegal e => illegalWord e s
  | .reply i x t => .next (replyTurn i x t)
  | .resid r => residStep r s

/-- The issuing context issues, and a request that it sends leaves the core before its reply comes. -/
def departTurn (s : State) : Host.Outcome State Fault Refusal :=
  match fetch s with
  | .instr i t => if sendsRequest i t.me && guardsPass i.header t.me then onNext (awaitReply i t) (exec i t) else exec i t
  | _ => issueTurn s

/-- Events of the storage itself find its errors as they are (R413 to R415); before anything else the rows are decoded. -/
def keepsErrors : Instr → Bool
  | .softError | .patrolScrub | .bankRebuildRow => true
  | _ => false

end Sys2Proof.Machine
end

