-- ==== Sys2Proof/Machine/Step.lean ====
section
/-! DEFINITION. The step of the machine: one event, the issue of one instruction, or one cycle; and the placing of a
word where the next step fetches. -/

namespace Sys2Proof.Machine

/-- One step of the machine. -/
def step (s : State) : Host.Outcome State Fault Refusal :=
  match nextUp s with
  | .event i t => exec i (if keepsErrors i then t else settleRows t)
  | .issue t => issueTurn (settleRows t)
  | .depart t => departTurn (settleRows t)
  | .idle t => .next t

/-- The line of 256 bytes that holds a word at an address. -/
def lineWith (pc : Word) (w : BitVec 128) : List PByte :=
  good (List.replicate (pc.toNat % 256 / 16 * 16) 0 ++ bytesOfWord w ++ List.replicate (240 - pc.toNat % 256 / 16 * 16) 0)

/-- A word stands in the line that context 0 of core 0 looked up last, at its program counter, and that context is the
next to issue. It is live, in service and not held (log 1 says how a program comes to run from reset). -/
def State.withFetchWord (s : State) (nbits w : Nat) : State :=
  let k := s.core 0
  let c := k.ctx 0
  let c := { c with
    run := .live, stopped := false, pageWait := none, resid := none, reports := [], passOver := false, nextIssue := 0
    wdogCount := 0, ready := [], pend := .none, sent := false
    fline := some (lineOf c.pc, lineWith c.pc (BitVec.ofNat 128 (w % 2 ^ nbits))) }
  let k := { (k.setCtx 0 c) with issued := false, tried := [], lastCtx := 15, exch := none, exchNext := none, engine := [] }
  { (s.setCore 0 k) with agenda := [.turn 0], svc := if s.svc.toNat < 2 then 2 else s.svc, removed := false }

end Sys2Proof.Machine
end

