-- ==== Sys2Proof/Safety.lean ====
section
/-! DEFINITION. What counts as a safe state and a safe run, in the terms the statements use: an instruction that issues, the
state after its retirement, what a step leaves alone, the invariant, and the results of the scalar instructions as the rules
give them. -/

namespace Sys2Proof.Machine

/-! ## Issue and retirement -/

/-- The instruction of the issuing context issues: no EXCHANGE applies, every source has been written, and its guards pass
(R56, R109, R218). -/
abbrev Issues (i : Instr) (s : State) : Prop :=
  exchangeFault i s = none ∧ sourcesReady i s.me s.now = true ∧ guardsPass i.header s.me = true

/-- The state after an instruction of `s` whose own effect left `t` has retired with a latency, and the next one follows. -/
def retiredAfter (i : Instr) (lat : Nat) (s t : State) : State := retire i lat (s.me.pc + 16) false t

/-- The same with the latency of the instruction's row (R109, R148). -/
def retired (i : Instr) (s t : State) : State := retiredAfter i i.latency s t

/-- The same where the instruction transfers to an address (R134). -/
def retiredTo (i : Instr) (pc : Word) (t : State) : State := retire i i.latency pc true t

/-- LS may access n bytes from a local address, aligned to al (R276, R293): within the scratchpad, and in no ring slot whose
state keeps the context out. -/
abbrev LocalOk (s : State) (a : Word) (n al : Nat) (write : Bool) : Prop :=
  a.toNat % al = 0 ∧ isLocal a = true ∧ a.toNat + n ≤ s.myCore.scratch ∧ ringRefuses s.myCore s.myHandle a.toNat n write = none

/-- No byte of a local range is poisoned (R416). -/
abbrev LocalClean (s : State) (a : Word) (n : Nat) : Prop := ∀ i, i < n → (a.toNat + i) / 16 ∉ s.myCore.poison

/-- The context may release: its journal entries are freed and every report owed to it has been taken (R326, R381). -/
abbrev MayRelease (s : State) : Prop := journalHolds s.myCore s.curCtx s.me.inc = false ∧ reportsSettled s = true

/-- What the issuing context sends leaves without a hold: the link takes its packet, and the purses let each of its items through
(R351, R371). -/
def Admitted (s : State) (items : List Nat) (d : Die) (t : State) : Prop :=
  linkFull s (coreDie s.curCore) d = false ∧ admitAll s items d = .ok t

/-- A request of the issuing context leaves and is answered with no hold: its die is in service (R438), nothing that has to precede
its packet or its reply is on its way (R351), and it is admitted (R371). -/
def Requested (s : State) (items : List Nat) (d : Die) (sync : Bool) (reply : Nat) (t : State) : Prop :=
  let own := coreDie s.curCore
  unserved s own d = false ∧ (exchange s own d sync).isSome = true
    ∧ ∃ u, Admitted s items d u ∧ t = chargeAfter ((exchange u own d sync).getD u) u.myTenant own d reply

/-- The same of a request to the homes of several dies, with a reply of some bytes from each (R351, R371, R438). -/
def RequestedAll (s : State) (mem fab : List Nat) (dies : List Die) (reply : Nat) (t : State) : Prop :=
  let own := coreDie s.curCore
  (∀ d ∈ dies, unserved s own d = false ∧ linkFull s own d = false) ∧ (exchangeAll s own dies).isSome = true
    ∧ ∃ u, admitItems s mem fab = .ok u
      ∧ t = chargeReplies ((exchangeAll u own dies).getD u) fab dies reply

/-- A packet of the issuing context is delivered in the step, and admitted (R351, R371). -/
def Crosses (s : State) (items : List Nat) (d : Die) (sync : Bool) (t : State) : Prop :=
  let own := coreDie s.curCore
  (crossing s own d sync).isSome = true ∧ ∃ u, Admitted s items d u ∧ t = (crossing u own d sync).getD u

/-- The same of packets to several dies, the first payloads at FAB one for each of those that are not the issuer's own. -/
def CrossesAll (s : State) (mem fab : List Nat) (dies : List Die) (t : State) : Prop :=
  let own := coreDie s.curCore
  let away := dies.filter (· != own)
  (∀ d ∈ away, linkFull s own d = false) ∧ (crossAll s own dies).isSome = true
    ∧ ∃ u, admitItems s mem fab = .ok u
      ∧ t = (away.zip fab).foldl (fun s x => chargeForwards s s.myTenant own x.1 [x.2]) ((crossAll u own dies).getD u)

/-- A request that no purse admits, and its reply, are delivered in the step (R351, R438). -/
def Exchanged (s : State) (d : Die) (sync : Bool) (t : State) : Prop :=
  let own := coreDie s.curCore
  unserved s own d = false ∧ linkFull s own d = false ∧ exchange s own d sync = some t

/-- The pin of the residual code that the issuing context leaves, if it stands in any, is dropped at its home with no hold
(R263, R351). -/
def PinGoes (s t : State) : Prop :=
  match s.me.resid with
  | none => t = s
  | some p => Exchanged s (BitVec.ofNat 3 (p.handle.extractLsb' 0 12).toNat) false t

/-- The pages of a list of addresses translate for the issuing context, in their order, to a state with the translations and the
host frames that the access takes (R293, R309). -/
def Translates (s : State) (k : AccKind) (as : List Word) (t : State) (frames : Sparse Nat) : Prop :=
  ∀ go, withPageList k as [] s go = go t frames

/-- Every address of a list is mapped for the issuing context with the right that it needs: each on a device page, or all of
them so that they translate. -/
def Mapped (s : State) (k : AccKind) (as : List Word) : Prop :=
  (∀ a ∈ as, ∃ p key l, translate s s.curCore s.myTenant a k = .ok p key l ∧ l.host = false)
    ∨ ∃ t frames, Translates s k as t frames

/-- The copy engine of the core accepts an operation of the issuing context next (R18, R309). -/
abbrev CopyRoom (s : State) : Prop :=
  (s.myCore.copyWait = [] ∨ s.myCore.copyWait.head? = some s.curCtx) ∧ s.myCore.ops.length < 64

/-- The issuing context no longer waits for the copy engine. -/
def leftCopyWait (s : State) : State := s.setMyCore { s.myCore with copyWait := s.myCore.copyWait.erase s.curCtx }

/-- The matrix engine's queue takes an entry of the issuing context next (R18, R171). -/
abbrev EngineRoom (s : State) : Prop :=
  (s.myCore.engWait = [] ∨ s.myCore.engWait.head? = some s.curCtx) ∧ s.myCore.engine.length < 2

/-- The issuing context no longer waits for the matrix engine. -/
def leftEngWait (s : State) : State := s.setMyCore { s.myCore with engWait := s.myCore.engWait.erase s.curCtx }

/-- The engine of the issuing core of t holds one entry more than that of s, of the issuing context (R171, R172). -/
def Enters (s t : State) (op : EngOp) (p : EngEntry → Prop) : Prop :=
  ∃ e, t.myCore.engine = s.myCore.engine ++ [e] ∧ e.op = op ∧ e.owner = s.myHandle ∧ e.tenant = s.myTenant ∧ e.pair = 0
    ∧ e.slotA = none ∧ e.slotB = none ∧ e.owes = false ∧ p e

/-- An area of local memory that an engine instruction names (R183, R187). -/
abbrev AreaOk (s : State) (a : Word) (n al : Nat) : Prop := a.toNat % al = 0 ∧ isLocal a = true ∧ a.toNat + n ≤ s.myCore.scratch

/-- An operation of the issuing context of s has joined its open batch in t (R306). -/
def Joins (s t : State) (op : BatchOp) : Prop :=
  ∃ o, t.myCore.ops = s.myCore.ops ++ [o] ∧ o.op = op ∧ o.owner = s.myHandle ∧ o.batch = s.me.batch ∧ o.tenant = s.myTenant

/-- The 4,096 bytes of a spill area can be accessed by the issuing context, in a state with the translations that this takes
(R407, R412). -/
def SpillOpen (x : Area) (k : AccKind) (s t : State) : Prop := ∀ go, withSpillArea x k s go = go t

/-- The record that a TID names for the issuing context (R286). -/
def recordOf (s : State) (tid : Tid) : Option Desc := (lookDesc s tid).map (·.1)

/-- The state after an instruction of `s` whose guards fail: it has been issued, and the next one follows (R56). -/
def skipped (i : Instr) (s : State) : State := advance i.header (s.me.pc + 16) false (countIssue s)

/-- The picked call of the picked sector is a call of service n that may be served (R240, R242, R376). -/
abbrev Calls (s : State) (c : Call) (n : Nat) : Prop :=
  (s.sector s.pick.die).calls.find? (fun c => c.id == s.pick.id) = some c ∧ strongFirst s c = true ∧ c.svc.toNat = n

/-- A call names a present page that is homed in the picked sector (R374, R377). -/
abbrev CallPage (s : State) (c : Call) (key : Nat) (l : Leaf) : Prop :=
  canonical (c.arg 1) = true ∧ leafOf (s.tenantSt c.tenant) (va57 (c.arg 1)) = some (key, l)
    ∧ dieOf s c.tenant (va57 (c.arg 1)) = s.pick.die ∧ l.p = true

/-- A call has been answered with a status and result words, and stands at its instance no more (R240, R241). -/
def Answers (s v : State) (c : Call) (st : BitVec 16) (res : List Word) : Prop :=
  (∃ r, v.replies = s.replies ++ [r] ∧ r.id = c.id ∧ r.owner = c.owner ∧ r.ring = c.ring ∧ r.seq = c.seq ∧ r.svc = c.svc
    ∧ r.status = st ∧ r.res = res) ∧ ∀ x ∈ (v.sector s.pick.die).calls, x.id ≠ c.id

/-- The n little-endian bytes of local memory from an address, as a number (R6). -/
def localNat (s : State) (a : Word) (n : Nat) : Nat := bytesNat (memBytes s.myCore.mem a.toNat n)

/-- The address, the bytes, the alignment and the right of the access of LS that an instruction makes (R276, R293). -/
def accessOf (i : Instr) (c : Ctx) : Option (Word × Nat × Nat × Bool) :=
  let m (t : Tag) : Nat := if t = .t6 then 12 else 16
  match i with
  | .ld _ _ ea sz | .ldSx _ _ ea sz | .ldc _ _ ea sz | .ldcSx _ _ ea sz | .lda _ _ ea sz _ =>
    some (mAddress c ea, sizeBytes sz, sizeBytes sz, false)
  | .st _ _ ea sz | .stl _ _ ea sz _ | .amo _ _ ea sz _ _ _ _ | .red _ ea sz _ _ _ _ | .cas _ _ ea sz _ _ _ =>
    some (mAddress c ea, sizeBytes sz, sizeBytes sz, true)
  | .ldv _ _ ea t => some (mAddress c ea, m t, 16, false)
  | .stv _ v ea t => if t = .b128 ∨ (readV c v).tag = t then some (mAddress c ea, m t, 16, true) else none
  | _ => none

/-! ## What an instruction leaves alone -/

/-- Every byte of memory reads as before: device memory, the stacks, host memory and every core's local memory. -/
def SameMemory (s t : State) : Prop :=
  ∀ a, memByte t.mem a = memByte s.mem a ∧ memByte t.stack a = memByte s.stack a ∧ memByte t.hostMem a = memByte s.hostMem a
    ∧ ∀ c, memByte (t.core c).mem a = memByte (s.core c).mem a

/-- Everything outside the issuing core stands as before. -/
def SameElsewhere (s t : State) : Prop := t = { s with cores := t.cores } ∧ ∀ c, c ≠ s.curCore → t.core c = s.core c

/-- Everything of the issuing core outside the issuing context stands as before, but for the use of the issue slot. -/
def SameCore (s t : State) : Prop :=
  t.myCore = { s.myCore with
      ctxs := t.myCore.ctxs, issued := t.myCore.issued, tried := t.myCore.tried, lastCtx := t.myCore.lastCtx
      passed := t.myCore.passed, spent := t.myCore.spent }
    ∧ ∀ n, n ≠ s.curCtx → t.myCore.ctx n = s.myCore.ctx n

/-- Of the issuing context, only its registers, `ctl.flags` and `ctl.amax`, its program counter and what belongs to issuing
have changed: every other control register, its tables, events, link stack and batches stand as before. -/
def SameContext (s t : State) : Prop :=
  t.me = { s.me with
    s := t.me.s, v := t.me.v, k := t.me.k, flags := t.me.flags, amax := t.me.amax, pc := t.me.pc, pend := t.me.pend
    sent := t.me.sent, nextIssue := t.me.nextIssue, ready := t.me.ready, fline := t.me.fline
    wdogCount := t.me.wdogCount, passOver := t.me.passOver }

/-- The registers that no destination of an instruction names stand as before. -/
def SameRegisters (i : Instr) (s t : State) : Prop :=
  let dests := (i.operands.filter (·.dst)).map (·.code)
  (∀ r, sCode r ∉ dests → t.me.getS r = s.me.getS r) ∧ (∀ r, vCode r ∉ dests → t.me.getV r = s.me.getV r)
    ∧ (∀ r, kCode r ∉ dests → t.me.getK r = s.me.getK r)

/-- The frame of an instruction that only writes registers. -/
def OnlyRegisters (i : Instr) (s t : State) : Prop :=
  SameRegisters i s t ∧ SameContext s t ∧ SameCore s t ∧ SameElsewhere s t ∧ SameMemory s t

/-- The instructions of the scalar unit that only write registers (R110 to R121, R125), divisions apart. -/
def scalarOnly : Instr → Bool
  | .add .. | .sub .. | .and .. | .or .. | .xor .. | .andn .. | .shl .. | .shr .. | .sra .. | .rol .. | .min .. | .max .. | .minu ..
  | .maxu .. | .addImm .. | .subImm .. | .andImm .. | .orImm .. | .xorImm .. | .andnImm .. | .shlImm .. | .shrImm .. | .sraImm ..
  | .rolImm .. | .minImm .. | .maxImm .. | .minuImm .. | .maxuImm .. | .mul .. | .mulh .. | .mulhu .. | .clz .. | .ctz .. | .popc ..
  | .sext .. | .zext .. | .bext .. | .bins .. | .cmpEq .. | .cmpNe .. | .cmpLt .. | .cmpGe .. | .cmpLtu .. | .cmpGeu ..
  | .cmpEqImm .. | .cmpNeImm .. | .cmpLtImm .. | .cmpGeImm .. | .cmpLtuImm .. | .cmpGeuImm .. | .sel .. | .plogAnd .. | .plogOr ..
  | .plogXor .. | .plogAndn .. | .movi .. | .mov .. | .lea .. | .gaddr .. => true
  | _ => false

/-- The instructions that write registers and may merge flags (R102, R103): divisions, floating point and packed SIMD. -/
def mergesFlagsOnly : Instr → Bool
  | .div .. | .divu .. | .rem .. | .remu .. | .fadd .. | .fsub .. | .fmul .. | .fdiv .. | .fmin .. | .fmax .. | .fsqrt .. | .fma ..
  | .fms .. | .fnma .. | .fcmpEq .. | .fcmpNe .. | .fcmpLt .. | .fcmpGe .. | .fcmpUn .. | .fcvt .. | .fclass .. | .vadd .. | .vsub ..
  | .vmul .. | .vmin .. | .vmax .. | .vand .. | .vor .. | .vxor .. | .vandn .. | .vshl .. | .vshr .. | .vsra .. | .vfma .. | .vfms ..
  | .vfnma .. | .vcmpEq .. | .vcmpNe .. | .vcmpLt .. | .vcmpGe .. | .vcmpLtu .. | .vcmpGeu .. | .vcmpUn .. | .vsel .. | .vabs ..
  | .vneg .. | .vdot .. | .vsum .. | .vcvt .. | .vtag .. | .vgtag .. | .vsplat .. | .vext .. | .vins .. | .vperm .. | .vpack ..
  | .vunpkLo .. | .vunpkHi .. | .vsfnExp2 .. | .vsfnLog2 .. | .vsfnRcp .. | .vsfnRsqrt .. | .vsfnTanh .. | .vsfnSigm .. | .vsfnSilu ..
  | .vsfnErf .. => true
  | _ => false

/-! ## Invariants -/

/-- Every memory of the module is in its canonical form. -/
def State.memOk (s : State) : Prop := memWf s.mem = true ∧ memWf s.stack = true ∧ memWf s.hostMem = true

/-- A step goes on: it ends in no fault and no refusal. -/
def stepsOn (s : State) : Prop := ∃ t, step s = .next t

/-! ## The scalar results as the rules give them -/

/-- R110 and R111, and `sext`, `zext` of R114, over the values of numbers: the result of an operation on a and b. -/
def aluSpec (i : Instr) (a b : Word) : Option Word :=
  let n := b.toNat % 64
  let w := if n = 0 then 64 else n
  match i with
  | .add .. | .addImm .. => some (BitVec.ofNat 64 (a.toNat + b.toNat))
  | .sub .. | .subImm .. => some (BitVec.ofInt 64 (a.toInt - b.toInt))
  | .and .. | .andImm .. => some (BitVec.ofNat 64 (a.toNat &&& b.toNat))
  | .or .. | .orImm .. => some (BitVec.ofNat 64 (a.toNat ||| b.toNat))
  | .xor .. | .xorImm .. => some (BitVec.ofNat 64 (a.toNat ^^^ b.toNat))
  | .andn .. | .andnImm .. => some (BitVec.ofNat 64 (a.toNat &&& (2 ^ 64 - 1 - b.toNat)))
  | .shl .. | .shlImm .. => some (BitVec.ofNat 64 (a.toNat * 2 ^ n))
  | .shr .. | .shrImm .. => some (BitVec.ofNat 64 (a.toNat / 2 ^ n))
  | .sra .. | .sraImm .. => some (BitVec.ofInt 64 (a.toInt / 2 ^ n))
  | .rol .. | .rolImm .. => some (BitVec.ofNat 64 (a.toNat * 2 ^ n + a.toNat / 2 ^ (64 - n)))
  | .min .. | .minImm .. => some (if a.toInt ≤ b.toInt then a else b)
  | .max .. | .maxImm .. => some (if b.toInt ≤ a.toInt then a else b)
  | .minu .. | .minuImm .. => some (if a.toNat ≤ b.toNat then a else b)
  | .maxu .. | .maxuImm .. => some (if b.toNat ≤ a.toNat then a else b)
  | .mul .. => some (BitVec.ofInt 64 (a.toInt * b.toInt))
  | .mulh .. => some (BitVec.ofInt 64 (a.toInt * b.toInt / 2 ^ 64))
  | .mulhu .. => some (BitVec.ofNat 64 (a.toNat * b.toNat / 2 ^ 64))
  | .sext .. => some (BitVec.ofInt 64 (Int.bmod a.toNat (2 ^ w)))
  | .zext .. => some (BitVec.ofNat 64 (a.toNat % 2 ^ w))
  | .bext _ _ _ _ len => some (BitVec.ofNat 64 (a.toNat / 2 ^ n % 2 ^ len.toNat))
  | _ => none

/-- The destination and the two operands of an instruction of R110, R111, R114 or `bext` of R115. -/
def aluOperands (i : Instr) (c : Ctx) : Option (SReg × Word × Word) :=
  match i with
  | .add _ d a b | .sub _ d a b | .and _ d a b | .or _ d a b | .xor _ d a b | .andn _ d a b | .shl _ d a b | .shr _ d a b
  | .sra _ d a b | .rol _ d a b | .min _ d a b | .max _ d a b | .minu _ d a b | .maxu _ d a b | .mul _ d a b | .mulh _ d a b
  | .mulhu _ d a b | .sext _ d a b | .zext _ d a b | .bext _ d a b _ => some (d, readSC c a, readSC c b)
  | .addImm _ d a x | .subImm _ d a x | .andImm _ d a x | .orImm _ d a x | .xorImm _ d a x | .andnImm _ d a x
  | .shlImm _ d a x | .shrImm _ d a x | .sraImm _ d a x | .rolImm _ d a x | .minImm _ d a x | .maxImm _ d a x
  | .minuImm _ d a x | .maxuImm _ d a x => some (d, readSC c a, x)
  | _ => none

/-- R116: the outcome of a comparison of a and b. -/
def cmpSpec (i : Instr) (a b : Word) : Option Bool :=
  match i with
  | .cmpEq .. | .cmpEqImm .. => some (decide (a = b))
  | .cmpNe .. | .cmpNeImm .. => some (decide (a ≠ b))
  | .cmpLt .. | .cmpLtImm .. => some (decide (a.toInt < b.toInt))
  | .cmpGe .. | .cmpGeImm .. => some (decide (b.toInt ≤ a.toInt))
  | .cmpLtu .. | .cmpLtuImm .. => some (decide (a.toNat < b.toNat))
  | .cmpGeu .. | .cmpGeuImm .. => some (decide (b.toNat ≤ a.toNat))
  | _ => none

/-- The destinations and operands of a comparison. -/
def cmpOperands (i : Instr) (c : Ctx) : Option (KReg × KReg × Word × Word) :=
  match i with
  | .cmpEq _ kt kf a b | .cmpNe _ kt kf a b | .cmpLt _ kt kf a b | .cmpGe _ kt kf a b | .cmpLtu _ kt kf a b
  | .cmpGeu _ kt kf a b => some (kt, kf, readSC c a, readSC c b)
  | .cmpEqImm _ kt kf a x | .cmpNeImm _ kt kf a x | .cmpLtImm _ kt kf a x | .cmpGeImm _ kt kf a x | .cmpLtuImm _ kt kf a x
  | .cmpGeuImm _ kt kf a x => some (kt, kf, readSC c a, x)
  | _ => none

/-! ## Floating point and packed SIMD -/

/-- R127 to R129: the destination, the format and the exact result with its own flags of an instruction of OP 0x20 or 0x21. -/
def floatSpec (i : Instr) (s : State) : Option (SReg × Bool × Num × BitVec 7) :=
  match i with
  | .fadd _ r a b d => some (r, d, numAdd (readF d s a) (readF d s b))
  | .fsub _ r a b d => some (r, d, numSub (readF d s a) (readF d s b))
  | .fmul _ r a b d => some (r, d, numMul (readF d s a) (readF d s b))
  | .fdiv _ r a b d => some (r, d, numDiv (readF d s a) (readF d s b))
  | .fmin _ r a b d => some (r, d, numMinMax false (readF d s a) (readF d s b))
  | .fmax _ r a b d => some (r, d, numMinMax true (readF d s a) (readF d s b))
  | .fsqrt _ r a d => some (r, d, numSqrt (readF d s a))
  | .fma _ r a b c d => some (r, d, numFma false false (readF d s a) (readF d s b) (readF d s c))
  | .fms _ r a b c d => some (r, d, numFma false true (readF d s a) (readF d s b) (readF d s c))
  | .fnma _ r a b c d => some (r, d, numFma true false (readF d s a) (readF d s b) (readF d s c))
  | _ => none

/-- R130: the destinations, the outcome and the flags of `fcmp`. -/
def fcmpSpec (i : Instr) (s : State) : Option (KReg × KReg × Bool × BitVec 7) :=
  let out (c : FCmp) (kt kf : KReg) (a b : SReg) (d : Bool) : Option (KReg × KReg × Bool × BitVec 7) :=
    some (kt, kf, fcmpOutcome c (readF d s a) (readF d s b))
  match i with
  | .fcmpEq _ kt kf a b d => out .eq kt kf a b d
  | .fcmpNe _ kt kf a b d => out .ne kt kf a b d
  | .fcmpLt _ kt kf a b d => out .lt kt kf a b d
  | .fcmpGe _ kt kf a b d => out .ge kt kf a b d
  | .fcmpUn _ kt kf a b d => out .un kt kf a b d
  | _ => none

/-- R151 and R154: a lane-wise instruction of two v sources: its operands, the tags it accepts, and one lane's result with
its flags from the scale base, the tag and two lanes. -/
def laneSpec (i : Instr) : Option (VReg × VSrc × VSrc × List Tag × (Int → Tag → Nat → Nat → Nat × BitVec 7)) :=
  let values : List Tag := [.i8, .q4, .t6, .t8, .bf16, .fp16, .fp32, .i16, .i32, .i64]
  let raw : List Tag := [.b128, .i8, .i16, .i32, .i64]
  let every : List Tag := .b128 :: values
  match i with
  | .vadd _ d a b => some (d, a, b, values, arithLane numAdd)
  | .vsub _ d a b => some (d, a, b, values, arithLane numSub)
  | .vmul _ d a b => some (d, a, b, values, arithLane numMul)
  | .vmin _ d a b => some (d, a, b, values, minMaxLane false)
  | .vmax _ d a b => some (d, a, b, values, minMaxLane true)
  | .vand _ d a b => some (d, a, b, every, fun _ _ x y => (x &&& y, 0))
  | .vor _ d a b => some (d, a, b, every, fun _ _ x y => (x ||| y, 0))
  | .vxor _ d a b => some (d, a, b, every, fun _ _ x y => (x ^^^ y, 0))
  | .vandn _ d a b => some (d, a, b, every, fun _ t x y => (x &&& (2 ^ t.width - 1 - y), 0))
  | .vshl _ d a b => some (d, a, b, raw, fun _ t x y => (x * 2 ^ (y % t.width) % 2 ^ t.width, 0))
  | .vshr _ d a b => some (d, a, b, raw, fun _ t x y => (x / 2 ^ (y % t.width), 0))
  | .vsra _ d a b => some (d, a, b, raw, fun _ t x y =>
      ((signedOf t.width x / 2 ^ (y % t.width) % 2 ^ t.width).toNat, 0))
  | .vcmpEq _ d a b => some (d, a, b, every, maskLane (cmpLane .eq))
  | .vcmpNe _ d a b => some (d, a, b, every, maskLane (cmpLane .ne))
  | .vcmpLt _ d a b => some (d, a, b, values, maskLane (cmpLane .lt))
  | .vcmpGe _ d a b => some (d, a, b, values, maskLane (cmpLane .ge))
  | .vcmpLtu _ d a b => some (d, a, b, raw, fun _ t x y => (if x < y then 2 ^ t.width - 1 else 0, 0))
  | .vcmpGeu _ d a b => some (d, a, b, raw, fun _ t x y => (if y ≤ x then 2 ^ t.width - 1 else 0, 0))
  | .vcmpUn _ d a b => some (d, a, b, [.t6, .t8, .bf16, .fp16, .fp32], maskLane (cmpLane .un))
  | _ => none

end Sys2Proof.Machine
end

