-- ==== Sys2Proof/Certificates/Slice0/Obligations.lean ====
section
/-! DEFINITION. The statements for the provers: definitions of propositions, none of them proved here. Each docstring says
which rules of the spec it formalises, and names the log entry of a clause that is the model's own choice. -/

open Sys2Proof Sys2Proof.Machine

/-! ## The scalar unit -/

/-- R110, R111, R114, R115: each of the 13 operations in both formats, the three products, `sext`, `zext` and `bext` retires
with its result in D0, for every destination (s0 discards the write) and all operands. -/
def Obligations.ScalarResults : Prop :=
  ∀ (i : Instr) (s : State) (d : SReg) (a b r : Word),
    aluOperands i s.me = some (d, a, b) → aluSpec i a b = some r → Issues i s →
    exec i s = .next (retired i s (wrS (countIssue s) d r))

/-- R113: `clz`, `ctz` and `popc` write the count of leading zero bits, of trailing zero bits and of one bits.
R115: bit j of a `bins` result is bit j − pos of f within the field and bit j of a outside it; shifted bits beyond 63 are
dropped. -/
def Obligations.BitOperations : Prop :=
  (∀ (h : Header) (d : SReg) (a : SCon) (s : State),
     let x := readSC s.me a
     (Issues (.clz h d a) s → ∃ n : Nat, n ≤ 64 ∧ (∀ j, 64 - n ≤ j → x.getLsbD j = false) ∧ (n < 64 → x.getLsbD (63 - n) = true)
       ∧ exec (.clz h d a) s = .next (retired (.clz h d a) s (wrS (countIssue s) d (BitVec.ofNat 64 n))))
     ∧ (Issues (.ctz h d a) s → ∃ n : Nat, n ≤ 64 ∧ (∀ j, j < n → x.getLsbD j = false) ∧ (n < 64 → x.getLsbD n = true)
       ∧ exec (.ctz h d a) s = .next (retired (.ctz h d a) s (wrS (countIssue s) d (BitVec.ofNat 64 n))))
     ∧ (Issues (.popc h d a) s →
       exec (.popc h d a) s = .next (retired (.popc h d a) s (wrS (countIssue s) d
         (BitVec.ofNat 64 (Finset.univ.filter (fun j : Fin 64 => x.getLsbD j = true)).card))))) ∧
  (∀ (h : Header) (d : SReg) (a f p : SCon) (len : BitVec 7) (s : State),
     Issues (.bins h d a f p len) s → 1 ≤ len.toNat → len.toNat ≤ 64 →
     let pos := (readSC s.me p).toNat % 64
     ∃ r : Word, exec (.bins h d a f p len) s = .next (retired (.bins h d a f p len) s (wrS (countIssue s) d r))
       ∧ ∀ j, j < 64 → r.getLsbD j =
         if pos ≤ j ∧ j < pos + len.toNat then (readSC s.me f).getLsbD (j - pos) else (readSC s.me a).getLsbD j)

/-- R112: a division by a divisor that is not zero writes the quotient truncated toward zero or the remainder with the sign
of the dividend, −2^63 by −1 giving −2^63 and 0; by zero with DZT set it raises DIVZERO with `ctl.einfo` = 0 and has no
effect; with DZT clear it writes all ones or the dividend and merges the divide-by-zero flag. Each retires with the latency
of R109, from w, the number of significant bits in the magnitude of the quotient. -/
def Obligations.Division : Prop :=
  ∀ (h : Header) (d : SReg) (a b : SCon) (s : State),
    let x := readSC s.me a
    let y := readSC s.me b
    let lat (q : Nat) : Nat := 6 + (Nat.size q + 1) / 2
    let sq := (x.toInt.tdiv y.toInt).natAbs
    (∀ i q r w, (i = .div h d a b ∧ q = true ∧ r = BitVec.ofInt 64 (x.toInt.tdiv y.toInt) ∧ w = sq)
        ∨ (i = .rem h d a b ∧ q = false ∧ r = BitVec.ofInt 64 (x.toInt - y.toInt * x.toInt.tdiv y.toInt) ∧ w = sq)
        ∨ (i = .divu h d a b ∧ q = true ∧ r = BitVec.ofNat 64 (x.toNat / y.toNat) ∧ w = x.toNat / y.toNat)
        ∨ (i = .remu h d a b ∧ q = false ∧ r = BitVec.ofNat 64 (x.toNat % y.toNat) ∧ w = x.toNat / y.toNat) →
      Issues i s →
      (y ≠ 0 → exec i s = .next (retiredAfter i (lat w) s (wrS (countIssue s) d r)))
      ∧ (y = 0 → s.me.dzt = true → exec i s = .next (trapMe (countIssue s) .divzero 0))
      ∧ (y = 0 → s.me.dzt = false → exec i s = .next (retiredAfter i 6 s
          (mergeFlags (wrS (countIssue s) d (if q then BitVec.allOnes 64 else x)) 0x02))))

/-- R116: a comparison sets kt to its outcome and kf to the complement, in both formats; k0 discards either write.
R118: the four functions of `plog` on two predicates. -/
def Obligations.Predicates : Prop :=
  (∀ (i : Instr) (s : State) (kt kf : KReg) (a b : Word) (r : Bool),
     cmpOperands i s.me = some (kt, kf, a, b) → cmpSpec i a b = some r → Issues i s →
     exec i s = .next (retired i s (wrK (wrK (countIssue s) kt r) kf (!r)))) ∧
  (∀ (h : Header) (d a b : KReg) (s : State),
     let x := readK s.me a
     let y := readK s.me b
     (Issues (.plogAnd h d a b) s → exec (.plogAnd h d a b) s = .next (retired (.plogAnd h d a b) s (wrK (countIssue s) d (x && y))))
     ∧ (Issues (.plogOr h d a b) s → exec (.plogOr h d a b) s = .next (retired (.plogOr h d a b) s (wrK (countIssue s) d (x || y))))
     ∧ (Issues (.plogXor h d a b) s →
         exec (.plogXor h d a b) s = .next (retired (.plogXor h d a b) s (wrK (countIssue s) d (x != y))))
     ∧ (Issues (.plogAndn h d a b) s →
         exec (.plogAndn h d a b) s = .next (retired (.plogAndn h d a b) s (wrK (countIssue s) d (x && !y)))))

/-- R117, R119, R120, R121: `sel`, `movi`, the three forms of `mov` and `lea`. A modifier of `mov` whose segment holds less
than one element raises TAG with REASON 1 instead (R145, R146). -/
def Obligations.SelectsAndMoves : Prop :=
  ∀ (h : Header) (d : SReg) (k k' : KReg) (a b : SCon) (imm : Word) (ea : Addr) (v : VReg) (x : VSrc) (s : State),
    (Issues (.sel h d k a b) s → exec (.sel h d k a b) s = .next (retired (.sel h d k a b) s
      (wrS (countIssue s) d (if readK s.me k = true then readSC s.me a else readSC s.me b))))
    ∧ (Issues (.movi h d imm) s → exec (.movi h d imm) s = .next (retired (.movi h d imm) s (wrS (countIssue s) d imm)))
    ∧ (Issues (.mov h (.s d a)) s →
        exec (.mov h (.s d a)) s = .next (retired (.mov h (.s d a)) s (wrS (countIssue s) d (readSC s.me a))))
    ∧ (Issues (.mov h (.k k k')) s →
        exec (.mov h (.k k k')) s = .next (retired (.mov h (.k k k')) s (wrK (countIssue s) k (readK s.me k'))))
    ∧ (Issues (.mov h (.v v x)) s → modBad (s.me.getV x.r) x.mod = false →
        exec (.mov h (.v v x)) s = .next (retired (.mov h (.v v x)) s (wrV (countIssue s) v (applyModifier (s.me.getV x.r) x.mod))))
    ∧ (Issues (.mov h (.v v x)) s → modBad (s.me.getV x.r) x.mod = true →
        exec (.mov h (.v v x)) s
          = .next (trapMe (countIssue s) .tag (BitVec.ofNat 64 (4096 + (s.me.getV x.r).tag.bits.toNat))))
    ∧ (Issues (.lea h d ea) s → exec (.lea h d ea) s = .next (retired (.lea h d ea) s (wrS (countIssue s) d
        (BitVec.ofInt 64 ((s.me.getS ea.base.r).toNat + (s.me.getS ea.idx.r).toNat * 2 ^ ea.scl.toNat + ea.disp.toInt)))))

/-- R125: `gaddr` maps an offset by the entry of the distribution table: granule number, slab and granule within the slab;
an index outside 0 to 15 raises ILLEGAL with `ctl.einfo` = 50.
R123, R124: `dtset` writes an entry that R123 allows, so that later reads of that index give it and other entries stand
as before; an index outside 0 to 15 raises ILLEGAL with 50, and an entry that R123 does not allow raises ILLEGAL with 128 plus
the lowest bit of the first failing field from bit 63 down, and neither changes anything. Where both fail, 50 is the model's choice
(log 16; R124 gives no order). -/
def Obligations.DistributionTable : Prop :=
  (∀ (h : Header) (d : SReg) (e o : SCon) (s : State), Issues (.gaddr h d e o) s →
     let i := (readSC s.me e).toNat
     let t := sparseGet 0 s.me.dt i
     let x := readSC s.me o
     let n := (t.extractLsb' 47 2).toNat
     let l := (t.extractLsb' 41 6).toNat
     let g := (t.extractLsb' 36 5).toNat
     let base := (t.extractLsb' 0 36).toNat
     let c := x.toNat / 2 ^ g
     (16 ≤ i → exec (.gaddr h d e o) s = .next (trapMe (countIssue s) .illegal 50))
     ∧ (i < 16 → exec (.gaddr h d e o) s = .next (retired (.gaddr h d e o) s (wrS (countIssue s) d
         (if n = 0 then x
          else BitVec.ofNat 64 ((base * 2 ^ 21 + c % 2 ^ n * 2 ^ l + c / 2 ^ n * 2 ^ g + x.toNat % 2 ^ g) % 2 ^ 57)))))) ∧
  (∀ (h : Header) (e : SCon) (x : SReg) (s : State), Issues (.dtset h e x) s →
     let i := (readSC s.me e).toNat
     let v := readS s.me x
     let n := (v.extractLsb' 47 2).toNat
     let l := (v.extractLsb' 41 6).toNat
     let g := (v.extractLsb' 36 5).toNat
     let reserved := v.extractLsb' 49 15 ≠ 0
     let dies := n = 0 ∧ (l ≠ 0 ∨ g ≠ 0)
     let slab := n ≠ 0 ∧ (l < 21 ∨ 56 < l ∨ l < g)
     let gran := n ≠ 0 ∧ (g < 9 ∨ 30 < g)
     (16 ≤ i → exec (.dtset h e x) s = .next (trapMe (countIssue s) .illegal 50))
     ∧ (i < 16 → reserved → exec (.dtset h e x) s = .next (trapMe (countIssue s) .illegal (128 + 49)))
     ∧ (i < 16 → ¬reserved → dies → exec (.dtset h e x) s = .next (trapMe (countIssue s) .illegal (128 + 47)))
     ∧ (i < 16 → ¬reserved → slab → exec (.dtset h e x) s = .next (trapMe (countIssue s) .illegal (128 + 41)))
     ∧ (i < 16 → ¬reserved → ¬slab → gran → exec (.dtset h e x) s = .next (trapMe (countIssue s) .illegal (128 + 36)))
     ∧ (i < 16 → ¬reserved → ¬dies → ¬slab → ¬gran → ∃ t,
         exec (.dtset h e x) s = .next (retired (.dtset h e x) s ((countIssue s).setMe { (countIssue s).me with dt := t }))
           ∧ sparseGet 0 t i = v ∧ ∀ j, j ≠ i → sparseGet 0 t j = sparseGet 0 s.me.dt j))

/-! ## Floating point -/

/-- R126 to R132: the ten arithmetic instructions of OP 0x20 and 0x21 write the exact result rounded once and merge its flags;
`fcmp` writes an outcome and its complement and merges flags; `fcvt` writes the converted value and merges its flags; `fclass`
writes the one bit of ten that R132 gives the class of its operand, read from its sign, exponent and fraction, and merges no flag.
R126, R98: an arithmetic instruction of OP 0x20 FN 0 to 3, or of OP 0x21, with a NaN operand writes the canonical NaN of
its format, with no flag when no operand is signalling; a signalling operand merges the invalid flag. -/
def Obligations.FloatArithmetic : Prop :=
  (∀ (i : Instr) (s : State), Issues i s →
     (∀ r d x, floatSpec i (countIssue s) = some (r, d, x) → exec i s = .next (retired i s (wrF (countIssue s) r d x)))
     ∧ (∀ kt kf o f, fcmpSpec i (countIssue s) = some (kt, kf, o, f) →
         exec i s = .next (retired i s (mergeFlags (wrK (wrK (countIssue s) kt o) kf (!o)) f)))
     ∧ (∀ h r a src dst rnd, i = .fcvt h r a src dst rnd →
         let y := convertKind dst rnd (kindValue src (readS s.me a))
         exec i s = .next (retired i s (mergeFlags (wrS (countIssue s) r y.1) y.2)))
     ∧ (∀ h r a d, i = .fclass h r a d →
         let x := (readS s.me a).toNat
         let eb := if d then 11 else 8
         let fb := if d then 52 else 23
         let neg := x / 2 ^ (eb + fb) % 2 = 1
         let e := x / 2 ^ fb % 2 ^ eb
         let f := x % 2 ^ fb
         let n := if e = 2 ^ eb - 1 then (if f = 0 then (if neg then 0 else 7) else if 2 ^ (fb - 1) ≤ f then 9 else 8)
           else if e = 0 then (if f = 0 then (if neg then 3 else 4) else if neg then 2 else 5)
           else if neg then 1 else 6
         exec i s = .next (retired i s (wrS (countIssue s) r (BitVec.ofNat 64 (2 ^ n)))))) ∧
  (∀ (h : Header) (r a b c : SReg) (d : Bool) (s : State),
     let x := readF d s a
     let y := readF d s b
     let z := readF d s c
     let nan : Word := if d then 0x7FF8000000000000 else 0x7FC00000
     let flags (ls : List Machine.Num) : BitVec 7 := if ls.any Machine.Num.isSig then 0x01 else 0
     (∀ i, i = .fadd h r a b d ∨ i = .fsub h r a b d ∨ i = .fmul h r a b d ∨ i = .fdiv h r a b d → Issues i s →
       (x.isNan = true ∨ y.isNan = true) →
       exec i s = .next (retired i s (mergeFlags (wrS (countIssue s) r nan) (flags [x, y]))))
     ∧ (∀ i, i = .fma h r a b c d ∨ i = .fms h r a b c d ∨ i = .fnma h r a b c d → Issues i s →
       (x.isNan = true ∨ y.isNan = true) →
       exec i s = .next (retired i s (mergeFlags (wrS (countIssue s) r nan) (flags [x, y, z])))))

/-! ## Packed SIMD -/

/-- R145, R151, R154: the 19 lane-wise instructions of two v sources. A modifier whose segment holds less than one element
raises TAG with REASON 1 and the tags of both sources; then two different tags, or a tag the instruction does not accept,
raise TAG with REASON 0; otherwise every lane of the result is the lane function of the two lanes, with the sources' tag, and
the flags of all lanes are merged.
R71, R152, R153, R155: the fused operations, `vabs`, `vneg` and `vsel` on sources of accepted tags; a bad modifier raises TAG with
REASON 1, and tags that the instruction does not accept with REASON 0 and the tags of its v sources. -/
def Obligations.VectorLanes : Prop :=
  (∀ (i : Instr) (s : State) (d : VReg) (a b : VSrc) (tags : List Tag) (f : Int → Tag → Nat → Nat → Nat × BitVec 7),
     laneSpec i = some (d, a, b, tags, f) → Issues i s →
     let x := applyModifier (s.me.getV a.r) a.mod
     let y := applyModifier (s.me.getV b.r) b.mod
     let tx := (s.me.getV a.r).tag
     let ty := (s.me.getV b.r).tag
     let bad := modBad (s.me.getV a.r) a.mod || modBad (s.me.getV b.r) b.mod
     let info (reason : Nat) : Word := BitVec.ofNat 64 (4096 * reason + 16 * ty.bits.toNat + tx.bits.toNat)
     let r := (List.range tx.lanes).map (fun n => f s.me.scale.toInt tx (lane x n) (lane y n))
     (bad = true → exec i s = .next (trapMe (countIssue s) .tag (info 1)))
     ∧ (bad = false → (tx ≠ ty ∨ tx ∉ tags) → exec i s = .next (trapMe (countIssue s) .tag (info 0)))
     ∧ (bad = false → tx = ty → tx ∈ tags →
         exec i s = .next (retired i s (mergeFlags (wrV (countIssue s) d (packLanes tx (r.map (·.1)))) ((r.map (·.2)).foldl (· ||| ·) 0))))) ∧
  (∀ (h : Header) (d c : VReg) (a b : VSrc) (s : State),
     let x := applyModifier (s.me.getV a.r) a.mod
     let y := applyModifier (s.me.getV b.r) b.mod
     let z := s.me.getV c.r
     let ok := modBad (s.me.getV a.r) a.mod = false ∧ modBad (s.me.getV b.r) b.mod = false
     let done (i : Instr) (t : Tag) (r : List (Nat × BitVec 7)) : Prop :=
       exec i s = .next (retired i s (mergeFlags (wrV (countIssue s) d (packLanes t (r.map (·.1)))) ((r.map (·.2)).foldl (· ||| ·) 0)))
     let fused (np na : Bool) : List (Nat × BitVec 7) :=
       (List.range x.tag.lanes).map (fun n => fmaLane np na s.me.scale.toInt x.tag (lane x n) (lane y n) (lane z n))
     let one (f : Int → Tag → Nat → Nat × BitVec 7) : List (Nat × BitVec 7) :=
       (List.range x.tag.lanes).map (fun n => f s.me.scale.toInt x.tag (lane x n))
     let okA := modBad (s.me.getV a.r) a.mod = false
     let traps (i : Instr) (reason : Nat) (t1 t2 t3 : Tag) : Prop := exec i s = .next (trapMe (countIssue s) .tag
       (BitVec.ofNat 64 (4096 * reason + 256 * t3.bits.toNat + 16 * t2.bits.toNat + t1.bits.toNat)))
     (Issues (.vfma h d a b c) s → ok → x.tag = y.tag → x.tag = z.tag → x.tag ≠ .b128 → done (.vfma h d a b c) x.tag (fused false false))
     ∧ (Issues (.vfms h d a b c) s → ok → x.tag = y.tag → x.tag = z.tag → x.tag ≠ .b128 → done (.vfms h d a b c) x.tag (fused false true))
     ∧ (Issues (.vfnma h d a b c) s → ok → x.tag = y.tag → x.tag = z.tag → x.tag ≠ .b128 → done (.vfnma h d a b c) x.tag (fused true false))
     ∧ (∀ i, i = .vfma h d a b c ∨ i = .vfms h d a b c ∨ i = .vfnma h d a b c → Issues i s →
         (¬ok → traps i 1 x.tag y.tag z.tag)
         ∧ (ok → (x.tag ≠ y.tag ∨ x.tag ≠ z.tag ∨ x.tag = .b128) → traps i 0 x.tag y.tag z.tag))
     ∧ (Issues (.vabs h d a) s → okA → x.tag ≠ .b128 → done (.vabs h d a) x.tag (one absLane))
     ∧ (Issues (.vneg h d a) s → okA → x.tag ≠ .b128 → done (.vneg h d a) x.tag (one negLane))
     ∧ (∀ i, i = .vabs h d a ∨ i = .vneg h d a → Issues i s →
         (¬okA → traps i 1 x.tag .b128 .b128) ∧ (okA → x.tag = .b128 → traps i 0 .b128 .b128 .b128))
     ∧ (Issues (.vsel h d a b c) s → (¬ok → traps (.vsel h d a b c) 1 x.tag y.tag z.tag)
         ∧ (ok → y.tag ≠ z.tag → traps (.vsel h d a b c) 0 x.tag y.tag z.tag))
     ∧ (Issues (.vsel h d a b c) s → ok → y.tag = z.tag →
         exec (.vsel h d a b c) s = .next (retired (.vsel h d a b c) s (wrV (countIssue s) d
           (trimT6 { bits := (x.bits &&& y.bits) ||| (~~~x.bits &&& z.bits), tag := y.tag })))))

/-- R98, R156: `vdot` and `vsum` over segments of 2^n bytes: I8 sums into I32, I16 and I32 into I64, the floating, tapered and
scaled formats into FP32; sum j stands in lane j, and the lanes beyond the segments are 0. A source of tag 0 or 10, two tags of a
`vdot` that differ, a segment of less than one element, and more segments than the result has lanes raise TAG. A `vsum` of one FP32
element each is a copy, but for a signalling NaN, where R156 is read before R98 (log 48). -/
def Obligations.VectorSums : Prop :=
  ∀ (h : Header) (d : VReg) (a b : VSrc) (seg : BitVec 3) (s : State) (rt : Tag),
    let x := applyModifier (s.me.getV a.r) a.mod
    let y := applyModifier (s.me.getV b.r) b.mod
    let c := 16 / 2 ^ seg.toNat
    let n := x.tag.lanes * 2 ^ seg.toNat / 16
    let lv := Nat.log2 n
    let sb := s.me.scale.toInt
    let lanes (leaf : Nat → Machine.Num × BitVec 7) : List (Nat × BitVec 7) :=
      (List.range rt.lanes).map (fun j => if j < c then segSum rt lv ((List.range n).map (fun e => leaf (j * n + e))) else (0, 0))
    let done (i : Instr) (r : List (Nat × BitVec 7)) : Prop :=
      exec i s = .next (retired i s (mergeFlags (wrV (countIssue s) d (packLanes rt (r.map (·.1)))) ((r.map (·.2)).foldl (· ||| ·) 0)))
    let traps (i : Instr) (reason : Nat) (t2 : Tag) : Prop :=
      exec i s = .next (trapMe (countIssue s) .tag (BitVec.ofNat 64 (4096 * reason + 16 * t2.bits.toNat + x.tag.bits.toNat)))
    let badA := modBad (s.me.getV a.r) a.mod
    let badB := modBad (s.me.getV b.r) b.mod
    let sums : Prop := x.tag ≠ .b128 ∧ x.tag ≠ .i64
    (Issues (.vdot h d a b seg) s →
      ((badA || badB) = true → traps (.vdot h d a b seg) 1 y.tag)
      ∧ ((badA || badB) = false → (¬sums ∨ x.tag ≠ y.tag) → traps (.vdot h d a b seg) 0 y.tag)
      ∧ ((badA || badB) = false → sums → x.tag = y.tag → n = 0 → traps (.vdot h d a b seg) 1 y.tag)) ∧
    (Issues (.vsum h d a seg) s →
      (badA = true → traps (.vsum h d a seg) 1 .b128)
      ∧ (badA = false → ¬sums → traps (.vsum h d a seg) 0 .b128)
      ∧ (badA = false → sums → n = 0 → traps (.vsum h d a seg) 1 .b128)) ∧
    (((x.tag = .i8 ∧ rt = .i32) ∨ ((x.tag = .i16 ∨ x.tag = .i32) ∧ rt = .i64)
      ∨ (x.tag ∈ [Tag.q4, .t6, .t8, .bf16, .fp16, .fp32] ∧ rt = .fp32)) → 1 ≤ n → badA = false →
    (Issues (.vdot h d a b seg) s → badB = false → x.tag = y.tag →
      (c ≤ rt.lanes → done (.vdot h d a b seg) (lanes (fun e => dotLeaf sb x.tag (lane x e) (lane y e))))
      ∧ (rt.lanes < c → traps (.vdot h d a b seg) 2 y.tag))
    ∧ (Issues (.vsum h d a seg) s →
      (c ≤ rt.lanes → ¬(n = 1 ∧ x.tag = .fp32) → done (.vsum h d a seg) (lanes (fun e => sumLeaf sb x.tag (lane x e))))
      ∧ (n = 1 → x.tag = .fp32 → done (.vsum h d a seg) ((List.range 4).map (fun e =>
          let b := lane x e
          let nan : Prop := b / 2 ^ 23 % 256 = 255 ∧ b % 2 ^ 23 ≠ 0
          if nan ∧ b / 2 ^ 22 % 2 = 0 then (0x7FC00000, 0x01) else (b, 0))))
      ∧ (rt.lanes < c → traps (.vsum h d a seg) 2 .b128)))

/-- R98, R157 to R159, R104: the conversions. `vcvt` converts the lanes that both formats have and merges the magnitudes of the
converted source lanes into `ctl.amax`; `vpack` halves and `vunpk` doubles the lanes. A source of tag 0, two tags that differ, a
target tag 0 and a target of another number of lanes raise TAG. Between equal tags a quiet NaN keeps its bits, where R157 is read
before R98 (log 48). -/
def Obligations.VectorConversions : Prop :=
  ∀ (h : Header) (d : VReg) (a b : VSrc) (t : Tag) (sb : BitVec 8) (ctl : Bool) (s : State),
    let x := applyModifier (s.me.getV a.r) a.mod
    let y := applyModifier (s.me.getV b.r) b.mod
    let base := (if ctl then s.me.scale else sb).toInt
    let n := min x.tag.lanes t.lanes
    let put (r : List (Nat × BitVec 7)) : State :=
      mergeFlags (wrV (countIssue s) d (packLanes t (r.map (·.1)))) ((r.map (·.2)).foldl (· ||| ·) 0)
    let conv (z : VVal) (e : Nat) : Nat × BitVec 7 := convertElem z.tag t s.me.scale.toInt (lane z e)
    let traps (i : Instr) (reason : Nat) (t2 : Tag) : Prop :=
      exec i s = .next (trapMe (countIssue s) .tag (BitVec.ofNat 64 (4096 * reason + 16 * t2.bits.toNat + x.tag.bits.toNat)))
    let badB := modBad (s.me.getV b.r) b.mod
    (modBad (s.me.getV a.r) a.mod = true →
      (Issues (.vcvt h d a t sb ctl) s → traps (.vcvt h d a t sb ctl) 1 .b128)
      ∧ (Issues (.vpack h d a b t) s → traps (.vpack h d a b t) 1 y.tag)
      ∧ (Issues (.vunpkLo h d a t) s → traps (.vunpkLo h d a t) 1 .b128)
      ∧ (Issues (.vunpkHi h d a t) s → traps (.vunpkHi h d a t) 1 .b128)) ∧
    (modBad (s.me.getV a.r) a.mod = false →
      (∀ i, i = .vcvt h d a t sb ctl ∨ i = .vunpkLo h d a t ∨ i = .vunpkHi h d a t → Issues i s →
        (x.tag = .b128 → traps i 0 .b128) ∧ (x.tag ≠ .b128 → t = .b128 → traps i 3 .b128)
        ∧ (x.tag ≠ .b128 → t ≠ .b128 → i ≠ .vcvt h d a t sb ctl → 2 * t.lanes ≠ x.tag.lanes → traps i 4 .b128))
      ∧ (Issues (.vpack h d a b t) s →
        (badB = true → traps (.vpack h d a b t) 1 y.tag)
        ∧ (badB = false → (x.tag ≠ y.tag ∨ x.tag = .b128) → traps (.vpack h d a b t) 0 y.tag)
        ∧ (badB = false → x.tag = y.tag → x.tag ≠ .b128 → t = .b128 → traps (.vpack h d a b t) 3 y.tag)
        ∧ (badB = false → x.tag = y.tag → x.tag ≠ .b128 → t ≠ .b128 → t.lanes ≠ 2 * x.tag.lanes → traps (.vpack h d a b t) 4 y.tag))) ∧
    (x.tag ≠ .b128 → t ≠ .b128 → modBad (s.me.getV a.r) a.mod = false →
    (Issues (.vcvt h d a t sb ctl) s →
      exec (.vcvt h d a t sb ctl) s = .next (retired (.vcvt h d a t sb ctl) s (mergeAmax
        (put ((List.range t.lanes).map (fun e => if e < n then convertElem x.tag t base (lane x e) else (0, 0))))
        (amaxOf ((List.range n).map (fun e => elemVal x.tag base (lane x e)))))))
    ∧ (Issues (.vpack h d a b t) s → modBad (s.me.getV b.r) b.mod = false → x.tag = y.tag → t.lanes = 2 * x.tag.lanes →
      exec (.vpack h d a b t) s = .next (retired (.vpack h d a b t) s (put ((List.range t.lanes).map (fun e =>
        if e < x.tag.lanes then conv x e else conv y (e - x.tag.lanes))))))
    ∧ (Issues (.vunpkLo h d a t) s → 2 * t.lanes = x.tag.lanes →
      exec (.vunpkLo h d a t) s = .next (retired (.vunpkLo h d a t) s (put ((List.range t.lanes).map (conv x)))))
    ∧ (Issues (.vunpkHi h d a t) s → 2 * t.lanes = x.tag.lanes →
      exec (.vunpkHi h d a t) s = .next (retired (.vunpkHi h d a t) s (put ((List.range t.lanes).map (fun e => conv x (t.lanes + e)))))))

/-- R71, R160 to R165: tags, lanes and permutes. A lane number at or above the lanes of the source raises ILLEGAL with 59 for
`vext` and 68 for `vins`; a bad modifier raises TAG with REASON 1, and a `vperm` of tags that it does not accept with REASON 0. -/
def Obligations.VectorTagsAndLanes : Prop :=
  ∀ (h : Header) (d : VReg) (q : SReg) (a b : VSrc) (v l : SCon) (t : Tag) (s : State),
    let x := applyModifier (s.me.getV a.r) a.mod
    let y := applyModifier (s.me.getV b.r) b.mod
    let n := (readSC s.me l).toNat
    let low (t : Tag) (w : Word) : Nat := w.toNat % 2 ^ t.width
    let traps (i : Instr) (reason : Nat) (t2 : Tag) : Prop := exec i s = .next (trapMe (countIssue s) .tag
      (BitVec.ofNat 64 (4096 * reason + 16 * t2.bits.toNat + x.tag.bits.toNat)))
    (Issues (.vsplat h d v t) s → exec (.vsplat h d v t) s = .next (retired (.vsplat h d v t) s
      (wrV (countIssue s) d (packLanes t (List.replicate t.lanes (low t (readSC s.me v)))))))
    ∧ (modBad (s.me.getV a.r) a.mod = true → ∀ i, i = .vtag h d a t ∨ i = .vgtag h q a ∨ i = .vext h q a l ∨ i = .vins h d a v l →
        Issues i s → traps i 1 .b128)
    ∧ (Issues (.vperm h d a b) s → ((modBad (s.me.getV a.r) a.mod || modBad (s.me.getV b.r) b.mod) = true → traps (.vperm h d a b) 1 y.tag)
        ∧ ((modBad (s.me.getV a.r) a.mod || modBad (s.me.getV b.r) b.mod) = false → (x.tag = .q4 ∨ (y.tag ≠ .b128 ∧ y.tag ≠ .i8)) →
            traps (.vperm h d a b) 0 y.tag))
    ∧ (modBad (s.me.getV a.r) a.mod = false →
      (Issues (.vtag h d a t) s →
        exec (.vtag h d a t) s = .next (retired (.vtag h d a t) s (wrV (countIssue s) d { bits := x.bits, tag := t })))
      ∧ (Issues (.vgtag h q a) s →
        exec (.vgtag h q a) s = .next (retired (.vgtag h q a) s (wrS (countIssue s) q (BitVec.ofNat 64 x.tag.bits.toNat))))
      ∧ (Issues (.vext h q a l) s → n < x.tag.lanes →
        exec (.vext h q a l) s = .next (retired (.vext h q a l) s (wrS (countIssue s) q (BitVec.ofNat 64 (lane x n)))))
      ∧ (Issues (.vext h q a l) s → x.tag.lanes ≤ n → exec (.vext h q a l) s = .next (trapMe (countIssue s) .illegal 59))
      ∧ (Issues (.vins h d a v l) s → n < x.tag.lanes →
        exec (.vins h d a v l) s = .next (retired (.vins h d a v l) s (wrV (countIssue s) d (packLanes x.tag
          ((List.range x.tag.lanes).map (fun e => if e = n then low x.tag (readSC s.me v) else lane x e))))))
      ∧ (Issues (.vins h d a v l) s → x.tag.lanes ≤ n → exec (.vins h d a v l) s = .next (trapMe (countIssue s) .illegal 68))
      ∧ (Issues (.vperm h d a b) s → modBad (s.me.getV b.r) b.mod = false → x.tag ≠ .q4 → (y.tag = .b128 ∨ y.tag = .i8) →
        exec (.vperm h d a b) s = .next (retired (.vperm h d a b) s (wrV (countIssue s) d (packLanes x.tag
          ((List.range x.tag.lanes).map (fun e => lane x ((y.bits.toNat / 256 ^ e % 256) % x.tag.lanes))))))))

/-- R166, R167: the eight special functions on BF16, FP16 and FP32 lanes, each lane correctly rounded with its flags; any
other tag raises TAG with REASON 0. -/
def Obligations.VectorFunctions : Prop :=
  ∀ (h : Header) (d : VReg) (a : VSrc) (s : State) (i : Instr) (f : SFun),
    let x := applyModifier (s.me.getV a.r) a.mod
    let run (fmt : Ieee) : Prop :=
      let r := (List.range x.tag.lanes).map (fun e => sfun f fmt (decodeIeee fmt (lane x e)))
      exec i s = .next (retired i s (mergeFlags (wrV (countIssue s) d (packLanes x.tag (r.map (·.1)))) ((r.map (·.2)).foldl (· ||| ·) 0)))
    (i = .vsfnExp2 h d a ∧ f = .exp2) ∨ (i = .vsfnLog2 h d a ∧ f = .log2) ∨ (i = .vsfnRcp h d a ∧ f = .rcp)
      ∨ (i = .vsfnRsqrt h d a ∧ f = .rsqrt) ∨ (i = .vsfnTanh h d a ∧ f = .tanh) ∨ (i = .vsfnSigm h d a ∧ f = .sigm)
      ∨ (i = .vsfnSilu h d a ∧ f = .silu) ∨ (i = .vsfnErf h d a ∧ f = .erf) →
    Issues i s → modBad (s.me.getV a.r) a.mod = false →
    (x.tag = .bf16 → run fmtBF16) ∧ (x.tag = .fp16 → run fmtFP16) ∧ (x.tag = .fp32 → run fmtFP32)
    ∧ (x.tag ≠ .bf16 → x.tag ≠ .fp16 → x.tag ≠ .fp32 →
        exec i s = .next (trapMe (countIssue s) .tag (BitVec.ofNat 64 x.tag.bits.toNat)))

/-! ## Control flow -/

/-- R56, R133, R134, R137, R138, R140, R141: `nop` and `land` change nothing; `br`, `loop`, `brl` and `ret` transfer. `brl`
pushes pc + 16 on the link stack, whose oldest entry goes to the spill area when 16 stand in hardware, and puts it in s63;
`ret` compares s63 with the newest entry and drops it. LINK is raised with 1 when the stack is full, 0 when it is empty and 2
when the entry differs, ALIGN when s63 is not a multiple of 16.
R139: `jt` through a table in local memory to a target whose line the core holds: the bound, the alignment of the base and
of the target, and the landing word are checked in that order. -/
def Obligations.ControlTransfers : Prop :=
  (∀ (h : Header) (pad : BitVec 16) (fold : Bool) (off : BitVec 40) (c : SReg) (s : State),
     let t : Word := BitVec.ofInt 64 (s.me.pc.toNat + 16 * off.toInt)
     let r := s.me.pc + 16
     let c0 := countIssue s
     let n := readS s.me c
     let spill : Word := BitVec.ofNat 64 (s.me.linkBase.toNat + 8 * s.me.linkSpilled.toNat)
     let top : Word := BitVec.ofNat 64 (s.me.linkBase.toNat + 8 * (s.me.linkSpilled.toNat - 1))
     (Issues (.nop h) s → exec (.nop h) s = .next (retired (.nop h) s c0))
     ∧ (Issues (.land h pad fold) s → exec (.land h pad fold) s = .next (retired (.land h pad fold) s c0))
     ∧ (Issues (.br h off) s → exec (.br h off) s = .next (retiredTo (.br h off) t c0))
     ∧ (Issues (.loop h c off) s →
         (n = 0 → exec (.loop h c off) s = .next (retired (.loop h c off) s c0))
         ∧ (n = 1 → exec (.loop h c off) s = .next (retired (.loop h c off) s (wrS c0 c 0)))
         ∧ (n ≠ 0 → n ≠ 1 → exec (.loop h c off) s = .next (retiredTo (.loop h c off) t (wrS c0 c (n - 1)))))
     ∧ (Issues (.brl h off) s →
         (s.me.link.length < 16 → ∃ u, exec (.brl h off) s = .next (retiredTo (.brl h off) t u)
           ∧ u = c0.setMe ({ c0.me with link := r :: s.me.link }.setS 63 r))
         ∧ (16 ≤ s.me.link.length → s.me.linkSpilled = s.me.linkCap → exec (.brl h off) s = .next (trapMe c0 .link 1))
         ∧ (16 ≤ s.me.link.length → s.me.linkSpilled ≠ s.me.linkCap → LocalOk s spill 8 8 true → ∃ u,
             exec (.brl h off) s = .next (retiredTo (.brl h off) t u)
             ∧ u.me.link = r :: s.me.link.dropLast ∧ u.me.linkSpilled = s.me.linkSpilled + 1 ∧ u.me.getS 63 = r
             ∧ u.myCore.mem = memWrite s.myCore.mem spill.toNat (natBytes 8 (s.me.link.getLastD 0).toNat)))
     ∧ (Issues (.ret h) s →
         (s.me.getS 63 % 16 ≠ 0 → exec (.ret h) s = .next (trapMe c0 .align (s.me.getS 63)))
         ∧ (s.me.getS 63 % 16 = 0 →
           (∀ a l, s.me.link = a :: l → a ≠ s.me.getS 63 → exec (.ret h) s = .next (trapMe c0 .link 2))
           ∧ (∀ l, s.me.link = s.me.getS 63 :: l → s.me.resid = none →
               exec (.ret h) s = .next (retiredTo (.ret h) (s.me.getS 63) (c0.setMe { c0.me with link := l })))
           ∧ (s.me.link = [] → s.me.linkSpilled = 0 → exec (.ret h) s = .next (trapMe c0 .link 0))
           ∧ (s.me.link = [] → s.me.linkSpilled ≠ 0 → LocalOk s top 8 8 false → LocalClean s top 8 → s.me.resid = none →
               (localNat s top 8 ≠ (s.me.getS 63).toNat → exec (.ret h) s = .next (trapMe c0 .link 2))
               ∧ (localNat s top 8 = (s.me.getS 63).toNat → exec (.ret h) s
                   = .next (retiredTo (.ret h) (s.me.getS 63) (c0.setMe { c0.me with linkSpilled := s.me.linkSpilled - 1 }))))))) ∧
  (∀ (h : Header) (i b : SReg) (pad : BitVec 16) (bound : BitVec 22) (s : State), Issues (.jt h i b pad bound) s →
     let x := readS s.me i
     let base := readS s.me b
     let entry := base + 8 * x
     let t : Word := BitVec.ofNat 64 (localNat s entry 8)
     let c0 := countIssue s
     (bound.toNat ≤ x.toNat → exec (.jt h i b pad bound) s = .next (trapMe c0 .jtbound x))
     ∧ (x.toNat < bound.toNat → base % 8 ≠ 0 → exec (.jt h i b pad bound) s = .next (trapMe c0 .align base))
     ∧ (x.toNat < bound.toNat → base % 8 = 0 → LocalOk s entry 8 8 false → LocalClean s entry 8 →
         (t % 16 ≠ 0 → exec (.jt h i b pad bound) s = .next (trapMe c0 .align t))
         ∧ (t % 16 = 0 → ∀ bs w, fetchAt s s.curCore t = .line bs → cleanBytes (wordIn bs t) = (w, none) →
           let u := wordOfBytes w
           ((u.extractLsb' 0 8 = 0x05 ∧ u.extractLsb' 90 16 = pad →
               exec (.jt h i b pad bound) s = .next (retiredTo (.jt h i b pad bound) t c0))
           ∧ (¬(u.extractLsb' 0 8 = 0x05 ∧ u.extractLsb' 90 16 = pad) →
               exec (.jt h i b pad bound) s = .next (trapMe c0 .land t))))))

/-- R142, R143, R70, R384: `trap` raises SOFTWARE with its immediate; a word whose OP or FN no row assigns raises ILLEGAL with 0
or 8, whatever its guards hold; `eret` outside the handler context raises PRIV, and in the handler of a trap of context n,
once it may release, resumes n at its `ctl.epc`, or at the address that `ctl.jrnl` holds while RV is set, with its registers
as they stand, and the handler is idle. -/
def Obligations.TrapsAndReturns : Prop :=
  ∀ (h : Header) (imm : Word) (w : BitVec 128) (n : CtxNum) (s : State),
    (Issues (.trap h imm) s → exec (.trap h imm) s = .next (trapMe (countIssue s) .software imm))
    ∧ (∃ e, (e = 0 ∨ e = 8) ∧ exec (.unassignedOp w) s = .next (trapMe (countIssue s) .illegal e))
    ∧ (Issues (.eret h) s → s.curCtx ≠ 15 → exec (.eret h) s = .next (trapMe (countIssue s) .priv 0))
    ∧ (Issues (.eret h) s → s.curCtx = 15 → MayRelease s → s.myCore.handling = some (.trap n) → n ≠ 15 →
        let c := s.myCore.ctx n
        let epc : Word := if c.jrnl.getLsbD 63 then (((c.jrnl.extractLsb' 0 53) ++ (0 : BitVec 4)) : BitVec 57).signExtend 64 else c.epc
        causeIsFatal c.cause = false → c.run ≠ .saved → epc % 16 = 0 →
        ∃ t, exec (.eret h) s = .next t ∧ (t.myCore.ctx n).run = .live ∧ (t.myCore.ctx n).pc = epc
          ∧ (t.myCore.ctx n).jrnl.getLsbD 63 = false
          ∧ (t.myCore.ctx n).s = c.s ∧ (t.myCore.ctx n).v = c.v ∧ (t.myCore.ctx n).k = c.k ∧ (t.myCore.ctx n).flags = c.flags
          ∧ t.me.run = .idle ∧ t.myCore.handling = none)

/-! ## Loads, stores, tiles and atomics -/

/-- R296, R297, R298: loads and stores of local memory, little-endian, with latency 2: `ld` and `ldc` extend with zeros, their
`sx` forms with the sign; `ldv` writes the register with its tag, 12 bytes for T6; a store changes the bytes it names and no
other byte of local memory. `stv` of a tag that the source does not have raises TAG instead.
R323 to R326: atomics of local memory. `amo` and `red` replace the n bytes by the operation's result on them and the
source, `cas` by the source if they equal the destination's low bytes; `amo` and `cas` write the old bytes, extended with
zeros, to the destination; `lda` loads, and acquires what the releases of those bytes hand over (R338); `stl` stores; a release
raises RC by 1, and needs the journal entries of the context freed and every report taken, an acquire only the reports. -/
def Obligations.LocalAccesses : Prop :=
  (∀ (h : Header) (d x : SReg) (v : VReg) (ea : Addr) (sz : Size) (tag : Tag) (s : State),
     let a := mAddress s.me ea
     let n := sizeBytes sz
     let m := if tag = .t6 then 12 else 16
     let c0 := countIssue s
     let zx : Word := BitVec.ofNat 64 (localNat s a n)
     let sx : Word := BitVec.ofInt 64 (Int.bmod (localNat s a n) (2 ^ (8 * n)))
     let stores (i : Instr) (len : Nat) (val : Nat) : Prop := ∃ u, exec i s = .next (retiredAfter i 2 s u)
       ∧ (∀ b, memByte u.myCore.mem b
           = if a.toNat ≤ b ∧ b < a.toNat + len then BitVec.ofNat 8 (val / 256 ^ (b - a.toNat)) else memByte s.myCore.mem b)
     (LocalOk s a n n false → LocalClean s a n →
       (Issues (.ld h d ea sz) s → exec (.ld h d ea sz) s = .next (retiredAfter (.ld h d ea sz) 2 s (wrS c0 d zx)))
       ∧ (Issues (.ldSx h d ea sz) s → exec (.ldSx h d ea sz) s = .next (retiredAfter (.ldSx h d ea sz) 2 s (wrS c0 d sx)))
       ∧ (Issues (.ldc h d ea sz) s → exec (.ldc h d ea sz) s = .next (retiredAfter (.ldc h d ea sz) 2 s (wrS c0 d zx)))
       ∧ (Issues (.ldcSx h d ea sz) s → exec (.ldcSx h d ea sz) s = .next (retiredAfter (.ldcSx h d ea sz) 2 s (wrS c0 d sx))))
     ∧ (LocalOk s a m 16 false → LocalClean s a m → Issues (.ldv h v ea tag) s →
       exec (.ldv h v ea tag) s = .next (retiredAfter (.ldv h v ea tag) 2 s
         (wrV c0 v { bits := BitVec.ofNat 128 (localNat s a m), tag := tag })))
     ∧ (LocalOk s a n n true → Issues (.st h x ea sz) s → stores (.st h x ea sz) n (s.me.getS x.r).toNat)
     ∧ (LocalOk s a m 16 true → Issues (.stv h v ea tag) s → (tag = .b128 ∨ (s.me.getV v.r).tag = tag) →
       stores (.stv h v ea tag) m (s.me.getV v.r).bits.toNat)
     ∧ (Issues (.stv h v ea tag) s → tag ≠ .b128 → (s.me.getV v.r).tag ≠ tag →
       ∃ e, exec (.stv h v ea tag) s = .next (trapMe c0 .tag e))) ∧
  (∀ (h : Header) (d x : SReg) (y : SCon) (ea : Addr) (sz : Size) (op : AOp) (ord : Ord) (sc : Scope) (s : State),
     let a := mAddress s.me ea
     let n := sizeBytes sz
     let old := localNat s a n
     let v := (readSC s.me y).toNat % 2 ^ (8 * n)
     let c0 := countIssue s
     let waits : Prop := match ord with
       | .rlx => True
       | .acq => reportsSettled s = true
       | .rel | .sc => MayRelease s
     let bump (c : Bool) (u : State) : Prop := u.me.rc = if c then s.me.rc + 1 else s.me.rc
     let holds (u : State) (val : Nat) : Prop := ∀ b, memByte u.myCore.mem b
           = if a.toNat ≤ b ∧ b < a.toNat + n then BitVec.ofNat 8 (val / 256 ^ (b - a.toNat)) else memByte s.myCore.mem b
     let writes (i : Instr) (dst : Option SReg) (val : Nat) : Prop :=
       ∃ u, exec i s = .next (retired i s u) ∧ bump (ord == .rel || ord == .sc) u ∧ holds u val
         ∧ (∀ q, dst = some q → q.r ≠ 0 → u.me.getS q.r = BitVec.ofNat 64 old)
     LocalOk s a n n true → LocalClean s a n → waits →
     (Issues (.amo h d ea sz y op ord sc) s → writes (.amo h d ea sz y op ord sc) (some d) (aopResult op n old v))
     ∧ (Issues (.red h ea sz y op ord sc) s → writes (.red h ea sz y op ord sc) none (aopResult op n old v))
     ∧ (Issues (.cas h d ea sz y ord sc) s → writes (.cas h d ea sz y ord sc) (some d)
         (if old = (readS s.me d).toNat % 2 ^ (8 * n) then v else old))
     ∧ (ord = .acq → LocalOk s a n n false → Issues (.lda h d ea sz sc) s →
         exec (.lda h d ea sz sc) s = .next (retired (.lda h d ea sz sc) s
           (wrS (acquireLocal c0 a.toNat n sc) d (BitVec.ofNat 64 old))))
     ∧ (ord = .rel → Issues (.stl h x ea sz sc) s →
         ∃ u, exec (.stl h x ea sz sc) s = .next (retired (.stl h x ea sz sc) s u) ∧ bump true u
           ∧ holds u ((readS s.me x).toNat % 2 ^ (8 * n))))

/-- R276, R293: an access of LS that is not aligned raises ALIGN with its address; one that reaches beyond the scratchpad
raises XLATE_PERM with its address; one that meets a ring slot in a state which keeps the context out raises RING with the
ring; in this order, and with no effect.
R299: `ldt` and `stt` through a TID that names no record raise TID_INVALID with it; a tile number at or above the number of
tiles raises ILLEGAL with 41; an offset that is no multiple of 16 raises ALIGN with it, and one of 512 or more ILLEGAL with
50; in this order. -/
def Obligations.AccessChecks : Prop :=
  (∀ (i : Instr) (s : State) (a : Word) (n al : Nat) (w : Bool), accessOf i s.me = some (a, n, al, w) → Issues i s →
     (a.toNat % al ≠ 0 → exec i s = .next (trapMe (countIssue s) .align a))
     ∧ (a.toNat % al = 0 → isLocal a = true → s.myCore.scratch < a.toNat + n →
         exec i s = .next (trapMe (countIssue s) .xlatePerm a))
     ∧ (∀ r, a.toNat % al = 0 → isLocal a = true → a.toNat + n ≤ s.myCore.scratch →
         ringRefuses s.myCore s.myHandle a.toNat n w = some r →
         exec i s = .next (trapMe (countIssue s) .ring (BitVec.ofNat 64 r)))) ∧
  (∀ (h : Header) (v : VReg) (n o : SCon) (tid : Tid) (tag : Tag) (s : State) (i : Instr),
     i = .ldt h v n o tid tag ∨ i = .stt h n o v tid → Issues i s →
     let q := (readSC s.me n).toNat
     let off := readSC s.me o
     let count := if tid = 0 then some (2 ^ 48) else (recordOf s tid).map Desc.tileCount
     (count = none → exec i s = .next (trapMe (countIssue s) .tidInvalid (tid.setWidth 64)))
     ∧ (∀ c, count = some c →
         (c ≤ q → exec i s = .next (trapMe (countIssue s) .illegal 41))
         ∧ (q < c → off.toNat % 16 ≠ 0 → exec i s = .next (trapMe (countIssue s) .align off))
         ∧ (q < c → off.toNat % 16 = 0 → 512 ≤ off.toNat → exec i s = .next (trapMe (countIssue s) .illegal 50))))

/-- R294, R295, R297, R299, R396: a store to memory outside the core whose page translates to a die in service, and an `stt` to
the flat space, retires once the lowest free journal entry holds it: posted, with its kind, its address, its bytes, the context and the
incarnation it belongs to; every other entry, and every byte of memory, stands as before.
R272, R292 to R294, R296, R298, R299: a load from memory outside the core whose page translates, and an `ldt` of the flat space,
which the link, the purse and the race check let through, gives the bytes that stand at the physical address, or those of the
line of L1 where L1 holds it and no write of the core that it has posted there is on its way.
R281, R299, R396: an `stt` through a record posts its bytes with the TID, the tile number and the offset, and an `ldt` through one, once
its request is admitted, gives the bytes of the tile's image at that offset, as they stand when the tile's entry has been read. -/
def Obligations.GlobalAccesses : Prop :=
  (∀ (h : Header) (x : SReg) (v : VReg) (q o : SCon) (ea : Addr) (sz : Size) (tag : Tag) (s : State) (a : Word) (al p key e : Nat) (l : Leaf)
     (rest : List Nat) (u : State) (i : Instr) (kind : BitVec 3) (bs : List Byte) (w : Word),
     let off := 512 * (readSC s.me q).toNat + (readSC s.me o).toNat
     (i = .st h x ea sz ∧ a = mAddress s.me ea ∧ al = sizeBytes sz ∧ kind = 0 ∧ w = a
         ∧ bs = natBytes (sizeBytes sz) (readS s.me x).toNat)
       ∨ (i = .stv h v ea tag ∧ (tag = .b128 ∨ (readV s.me v).tag = tag) ∧ a = mAddress s.me ea ∧ al = 16 ∧ kind = 1 ∧ w = a
         ∧ bs = natBytes (if tag = .t6 then 12 else 16) (readV s.me v).bits.toNat)
       ∨ (i = .stt h q o v 0 ∧ (readSC s.me q).toNat < 2 ^ 48 ∧ (readSC s.me o).toNat < 512 ∧ (readSC s.me o).toNat % 16 = 0
         ∧ a = (BitVec.ofNat 57 off).signExtend 64 ∧ al = 1 ∧ kind = 2
         ∧ w = ((0 : Tid) ++ (BitVec.ofNat 40 (readSC s.me q).toNat ++ BitVec.ofNat 8 ((readSC s.me o).toNat / 16)))
         ∧ bs = natBytes 16 (readV s.me v).bits.toNat) →
     Issues i s → a.toNat % al = 0 → (kind ≠ 2 → isLocal a = false) →
     translate (countIssue s) s.curCore s.myTenant a .write = .ok p key l →
     ((List.range 32).filter (fun j => (s.myCore.jentry j).state == 0)) = e :: rest →
     Admitted (fillTlbs (countIssue s) s.curCore a key l .write) [bs.length] (homeDie p) u →
     unserved u (coreDie s.curCore) (homeDie p) = false →
     ∃ t, exec i s = .next (retiredAfter i 1 s t)
       ∧ (let j := t.myCore.jentry e
          j.state = 1 ∧ j.kind = kind ∧ j.addr = w ∧ j.bytes = bs ∧ j.ctx = s.curCtx ∧ j.inc = s.me.inc ∧ j.cause = 0)
       ∧ (∀ f, f ≠ e → t.myCore.jentry f = s.myCore.jentry f) ∧ SameMemory s t) ∧
  (∀ (h : Header) (d : SReg) (v : VReg) (q o : SCon) (ea : Addr) (sz : Size) (tag : Tag) (s : State) (a : Word) (n al p key : Nat)
     (l : Leaf) (u w : State) (i : Instr) (bs : List Byte),
     let off := 512 * (readSC s.me q).toNat + (readSC s.me o).toNat
     let num := bytesNat bs
     let sx : Word := BitVec.ofInt 64 (Int.bmod num (2 ^ (8 * n)))
     let val (t : State) : Prop :=
       ((i = .ld h d ea sz ∨ i = .ldc h d ea sz) ∧ (d.r ≠ 0 → t.me.getS d.r = BitVec.ofNat 64 num))
       ∨ ((i = .ldSx h d ea sz ∨ i = .ldcSx h d ea sz) ∧ (d.r ≠ 0 → t.me.getS d.r = sx))
       ∨ (i = .ldv h v ea tag ∧ t.me.getV v.r = { bits := BitVec.ofNat 128 num, tag := tag })
       ∨ (i = .ldt h v q o 0 tag ∧ t.me.getV v.r = trimT6 { bits := BitVec.ofNat 128 num, tag := tag })
     ((i = .ld h d ea sz ∨ i = .ldc h d ea sz ∨ i = .ldSx h d ea sz ∨ i = .ldcSx h d ea sz) ∧ a = mAddress s.me ea
         ∧ n = sizeBytes sz ∧ al = n)
       ∨ (i = .ldv h v ea tag ∧ a = mAddress s.me ea ∧ n = (if tag = .t6 then 12 else 16) ∧ al = 16)
       ∨ (i = .ldt h v q o 0 tag ∧ (readSC s.me q).toNat < 2 ^ 48 ∧ (readSC s.me o).toNat < 512 ∧ (readSC s.me o).toNat % 16 = 0
         ∧ a = (BitVec.ofNat 57 off).signExtend 64 ∧ n = 16 ∧ al = 1) →
     Issues i s → a.toNat % al = 0 → ((∀ q o, i ≠ .ldt h v q o 0 tag) → isLocal a = false) →
     translate (countIssue s) s.curCore s.myTenant a .read = .ok p key l → linkHolds s p = false →
     (∀ e ∈ s.myCore.journal, ¬(e.2.state = 1 ∧ e.2.ctx = s.curCtx ∧ e.2.inc = s.me.inc ∧ hitsFlat p n e.2 = true)) →
     let f := fillTlbs (countIssue s) s.curCore a key l .read
     let line := s.myCore.l1.find? (fun x => x.1 == va57 a / 64)
     let held := va57 a % 64 + n ≤ 64 ∧ line.isSome = true ∧ postedOver s.myCore p n = false
     (¬held → Requested f [n] (servingDie f (va57 a) p) false n u) → (held → u = f) →
     checkGrans u (partyOf u u.curCore u.curCtx) (flatGrans l p n) false false [] = .ok w →
     (¬held → cleanBytes (lineBytes w s.curCore (va57 a) p n) = (bs, none)) →
     (held → ∃ x, line = some x ∧ cleanBytes ((x.2.drop (va57 a % 64)).take n) = (bs, none)) →
     ∃ t, exec i s = .next (retiredAfter i 1 s t) ∧ val t) ∧
  (∀ (h : Header) (v : VReg) (q o : SCon) (tid : Tid) (tag : Tag) (s c1 c2 u w : State) (r : Desc) (fr : Sparse Nat) (e : Nat)
     (rest : List Nat) (bs : List Byte),
     let n := (readSC s.me q).toNat
     let off := (readSC s.me o).toNat
     let addrs := tileAddrs r n off 16
     let home := (physOf c2 c2.myTenant (r.tileAddr n)).getD 0
     let die := dieOf c2 c1.myTenant (r.tileAddr n)
     let read (t : State) : State := readEntry t c1.myTenant tid r n (coreDie t.curCore) h.hint
     lookDesc (countIssue s) tid = some (r, c1) → n < r.tileCount → off < 512 → off % 16 = 0 →
     (Issues (.stt h q o v tid) s → Translates c1 .write (addrs.map (fun x => canon x.2)) c2 fr →
       ((List.range 32).filter (fun j => (s.myCore.jentry j).state == 0)) = e :: rest → Admitted c2 [16] (homeDie home) u →
       unserved u (coreDie s.curCore) (homeDie home) = false →
       ∃ t, exec (.stt h q o v tid) s = .next (retiredAfter (.stt h q o v tid) 1 s t)
         ∧ (let j := t.myCore.jentry e
            j.state = 1 ∧ j.kind = 2 ∧ j.addr = (tid ++ (BitVec.ofNat 40 n ++ BitVec.ofNat 8 (off / 16))) ∧ j.tid = tid ∧ j.tile = n
              ∧ j.off = off ∧ j.frames = fr ∧ j.bytes = natBytes 16 (readV s.me v).bits.toNat ∧ j.ctx = s.curCtx ∧ j.inc = s.me.inc
              ∧ j.cause = 0)
         ∧ (∀ f, f ≠ e → t.myCore.jentry f = s.myCore.jentry f) ∧ SameMemory s t)
     ∧ (Issues (.ldt h v q o tid tag) s →
       (∀ go, withPages .read ((pageHeads c1 (addrs.map (fun x => canon x.2))).map va57) c1 go = go c2) →
       (∀ go, withTileLinks c1.myTenant tid r [(n, addrs.map (·.2))] c2 go = go c2) →
       (∀ e ∈ c2.myCore.journal, ¬(e.2.state = 1 ∧ e.2.ctx = c2.curCtx ∧ e.2.inc = c2.me.inc ∧ hitsTile tid n e.2 = true)) →
       Requested c2 [16] die false 16 u →
       checkGrans u (partyOf u u.curCore u.curCtx) (tileGrans u c1.myTenant tid n off addrs 16) false false [] = .ok w →
       cleanBytes (((tileBytes (read w) c1.myTenant tid r n (coreDie w.curCore)).drop off).take 16) = (bs, none) →
       exec (.ldt h v q o tid tag) s = .next (retiredAfter (.ldt h v q o tid tag) 1 s
         (wrV (read w) v (trimT6 { bits := BitVec.ofNat 128 (bytesNat bs), tag := tag })))))

/-- R300, R425: a prefetch whose address does not translate, or is local, retires with no effect, and so does `pref` with
`.stream`; another `pref`, once its request is admitted, leaves in the home slice what a read with its hint leaves there, and
`prefi`, once the requests of its absent lines are, has each of them in flight where their dies are in service; both write no
register.
R328, R329: `fence` retires once its context may release, `xfence` once the reports are taken and every access on the paths it
names has been performed; neither changes anything else, and until then each of the two is held. -/
def Obligations.PrefetchesAndFences : Prop :=
  ∀ (h : Header) (ea : Addr) (n : BitVec 5) (sc : Scope) (paths : BitVec 7) (s : State),
    let a := mAddress s.me ea
    let c0 := countIssue s
    let cl := coreCluster s.curCore
    let ls := prefiLines c0 (a &&& ~~~255#64) n.toNat
    let new := ls.filter (fun l => !(s.cluster cl).hasLine l.1)
    let own := coreDie s.curCore
    let away := new.filter (fun l => homeDie l.2 != own)
    let flies (t : State) : Prop := exec (.prefi h ea n) s = .next (retired (.prefi h ea n) s t)
      ∧ t.me.s = s.me.s ∧ t.me.v = s.me.v ∧ t.me.k = s.me.k ∧ ∀ l ∈ new, ∃ e ∈ (t.cluster cl).inflight, e.1 = l.1
    (Issues (.pref h ea) s → prefetchAt c0 a .read = none → exec (.pref h ea) s = .next (retired (.pref h ea) s c0))
    ∧ (Issues (.pref h ea) s → h.hint = 1 → exec (.pref h ea) s = .next (retired (.pref h ea) s c0))
    ∧ (∀ p u, Issues (.pref h ea) s → h.hint ≠ 1 → prefetchAt c0 a .read = some p → Requested c0 [64] (homeDie p) false 64 u →
        ∃ t, exec (.pref h ea) s = .next (retired (.pref h ea) s t) ∧ t = (homeRead u s.curCore (va57 a) p 1 h.hint).1
          ∧ t.me.s = s.me.s ∧ t.me.v = s.me.v ∧ t.me.k = s.me.k)
    ∧ (∀ u, Issues (.prefi h ea n) s → (∀ l ∈ ls, unserved c0 own (homeDie l.2) = false) →
        (∀ l ∈ away, linkFull c0 own (homeDie l.2) = false) →
        admitItems c0 (new.map (fun _ => 256)) (away.map (fun _ => 256)) = .ok u → ∃ t, flies t)
    ∧ (Issues (.prefi h ea n) s → prefetchAt c0 (a &&& ~~~255#64) .fetch = none →
        exec (.prefi h ea n) s = .next (retired (.prefi h ea n) s c0))
    ∧ (Issues (.fence h sc) s → MayRelease s → exec (.fence h sc) s = .next (retired (.fence h sc) s c0))
    ∧ (Issues (.fence h sc) s → ¬MayRelease s → exec (.fence h sc) s = .next (holdMe (c0.setMe { c0.me with wdogCount := s.me.wdogCount })))
    ∧ (Issues (.xfence h sc paths) s → reportsSettled s = true → pathsDone c0 paths = true →
        exec (.xfence h sc paths) s = .next (retired (.xfence h sc paths) s c0))
    ∧ (Issues (.xfence h sc paths) s → (reportsSettled s = false ∨ pathsDone c0 paths = false) →
        exec (.xfence h sc paths) s = .next (holdMe (c0.setMe { c0.me with wdogCount := s.me.wdogCount })))

/-! ## Tills and rings -/

/-- R330, R331, R332, R335, R336: a till identifier above 8,191 raises ILLEGAL with 50 and another tenant's till TENANT with 0.
`tilset` of an all-zero record frees the till; one of KIND 1 or 3, or of KIND 2 without a record, sets its region, TOTAL and
action with the count 0, armed and not fired. `tilget` reads the count, ARMED and FIRED, 0 for a free till; `tilarm` starts
the count of an owned till again, and a free one raises ILLEGAL with 50. -/
def Obligations.Tills : Prop :=
  ∀ (h : Header) (d t a : SReg) (s u : State),
    let tl := readS s.me t
    let id : BitVec 13 := tl.setWidth 13
    let x := s.till id
    let ra := readS s.me a
    let c0 := countIssue s
    let w (i : Nat) : Word := BitVec.ofNat 64 (localNat s (ra + BitVec.ofNat 64 (8 * i)) 8)
    let kind := actKind (w 3)
    let foreign : Prop := x.owned = true ∧ x.owner ≠ s.myTenant
    let here : Prop := reachable s (coreDie s.curCore) (tillSector id) = true
    (∀ i, i = .tilset h t a ∨ i = .tilget h d t ∨ i = .tilarm h t → Issues i s → 8192 ≤ tl.toNat →
        exec i s = .next (trapMe c0 .illegal 50))
    ∧ (∀ i, i = .tilset h t a ∨ ((i = .tilget h d t ∨ i = .tilarm h t) ∧ here) → Issues i s → tl.toNat < 8192 → foreign →
        exec i s = .next (trapMe c0 .tenant 0))
    ∧ (tl.toNat < 8192 → ¬foreign →
      (LocalOk s ra 64 64 false → LocalClean s ra 64 → Issues (.tilset h t a) s →
        ((∀ i, i < 8 → w i = 0) → x.bound = none → Exchanged c0 (tillSector id) true u →
            ∃ v, exec (.tilset h t a) s = .next (retired (.tilset h t a) s v) ∧ (v.till id).owned = false)
        ∧ (kind ≠ 0 → (w 4 = 0 ∨ kind = 3) → tillRecFault c0 (memBytes s.myCore.mem ra.toNat 64) = none →
            (kind = 3 → coreExists (handleCore ((w 4).setWidth 28)) = true
              ∧ s.tenantOf (handleCore ((w 4).setWidth 28)) = s.myTenant) →
            ∀ c1, (∀ k, withRegion id (w 0) (w 1).toNat c0 k = k c1) → c1.till id = x → x.bound = none →
              (x.owned = false → quotaFits c1 c1.myTenant 4 (tillSector id) 1 = true) → Exchanged c1 (tillSector id) true u →
              ∃ v, exec (.tilset h t a) s = .next (retired (.tilset h t a) s v)
                ∧ (let y := v.till id
                   y.owned = true ∧ y.owner = c1.myTenant ∧ y.base = ((w 0).extractLsb' 0 57).setWidth 64 ∧ y.grans = (w 1).toNat
                    ∧ y.total = (w 2).toNat ∧ y.act = w 3 ∧ y.arg = w 4 ∧ y.count = 0 ∧ y.armed = true ∧ y.fired = false)))
      ∧ (here → Issues (.tilget h d t) s → Exchanged c0 (tillSector id) true u →
          exec (.tilget h d t) s = .next (retired (.tilget h d t) s (wrS u d
          (if x.owned then BitVec.ofNat 64 (2 ^ 62 * x.fired.toNat + 2 ^ 61 * x.armed.toNat + min x.count (2 ^ 41 - 1)) else 0))))
      ∧ (here → Issues (.tilarm h t) s →
          (x.owned = false → exec (.tilarm h t) s = .next (trapMe c0 .illegal 50))
          ∧ (x.owned = true → Exchanged c0 (tillSector id) true u → ∃ v, exec (.tilarm h t) s = .next (retired (.tilarm h t) s v)
              ∧ (let y := v.till id
                 y.count = 0 ∧ y.fired = false ∧ y.armed = true ∧ y.base = x.base ∧ y.grans = x.grans ∧ y.total = x.total
                  ∧ y.act = x.act ∧ y.arg = x.arg ∧ y.stored = x.stored ∧ y.bound = x.bound))))

/-- R301, R305: `rdef` and `rres`. The checks of `rdef` in their order; then the ring has n free slots of 2^lg bytes from its
base, the next position claimed is slot 0, and its definition number has advanced; every other ring, and the bytes of local
memory, stand as before. `rres` of a ring that no device holds leaves it undefined with its definition number advanced; of an
undefined ring it does nothing.
R273, R275, R302, R303: `racq` takes the oldest filled slot, `racq.free` reserves the next position in circular order, when
no one waits before, and each writes the slot's address; `rrel` frees a slot this context has taken, `rpub` fills one it has
reserved; on an undefined ring, or for any other slot, RING with the ring's number. -/
def Obligations.Rings : Prop :=
  (∀ (h : Header) (b : SReg) (lg n : SCon) (ring : BitVec 4) (s : State),
     let base := readS s.me b
     let l := (readSC s.me lg).toNat
     let c := (readSC s.me n).toNat
     let r := s.myCore.ring ring
     let c0 := countIssue s
     let i : Instr := .rdef h b lg n ring
     let sizes : Prop := 6 ≤ l ∧ l ≤ 14 ∧ 2 ≤ c ∧ c ≤ 64
     let place : Prop := sizes ∧ base.toNat % 2 ^ l = 0 ∧ isLocal base = true ∧ base.toNat + c * 2 ^ l ≤ s.myCore.scratch
     (Issues i s →
       ((l < 6 ∨ 14 < l) → exec i s = .next (trapMe c0 .illegal 50))
       ∧ (6 ≤ l → l ≤ 14 → (c < 2 ∨ 64 < c) → exec i s = .next (trapMe c0 .illegal 59))
       ∧ (sizes → base.toNat % 2 ^ l ≠ 0 → exec i s = .next (trapMe c0 .align base))
       ∧ (sizes → base.toNat % 2 ^ l = 0 → (isLocal base = false ∨ s.myCore.scratch < base.toNat + c * 2 ^ l) →
           exec i s = .next (trapMe c0 .xlatePerm base))
       ∧ (∀ o, place → ringOverlap s.myCore ring base.toNat (c * 2 ^ l) = some o →
           exec i s = .next (trapMe c0 .ring (BitVec.ofNat 64 o)))
       ∧ (place → ringOverlap s.myCore ring base.toNat (c * 2 ^ l) = none → (r.defined && r.deviceReserved) = false →
           ∃ t, exec i s = .next (retired i s t)
             ∧ (let q := t.myCore.ring ring
                q.defined = true ∧ q.base.toNat = base.toNat ∧ q.lg = l ∧ q.slots = List.replicate c .free ∧ q.nextPos = 0
                 ∧ q.filledOrder = [] ∧ q.defNum = r.defNum + 1)
             ∧ (∀ o, o ≠ ring → t.myCore.ring o = s.myCore.ring o) ∧ t.myCore.mem = s.myCore.mem))
     ∧ (Issues (.rres h ring) s →
       (r.defined = false → exec (.rres h ring) s = .next (retired (.rres h ring) s c0))
       ∧ (r.defined = true → r.deviceReserved = false → r.deviceTaken = false → r.waitFree = [] → r.waitFill = [] →
           ∃ t, exec (.rres h ring) s = .next (retired (.rres h ring) s t)
             ∧ (t.myCore.ring ring).defined = false ∧ (t.myCore.ring ring).defNum = r.defNum + 1
             ∧ (∀ o, o ≠ ring → t.myCore.ring o = s.myCore.ring o) ∧ t.myCore.mem = s.myCore.mem))) ∧
  (∀ (h : Header) (d a : SReg) (ring : BitVec 4) (s : State),
     let r := s.myCore.ring ring
     let c0 := countIssue s
     let me := s.myHandle
     let at_ (k : Nat) : Nat := r.base.toNat + k * 2 ^ r.lg
     let addr := (readS s.me a).toNat
     let slot (t : State) (k : Nat) : Slot := (t.myCore.ring ring).slots.getD k .free
     (∀ i, i = .racq h d ring ∨ i = .racqFree h d ring ∨ i = .rrel h a ring ∨ i = .rpub h a ring → Issues i s → r.defined = false →
         exec i s = .next (trapMe c0 .ring (ring.setWidth 64)))
     ∧ (r.defined = true →
       (∀ k rest, Issues (.racq h d ring) s → reportsSettled s = true → r.filledOrder = k :: rest → k < r.slots.length →
         (r.waitFill = [] ∨ r.waitFill.head? = some (.ctx s.curCtx)) → hears r.heardFill s.now rankCtx = true →
         ∃ t, exec (.racq h d ring) s = .next (retired (.racq h d ring) s t) ∧ slot t k = .taken (.ctx me)
           ∧ (t.myCore.ring ring).filledOrder = rest ∧ (d.r ≠ 0 → t.me.getS d.r = BitVec.ofNat 64 (at_ k))
           ∧ (∀ j, j ≠ k → slot t j = slot s j))
       ∧ (Issues (.racqFree h d ring) s → r.nextPos < r.slots.length → slot s r.nextPos = .free →
         (r.waitFree = [] ∨ r.waitFree.head? = some (.ctx s.curCtx)) → hears r.heardFree s.now rankCtx = true →
         ∃ t, exec (.racqFree h d ring) s = .next (retired (.racqFree h d ring) s t) ∧ slot t r.nextPos = .reserved (.ctx me)
           ∧ (t.myCore.ring ring).nextPos = (r.nextPos + 1) % r.slots.length
           ∧ (d.r ≠ 0 → t.me.getS d.r = BitVec.ofNat 64 (at_ r.nextPos)) ∧ (∀ j, j ≠ r.nextPos → slot t j = slot s j))
       ∧ (∀ k, k < r.slots.length → addr = at_ k →
           (Issues (.rrel h a ring) s → slot s k = .taken (.ctx me) → s.myCore.workTouches me false (at_ k) (2 ^ r.lg) = false →
             ∃ t, exec (.rrel h a ring) s = .next (retired (.rrel h a ring) s t) ∧ slot t k = .free ∧ (∀ j, j ≠ k → slot t j = slot s j))
           ∧ (Issues (.rrel h a ring) s → slot s k ≠ .taken (.ctx me) →
             exec (.rrel h a ring) s = .next (trapMe c0 .ring (ring.setWidth 64)))
           ∧ (Issues (.rpub h a ring) s → slot s k = .reserved (.ctx me) → MayRelease s →
               s.myCore.workTouches me true (at_ k) (2 ^ r.lg) = false →
             ∃ t, exec (.rpub h a ring) s = .next (retired (.rpub h a ring) s t) ∧ slot t k = .filled (relTable s s.curCore s.curCtx)
               ∧ (t.myCore.ring ring).filledOrder = r.filledOrder ++ [k] ∧ t.me.rc = s.me.rc + 1
               ∧ (∀ j, j ≠ k → slot t j = slot s j))
           ∧ (Issues (.rpub h a ring) s → slot s k ≠ .reserved (.ctx me) →
             exec (.rpub h a ring) s = .next (trapMe c0 .ring (ring.setWidth 64))))
       ∧ ((∀ k, k < r.slots.length → addr ≠ at_ k) →
           (Issues (.rrel h a ring) s → exec (.rrel h a ring) s = .next (trapMe c0 .ring (ring.setWidth 64)))
           ∧ (Issues (.rpub h a ring) s → exec (.rpub h a ring) s = .next (trapMe c0 .ring (ring.setWidth 64))))))

/-! ## Contexts, messages, signals, barriers, exchange phases -/

/-- R197, R199, R200, R203, R228: `start` starts the lowest idle helper that no arrived message takes, with zero registers but
s1 and s2, a new incarnation and the given program counter, and writes its handle; with none the plain form is held and the try
form writes 0; while a dispatch of the core is due both are held, the try form too (a reading of R228, log 39). Only the control context may issue it. `yield` clears COUNT and lets the round robin pass over the context once; `exit` makes a context
that is not the handler idle; the handler's raises PRIV. -/
def Obligations.ContextLives : Prop :=
  ∀ (h : Header) (d p : SReg) (k : KReg) (a b : SCon) (n : CtxNum) (s u : State),
    let pc := readS s.me p
    let c0 := countIssue s
    let takes (m : CtxNum) : Prop := (s.myCore.ctx m).run = .idle ∧ messageDue c0 s.curCore m = false
    let held (i : Instr) : Prop := exec i s = .next (holdMe (c0.setMe { c0.me with wdogCount := s.me.wdogCount }))
    let started (t : State) : Prop :=
      let c := t.myCore.ctx n
      c.run = .live ∧ c.pc = pc ∧ c.inc = (s.myCore.ctx n).inc + 1 ∧ c.getS 1 = readSC s.me a ∧ c.getS 2 = readSC s.me b
        ∧ (∀ r, r ≠ 1 → r ≠ 2 → c.getS r = 0) ∧ (∀ r, c.getV r = {}) ∧ (∀ r, r ≠ 0 → c.getK r = false) ∧ c.link = []
        ∧ (d.r ≠ 0 → t.me.getS d.r = (mkHandle s.curCore n ((s.myCore.ctx n).inc + 1)).setWidth 64) ∧ t.me.rc = s.me.rc + 1
    (∀ i, i = .start h d p a b ∨ i = .startTry h d k p a b → Issues i s →
      (s.curCtx ≠ 0 → exec i s = .next (trapMe c0 .priv 0))
      ∧ (s.curCtx = 0 → pc % 16 ≠ 0 → exec i s = .next (trapMe c0 .align pc)))
    ∧ (s.curCtx = 0 → pc % 16 = 0 → MayRelease s → (dispatchFor c0 s.curCore).isSome = true →
      (Issues (.start h d p a b) s → held (.start h d p a b))
      ∧ (Issues (.startTry h d k p a b) s → held (.startTry h d k p a b)))
    ∧ (s.curCtx = 0 → pc % 16 = 0 → MayRelease s → dispatchFor c0 s.curCore = none →
      (1 ≤ n.toNat → n.toNat ≤ 10 → takes n → (∀ m : CtxNum, 1 ≤ m.toNat → m.toNat < n.toNat → ¬takes m) →
        (Issues (.start h d p a b) s → ∃ t, exec (.start h d p a b) s = .next (retired (.start h d p a b) s t) ∧ started t)
        ∧ (Issues (.startTry h d k p a b) s → ∃ t, exec (.startTry h d k p a b) s = .next (retired (.startTry h d k p a b) s t)
          ∧ started t ∧ t.me.getK k.r = true))
      ∧ ((∀ m : CtxNum, 1 ≤ m.toNat → m.toNat ≤ 10 → ¬takes m) →
        (Issues (.start h d p a b) s → held (.start h d p a b))
        ∧ (Issues (.startTry h d k p a b) s →
          exec (.startTry h d k p a b) s = .next (retired (.startTry h d k p a b) s (wrK (wrS c0 d 0) k false)))))
    ∧ (Issues (.yield h) s → ∃ t, exec (.yield h) s = .next (retired (.yield h) s t)
        ∧ t = (c0.setMyCore { c0.myCore with passed := t.myCore.passed }).setMe { c0.me with wdogCount := 0, passOver := true }
        ∧ (retired (.yield h) s t).me.passOver = true ∧ (retired (.yield h) s t).me.wdogCount = 0)
    ∧ (Issues (.exit h) s → s.curCtx = 15 → exec (.exit h) s = .next (trapMe c0 .priv 0))
    ∧ (Issues (.exit h) s → s.curCtx ≠ 15 → reportsSettled s = true → (∀ m ∈ s.myCore.msgs, m.target ≠ s.curCtx) → PinGoes c0 u →
        ∃ t, exec (.exit h) s = .next t ∧ t.me.run = .idle ∧ t.me.inc = s.me.inc ∧ t.me.events = 0 ∧ t.me.link = []
          ∧ (∀ r, t.me.getS r = 0))

/-- R206, R208, R209, R210: `amsg` checks its target, its program counter and the tenant, in this order, then releases and
sends, and retires once the target has accepted; the try form writes what became of the message. `sig` with no bit set sends
nothing, and another one releases and sends; `wait` takes the latched bits of its mask and clears them. -/
def Obligations.MessagesAndSignals : Prop :=
  ∀ (h : Header) (d c p n : SReg) (k : KReg) (b : SCon) (s u : State),
    let t : BitVec 20 := (readS s.me c).setWidth 20
    let core : CoreId := t.extractLsb' 4 16
    let pc := readS s.me p
    let c0 := countIssue s
    let hd : BitVec 28 := (readS s.me c).setWidth 28
    let bits := readSC s.me b
    let fresh : Prop := ∀ id, s.me.pend ≠ .sent id ∧ s.me.pend ≠ .accepted ∧ s.me.pend ≠ .turnedAway
    let taken := s.me.events &&& bits.setWidth 16
    (∀ i, i = .amsg h c p n ∨ i = .amsgTry h k c p n → Issues i s →
      (fresh →
        (coreExists core = false → exec i s = .next (trapMe c0 .illegal 50))
        ∧ (coreExists core = true → pc % 16 ≠ 0 → exec i s = .next (trapMe c0 .align pc))
        ∧ (coreExists core = true → pc % 16 = 0 → s.tenantOf core ≠ s.myTenant → exec i s = .next (trapMe c0 .tenant (t.setWidth 64)))
        ∧ (coreExists core = true → pc % 16 = 0 → s.tenantOf core = s.myTenant → MayRelease s → Admitted c0 [24] (coreDie core) u →
            reachable u (coreDie s.curCore) (coreDie core) = true →
            ∃ v q, exec i s = .next (holdMe v) ∧ v.net = u.net ++ [q] ∧ q.owner = s.myHandle ∧ v.me.pend = .sent q.id
              ∧ v.me.rc = s.me.rc + 1
              ∧ q.msg = .amsg t pc (readS s.me n) (s.me.getS (n.r + 1)) (match i with | .amsgTry .. => true | _ => false)))
      ∧ (s.me.pend = .accepted → exec i s = .next (retired i s (match i with | .amsgTry .. => wrK c0 k true | _ => c0)))
      ∧ (s.me.pend = .turnedAway → exec i s = .next (retired i s (match i with | .amsgTry .. => wrK c0 k false | _ => c0))))
    ∧ (Issues (.sig h c b) s →
      (2 ^ 28 ≤ (readS s.me c).toNat → exec (.sig h c b) s = .next (trapMe c0 .illegal 50))
      ∧ ((readS s.me c).toNat < 2 ^ 28 →
        (2 ^ 16 ≤ bits.toNat → exec (.sig h c b) s = .next (trapMe c0 .illegal 59))
        ∧ (bits.toNat < 2 ^ 16 → s.tenantOf (handleCore hd) ≠ s.myTenant →
            exec (.sig h c b) s = .next (trapMe c0 .tenant ((hd.setWidth 20).setWidth 64)))
        ∧ (coreExists (handleCore hd) = true → s.tenantOf (handleCore hd) = s.myTenant →
          (bits = 0 → exec (.sig h c b) s = .next (retired (.sig h c b) s c0))
          ∧ (bits ≠ 0 → bits.toNat < 2 ^ 16 → MayRelease s → Admitted c0 [8] (coreDie (handleCore hd)) u →
              reachable u (coreDie s.curCore) (coreDie (handleCore hd)) = true →
              ∃ v q, exec (.sig h c b) s = .next (retired (.sig h c b) s v) ∧ v.net = u.net ++ [q]
                ∧ q.msg = .signal hd (bits.setWidth 16) ∧ v.me.rc = s.me.rc + 1))))
    ∧ (Issues (.wait h d b) s →
      ((bits = 0 ∨ 2 ^ 16 ≤ bits.toNat) → exec (.wait h d b) s = .next (trapMe c0 .illegal 50))
      ∧ (bits ≠ 0 → bits.toNat < 2 ^ 16 → reportsSettled s = true →
        (taken ≠ 0 → ∃ v, exec (.wait h d b) s = .next (retired (.wait h d b) s v) ∧ (d.r ≠ 0 → v.me.getS d.r = taken.setWidth 64)
          ∧ v.me.events = s.me.events &&& ~~~taken ∧ v.me.wdogCount = 0)
        ∧ (taken = 0 → exec (.wait h d b) s = .next (holdMe (c0.setMe { c0.me with wdogCount := s.me.wdogCount })))))

/-- R213 to R216, R235: `dom`, `arrive`, `bar` and `bar.x` are the control context's. `dom` of a legal value whose members all
belong to the tenant changes the domain and sets EP to 0, and a core that leaves flowing mode leaves its stage at once if its
helpers are idle, and else stays in its pool until they are; a value that breaks a field raises ILLEGAL with 128 plus its lowest bit, and
a foreign member raises TENANT. `arrive` with no arrival pending arrives and retires; `bar` and `bar.x` arrive and are held, in an
exchange phase at once, whatever is owed (R218; log 68), and a released one goes on with its next instruction, in the cycle that the release has set, with YLD of its header acting as on
any instruction (R57, R203). -/
def Obligations.DomainsAndBarriers : Prop :=
  ∀ (h : Header) (x : SReg) (s u : State),
    let v := readS s.me x
    let c0 := countIssue s
    let home : Die := BitVec.ofNat 3 (domHome s.curCore s.myCore.dom)
    let all : List Instr := [.dom h x, .arrive h, .bar h, .barX h]
    (∀ i ∈ all, Issues i s → s.curCtx ≠ 0 → (∀ p, s.me.pend ≠ .arrived p ∧ s.me.pend ≠ .released p) →
      exec i s = .next (trapMe c0 .priv 0))
    ∧ (s.curCtx = 0 → Issues (.dom h x) s →
      (∀ b, domFault s.curCore v = some b → exec (.dom h x) s = .next (trapMe c0 .illegal (BitVec.ofNat 64 (128 + b))))
      ∧ (domFault s.curCore v = none →
        ((∃ cl ∈ domClusters s.curCore v, (s.cluster cl).tenant ≠ s.myTenant) → exec (.dom h x) s = .next (trapMe c0 .tenant 0))
        ∧ ((∀ cl ∈ domClusters s.curCore v, (s.cluster cl).tenant = s.myTenant) → s.myCore.arrival = false →
            ∃ k, exec (.dom h x) s = .next (retired (.dom h x) s (c0.setMyCore k))
              ∧ k = { c0.myCore with dom := v, ep := 0, stage := k.stage, leaving := k.leaving }
              ∧ (k.leaving = true ↔ v.getLsbD 3 = false ∧ (∃ n ∈ helpers, (s.myCore.ctx n).run ≠ .idle)
                  ∧ (s.myCore.dom.getLsbD 3 = true ∨ s.myCore.leaving = true))
              ∧ k.stage = (if v.getLsbD 3 = false ∧ ∀ n ∈ helpers, (s.myCore.ctx n).run = .idle then none else s.myCore.stage))))
    ∧ (∀ i, i = .bar h → s.curCtx = 0 → s.myCore.arrival = false → inPhase s.myCore 0 = true →
        reachable s (coreDie s.curCore) home = true → Issues i s → (∀ p, s.me.pend ≠ .arrived p ∧ s.me.pend ≠ .released p) →
        ∃ t, exec i s = .next (holdMe t) ∧ t.myCore.arrival = true ∧ t.me.rc = s.me.rc + 1 ∧ t.me.pend = .arrived true
          ∧ ∃ q, t.net = s.net ++ [q] ∧ q.msg = .arrival s.curCore s.myCore.dom s.nextId)
    ∧ (s.curCtx = 0 → s.myCore.arrival = false → s.myCore.exch = none → MayRelease s → Admitted c0 [8] home u →
      reachable u (coreDie s.curCore) home = true →
      let sent (t : State) : Prop := t.myCore.arrival = true ∧ t.me.rc = s.me.rc + 1
        ∧ ∃ q, t.net = u.net ++ [q] ∧ q.msg = .arrival s.curCore s.myCore.dom u.nextId
      (Issues (.arrive h) s → ∃ t, exec (.arrive h) s = .next (retired (.arrive h) s t) ∧ sent t)
      ∧ (∀ i, i = .bar h ∨ i = .barX h → Issues i s → (∀ p, s.me.pend ≠ .arrived p ∧ s.me.pend ≠ .released p) →
          ∃ t, exec i s = .next (holdMe t) ∧ sent t ∧ ∃ p, t.me.pend = .arrived p))
    ∧ (∀ i p, i = .bar h ∨ i = .barX h → s.me.pend = .released p →
      ∃ t, exec i s = .next t ∧ t.me.pc = s.me.pc + 16 ∧ t.me.pend = .none ∧ t.me.nextIssue = s.me.nextIssue
        ∧ (p = false → h.yld = true → t.me.wdogCount = 0 ∧ t.me.passOver = true) ∧ t.me.s = s.me.s ∧ t.me.v = s.me.v ∧ t.me.k = s.me.k)

/-- R28, R219, R220: `xsend` drives its value onto a channel of its die in the cycle it issues; `xsel` receives the OR of the
words that were driven onto the channel 3 + |Δx| + |Δy| cycles ago, with their common tag, or tag 0 where their tags differ, or
zeros when none was; a channel above 63 raises ILLEGAL with 59 or 50. Two choices of the model: a modifier whose segment holds less
than one element raises TAG (log 58), and the words of other tenants' cores are heard too (log 60). -/
def Obligations.Piste : Prop :=
  ∀ (h : Header) (a : VSrc) (d : VReg) (ch : SCon) (s : State),
    let c := (readSC s.me ch).toNat
    let die := s.die (coreDie s.curCore)
    let x := coreX s.curCore
    let y := coreY s.curCore
    let away (w : PisteWord) : Nat := (Int.natAbs ((w.x : Int) - x)) + (Int.natAbs ((w.y : Int) - y))
    let heard := die.piste.filter (fun w => w.ch = c ∧ w.cycle + 3 + away w = die.cycle)
    (Issues (.xsend h a ch) s → modBad (s.me.getV a.r) a.mod = true →
      exec (.xsend h a ch) s = .next (trapMe (countIssue s) .tag (BitVec.ofNat 64 (4096 + (s.me.getV a.r).tag.bits.toNat))))
    ∧ (Issues (.xsend h a ch) s → modBad (s.me.getV a.r) a.mod = false →
      (63 < c → exec (.xsend h a ch) s = .next (trapMe (countIssue s) .illegal 59))
      ∧ (c ≤ 63 → ∃ t, exec (.xsend h a ch) s = .next (retired (.xsend h a ch) s t)
        ∧ (let w : PisteWord := { ch := c, val := applyModifier (s.me.getV a.r) a.mod, x := x, y := y, cycle := die.cycle }
           w ∈ (t.die (coreDie s.curCore)).piste
            ∧ ∀ q ∈ (t.die (coreDie s.curCore)).piste, q = w ∨ q ∈ die.piste)))
    ∧ (Issues (.xsel h d ch) s →
      (63 < c → exec (.xsel h d ch) s = .next (trapMe (countIssue s) .illegal 50))
      ∧ (c ≤ 63 → ∃ r, exec (.xsel h d ch) s = .next (retired (.xsel h d ch) s (wrV (countIssue s) d r))
        ∧ (heard = [] → r = { bits := 0, tag := .b128 })
        ∧ (∀ w, heard = [w] → r = w.val)
        ∧ (∀ g, heard ≠ [] → (∀ w ∈ heard, w.val.tag = g) → r.tag = g)
        ∧ (∀ w ∈ heard, ∀ v ∈ heard, w.val.tag ≠ v.val.tag → r.tag = .b128)
        ∧ (∀ j, r.bits.getLsbD j = heard.any (fun w => w.val.bits.getLsbD j))))

/-! ## Continuations, stages and calls -/

/-- R225, R226, R229, R231, R232: `park` in the handler raises PRIV, with a bad event word ILLEGAL with 50, with a bad mask 59;
with room it leaves a record of pc + 16 and the live registers in its stage, parked or queued, and the context is idle. `enq`
puts the record that stands in local memory into its stage's queue. `jinit` makes a counter and writes its handle. Where the
quota is used up the plain forms raise QUOTA and the try forms write 0, as they do for a full stage. `jdone` of another
tenant's counter raises TENANT; otherwise it releases and sends the decrement. -/
def Obligations.Continuations : Prop :=
  ∀ (h : Header) (k : KReg) (d ev live a c : SReg) (stg n : SCon) (s u : State),
    let t := s.myTenant
    let c0 := countIssue s
    let w := readS s.me ev
    let mask := readS s.me live
    let ra := readS s.me a
    let bs := memBytes s.myCore.mem ra.toNat 320
    let st : BitVec 6 := (readSC s.me stg).setWidth 6
    let cnt := (readSC s.me n).toNat
    let pst : BitVec 6 := (wordAt bs 0).extractLsb' 2 6
    let ctr := readS s.me c
    let recOk : Prop := LocalOk s ra 320 64 false ∧ LocalClean s ra 320
    (∀ i, i = .park h ev live ∨ i = .parkTry h k ev live → Issues i s →
      (s.curCtx = 15 → exec i s = .next (trapMe c0 .priv 0))
      ∧ (s.curCtx ≠ 15 → s.me.pend ≠ .checked → eventWordOk c0 w = false → exec i s = .next (trapMe c0 .illegal 50))
      ∧ (s.curCtx ≠ 15 → eventWordOk c0 w = true → 16 < (maskBits mask).length → exec i s = .next (trapMe c0 .illegal 59))
      ∧ (s.curCtx ≠ 15 → eventWordOk c0 w = true → (maskBits mask).length ≤ 16 → reportsSettled s = true →
          reachable s (coreDie s.curCore) (s.stage t (evStage w)).home = true →
        (quotaFits s t 2 0 1 = false →
          exec i s = .next (match i with | .parkTry .. => retired i s (wrK c0 k false) | _ => trapMe c0 .quota 0))
        ∧ (quotaFits s t 2 0 1 = true → (s.stage t (evStage w)).full = true → (∃ x, i = .parkTry h x ev live) →
          exec i s = .next (retired i s (wrK c0 k false)))
        ∧ (quotaFits s t 2 0 1 = true → (s.stage t (evStage w)).full = false → (∀ m ∈ s.myCore.msgs, m.target ≠ s.curCtx) →
            Exchanged (c0.setMe { c0.me with pend := .checked }) (s.stage t (evStage w)).home true u →
          ∃ v e, exec i s = .next v ∧ v.me.run = .idle
            ∧ (e ∈ (v.stage t (evStage w)).parked ∨ e ∈ (v.stage t (evStage w)).queue)
            ∧ e.r.pc = s.me.pc + 16 ∧ e.r.mask = mask ∧ e.r.regs = (packLive s.me mask).1 ∧ e.r.vtags = (packLive s.me mask).2
            ∧ e.r.pri = evPri w ∧ e.r.stage = evStage w ∧ e.r.tenant = t ∧ e.r.join = s.me.joinVal)))
    ∧ (∀ i, i = .enq h stg a ∨ i = .enqTry h k stg a → Issues i s →
      ((63 < (readSC s.me stg).toNat ∨ (s.stage t st).declared = false) → exec i s = .next (trapMe c0 .illegal 50))
      ∧ ((readSC s.me stg).toNat ≤ 63 → (s.stage t st).declared = true → recOk →
        (∀ o, recFault false bs = some o → exec i s = .next (trapMe c0 .illegal (BitVec.ofNat 64 (128 + o))))
        ∧ (recFault false bs = none → MayRelease s → reachable s (coreDie s.curCore) (s.stage t st).home = true →
          (quotaFits s t 2 0 1 = false →
            exec i s = .next (match i with | .enqTry .. => retired i s (wrK c0 k false) | _ => trapMe c0 .quota 0))
          ∧ (quotaFits s t 2 0 1 = true → (s.stage t st).full = true → (∃ x, i = .enqTry h x stg a) →
            exec i s = .next (retired i s (wrK c0 k false)))
          ∧ (quotaFits s t 2 0 1 = true → (s.stage t st).full = false → Requested c0 [320] (s.stage t st).home true 0 u →
            ∃ v e, exec i s = .next (retired i s v) ∧ e ∈ (v.stage t st).queue ∧ e.src = s.curCore ∧ v.me.rc = s.me.rc + 1
              ∧ (∃ id, e.r = { recOfBytes bs with stage := st, tenant := t, id := id })
              ∧ (i = .enqTry h k stg a → v.me.getK k.r = true)))))
    ∧ (∀ i, i = .jinit h d n a ∨ i = .jinitTry h d k n a → Issues i s →
      ((cnt = 0 ∨ 2 ^ 24 ≤ cnt) → exec i s = .next (trapMe c0 .illegal 50))
      ∧ (0 < cnt → cnt < 2 ^ 24 → recOk → recFault true bs = none →
        ((s.stage t pst).declared = false → exec i s = .next (trapMe c0 .illegal 128))
        ∧ ((s.stage t pst).declared = true → (quotaFits s t 3 0 1 = false ∨ quotaFits s t 2 0 1 = false) →
            exec i s = .next (match i with | .jinitTry .. => retired i s (wrK (wrS c0 d 0) k false) | _ => trapMe c0 .quota 0))
        ∧ ((s.stage t pst).declared = true → quotaFits s t 3 0 1 = true → quotaFits s t 2 0 1 = true → (s.stage t pst).full = true →
            exec i s = .next (match i with
              | .jinitTry .. => retired i s (wrK (wrS c0 d 0) k false)
              | _ => holdMe (c0.setMe { c0.me with wdogCount := s.me.wdogCount })))
        ∧ ((s.stage t pst).declared = true → quotaFits s t 3 0 1 = true → quotaFits s t 2 0 1 = true → (s.stage t pst).full = false →
            Exchanged c0 (s.stage t pst).home true u →
          ∃ v slot, exec i s = .next (retired i s v)
            ∧ (let x := sparseGet {} (v.sector (s.stage t pst).home).counters slot
               x.used = true ∧ x.tenant = t ∧ x.count = cnt ∧ x.parent.pc = (recOfBytes bs).pc ∧ x.parent.stage = pst
                ∧ (d.r ≠ 0 → v.me.getS d.r = mkCounter x.gen t (s.stage t pst).home slot))
            ∧ (i = .jinitTry h d k n a → v.me.getK k.r = true))))
    ∧ (Issues (.jdone h c) s →
      (ctr.extractLsb' 41 7 ≠ t → exec (.jdone h c) s = .next (trapMe c0 .tenant 0))
      ∧ (ctr.extractLsb' 41 7 = t → MayRelease s → Admitted c0 [8] (counterHome ctr) u →
          reachable u (coreDie s.curCore) (counterHome ctr) = true →
          ∃ v q, exec (.jdone h c) s = .next (retired (.jdone h c) s v) ∧ v.net = u.net ++ [q] ∧ q.msg = .jdone ctr
            ∧ v.me.rc = s.me.rc + 1))

/-- R233, R234, R237: `stdecl` is the control context's; with ENABLE set and an undeclared stage whose CAP the queue quota
allows, it declares the stage with the fields of the declaration; a bad field raises ILLEGAL with 128 plus its lowest bit, and
too large a CAP QUOTA. Without ENABLE it withdraws an empty stage. `dist` of a stage with no DISTPC raises ILLEGAL with 50, of
too many chunks with 68, does nothing for an empty range, and otherwise, when no range is in progress, begins one.
R240, R422, R438: `scall` and `scall.sc` need a ring of at least 64-byte slots, else RING; with fewer than 16 calls
unanswered they release and retire, and the call stands at the instance of its sector with the six arguments and the next
number, or is answered 6 where the sector is fenced. -/
def Obligations.StagesAndCalls : Prop :=
  (∀ (h : Header) (stg : SCon) (a first last : SReg) (chunk : BitVec 20) (s u : State),
     let t := s.myTenant
     let c0 := countIssue s
     let x := readSC s.me stg
     let n : BitVec 6 := x.setWidth 6
     let st := s.stage t n
     let ra := readS s.me a
     let bs := memBytes s.myCore.mem ra.toNat 32
     let lo := (readS s.me first).toNat
     let hi := (readS s.me last).toNat
     let total := (hi - lo + chunk.toNat - 1) / chunk.toNat
     (Issues (.stdecl h stg a) s →
       (s.curCtx ≠ 0 → exec (.stdecl h stg a) s = .next (trapMe c0 .priv 0))
       ∧ (s.curCtx = 0 → 63 < x.toNat → exec (.stdecl h stg a) s = .next (trapMe c0 .illegal 50))
       ∧ (s.curCtx = 0 → x.toNat ≤ 63 → LocalOk s ra 32 32 false → LocalClean s ra 32 →
         (∀ b, declFault bs = some b → exec (.stdecl h stg a) s = .next (trapMe c0 .illegal (BitVec.ofNat 64 (128 + b))))
         ∧ (declFault bs = none → (wordAt bs 0).getLsbD 15 = true → st.declared = false →
           let cap := ((wordAt bs 0).extractLsb' 0 13).toNat
           (quotaFits s t 1 0 cap = false → exec (.stdecl h stg a) s = .next (trapMe c0 .quota 0))
           ∧ (quotaFits s t 1 0 cap = true → Exchanged c0 ((wordAt bs 0).extractLsb' 24 3) true u → ∃ v, exec (.stdecl h stg a) s = .next (retired (.stdecl h stg a) s v)
             ∧ (let y := v.stage t n
                y.declared = true ∧ y.cap = cap ∧ y.pri = (wordAt bs 0).extractLsb' 13 2 ∧ y.dies = (wordAt bs 0).extractLsb' 16 8
                 ∧ y.home = (wordAt bs 0).extractLsb' 24 3 ∧ y.min = ((wordAt bs 8).extractLsb' 0 12).toNat
                 ∧ y.max = ((wordAt bs 8).extractLsb' 16 12).toNat ∧ y.distPc = wordAt bs 16)))
         ∧ (declFault bs = none → (wordAt bs 0).getLsbD 15 = false → st.declared = true → st.queue = [] → st.parked = [] →
             st.parents = 0 → st.range = none → tillNames s t n = false → Exchanged c0 st.home true u →
             ∃ v, exec (.stdecl h stg a) s = .next (retired (.stdecl h stg a) s v) ∧ (v.stage t n).declared = false)))
     ∧ (Issues (.dist h stg first last chunk) s → x.toNat ≤ 63 → st.declared = true → 0 < chunk.toNat →
       (st.distPc = 0 → exec (.dist h stg first last chunk) s = .next (trapMe c0 .illegal 50))
       ∧ (st.distPc ≠ 0 → 2 ^ 24 < total → exec (.dist h stg first last chunk) s = .next (trapMe c0 .illegal 68))
       ∧ (st.distPc ≠ 0 → total ≤ 2 ^ 24 → hi ≤ lo →
           exec (.dist h stg first last chunk) s = .next (retired (.dist h stg first last chunk) s c0))
       ∧ (st.distPc ≠ 0 → total ≤ 2 ^ 24 → lo < hi → st.range = none → MayRelease s → Exchanged c0 st.home true u →
           ∃ v r, exec (.dist h stg first last chunk) s = .next (retired (.dist h stg first last chunk) s v)
             ∧ (v.stage t n).range = some r ∧ r.first.toNat = lo ∧ r.last.toNat = hi ∧ r.chunk = chunk.toNat ∧ r.total = total
             ∧ r.started = [] ∧ r.master = [] ∧ v.me.rc = s.me.rc + 1))) ∧
  (∀ (h : Header) (svc : BitVec 12) (ring : BitVec 4) (s u : State) (i : Instr),
     i = .scall h svc ring ∨ i = .scallSc h svc ring → Issues i s →
     let r := s.myCore.ring ring
     let c0 := countIssue s
     let d := callInstance c0 svc (s.me.getS 1)
     ((r.defined = false ∨ 2 ^ r.lg < 64) → exec i s = .next (trapMe c0 .ring (ring.setWidth 64)))
     ∧ (r.defined = true → 64 ≤ 2 ^ r.lg → s.me.calls.length < 16 → MayRelease s → Crosses c0 [64] d true u →
       ∃ v, exec i s = .next (retired i s v) ∧ v.me.callSeq = s.me.callSeq + 1 ∧ v.me.rc = s.me.rc + 1
         ∧ v.me.calls.length = s.me.calls.length + 1
         ∧ ((u.die d).fenced = true → ∃ q, v.replies = u.replies ++ [q] ∧ q.status = 6 ∧ q.seq = s.me.callSeq ∧ q.ring = ring)
         ∧ ((u.die d).fenced = false → reachable u (coreDie s.curCore) d = true →
             ∃ q, (v.sector d).calls = (u.sector d).calls ++ [q] ∧ q.owner = s.myHandle ∧ q.svc = svc ∧ q.seq = s.me.callSeq
               ∧ q.ring = ring ∧ q.tenant = s.myTenant ∧ q.args = [1, 2, 3, 4, 5, 6].map (fun (j : BitVec 6) => s.me.getS j))))

/-! ## Movement -/

/-- R306 to R308: `seal` writes the number of the open batch, seals it, unless it has nothing unfinished, and opens the next;
`bwait` retires when at most n sealed batches are unfinished, and raises ILLEGAL with 41 for n above 15.
R310: the checks of `send` in their order, once its context may release and the copy engine has room; then the bytes leave
for the ring of the target core in one packet, and the operation joins the open batch. -/
def Obligations.BatchesAndSends : Prop :=
  (∀ (h : Header) (d : SReg) (n : SCon) (s : State),
     let c0 := countIssue s
     let x := (readSC s.me n).toNat
     let unfinished := s.myCore.ops.any (fun o => o.owner == s.myHandle && o.batch == s.me.batch)
     (Issues (.seal h d) s → s.me.sealed.length < 15 → ∃ t, exec (.seal h d) s = .next (retired (.seal h d) s t)
         ∧ (d.r ≠ 0 → t.me.getS d.r = BitVec.ofNat 64 (s.me.batch % 16)) ∧ t.me.batch = s.me.batch + 1
         ∧ t.me.sealed = (if unfinished then s.me.sealed ++ [s.me.batch] else s.me.sealed))
     ∧ (Issues (.seal h d) s → 15 ≤ s.me.sealed.length →
         exec (.seal h d) s = .next (holdMe (c0.setMe { c0.me with wdogCount := s.me.wdogCount })))
     ∧ (Issues (.bwait h n) s →
         (15 < x → exec (.bwait h n) s = .next (trapMe c0 .illegal 41))
         ∧ (x ≤ 15 → s.me.sealed.length ≤ x → exec (.bwait h n) s = .next (retired (.bwait h n) s c0))
         ∧ (x ≤ 15 → x < s.me.sealed.length →
             exec (.bwait h n) s = .next (holdMe (c0.setMe { c0.me with wdogCount := s.me.wdogCount }))))) ∧
  (∀ (h : Header) (a c : SReg) (n : SCon) (ring : BitVec 4) (s u : State),
     let i : Instr := .send h a c n ring
     let c0 := countIssue s
     let src := readS s.me a
     let len := (readSC s.me n).toNat
     let v := readS s.me c
     let tc : CoreId := v.setWidth 16
     let target : Prop := v.toNat < 2 ^ 16 ∧ coreExists tc = true
     Issues i s → MayRelease s → CopyRoom s →
     ((len < 1 ∨ 16384 < len) → exec i s = .next (trapMe c0 .illegal 59))
     ∧ (1 ≤ len → len ≤ 16384 →
       (¬target → exec i s = .next (trapMe c0 .illegal 50))
       ∧ (target → src.toNat % 16 ≠ 0 → exec i s = .next (trapMe c0 .align src))
       ∧ (target → src.toNat % 16 = 0 → (isLocal src = false ∨ s.myCore.scratch < src.toNat + len) →
           exec i s = .next (trapMe c0 .xlatePerm src))
       ∧ (target → src.toNat % 16 = 0 → isLocal src = true → src.toNat + len ≤ s.myCore.scratch →
         (s.tenantOf tc ≠ s.myTenant → exec i s = .next (trapMe c0 .tenant (tc.setWidth 64)))
         ∧ (s.tenantOf tc = s.myTenant →
             (∀ o ∈ s.myCore.ops, ∀ x y z w p q r, ¬(o.owner = s.myHandle ∧ o.op = .copy x y z w p q r)) →
             Admitted (leftCopyWait c0) (itemBytes len) (coreDie tc) u → reachable u (coreDie s.curCore) (coreDie tc) = true →
             ∃ t q, exec i s = .next (retired i s t) ∧ Joins s t .delivery ∧ t.net = u.net ++ [q]
               ∧ q.msg = .delivery tc ring (s.myCore.readLocal src.toNat len) ∧ t.me.rc = s.me.rc + 1))))

/-- R309, R311, R312: `cpy` of a record that fails a check of its contents raises ILLEGAL with 128 plus the offset of the first
failing 8 bytes, misaligned addresses raise ALIGN; a copy within the scratchpad is accepted and joins the open batch. -/
def Obligations.Copies : Prop :=
  ∀ (h : Header) (a : SReg) (s : State),
    let i : Instr := .cpy h a
    let c0 := countIssue s
    let ra := readS s.me a
    let bs := memBytes s.myCore.mem ra.toNat 160
    let esz := ((wordAt bs 0x10).extractLsb' 4 3).toNat
    let rank := ((wordAt bs 0x10).extractLsb' 0 4).toNat
    let ext := (List.range rank).map (extAt bs)
    let sstr := (List.range rank).map (fun d => strideAt bs (0x40 + 5 * d))
    let dstr := (List.range rank).map (fun d => strideAt bs (0x68 + 5 * d))
    let es := copyElems (wordAt bs 0) (wordAt bs 8) ext sstr dstr
    let even (x : Word) (st : List Int) : Prop := x.toNat % 2 ^ esz = 0 ∧ ∀ y ∈ st, y % (2 ^ esz : Nat) = 0
    let fits (x : Word) : Prop := isLocal x = true ∧ x.toNat + 2 ^ esz ≤ s.myCore.scratch
    Issues i s → LocalOk s ra 160 32 false → LocalClean s ra 160 → (wordAt bs 0x10).getLsbD 8 = false → CopyRoom s →
    (∀ o, copyRecFault bs = some o → exec i s = .next (trapMe c0 .illegal (BitVec.ofNat 64 (128 + o))))
    ∧ (copyRecFault bs = none →
      (¬even (wordAt bs 0) sstr → exec i s = .next (trapMe c0 .align (wordAt bs 0)))
      ∧ (even (wordAt bs 0) sstr → ¬even (wordAt bs 8) dstr → exec i s = .next (trapMe c0 .align (wordAt bs 8)))
      ∧ (even (wordAt bs 0) sstr → even (wordAt bs 8) dstr → (∀ e ∈ es, fits e.1 ∧ fits e.2) →
          ∃ t, exec i s = .next (retired i s t)
            ∧ Joins s t (.copy (wordAt bs 0) (wordAt bs 8) esz ext sstr dstr none)))

/-- R286, R293, R313, R314: `tsub` and `tdrain` of a TID that names no record raise TID_INVALID; then a count outside 1 to 65,535
raises ILLEGAL with 50, tiles beyond the last 41, and a ring that is undefined or whose slots are too small RING; with every page
of its tiles mapped the operation joins the open batch. -/
def Obligations.TileMoves : Prop :=
  ∀ (h : Header) (f n : SCon) (tid : Tid) (ring : BitVec 4) (s : State) (i : Instr) (drain : Bool),
    (i = .tsub h f n tid ring ∧ drain = false) ∨ (i = .tdrain h f n tid ring ∧ drain = true) → Issues i s → CopyRoom s →
    let c0 := countIssue s
    let look := lookDesc (leftCopyWait c0) tid
    let first := (readSC s.me f).toNat
    let count := (readSC s.me n).toNat
    let r := s.myCore.ring ring
    (look = none → exec i s = .next (trapMe c0 .tidInvalid (tid.setWidth 64)))
    ∧ (∀ d c1, look = some (d, c1) →
      ((count < 1 ∨ 65535 < count) → exec i s = .next (trapMe c0 .illegal 50))
      ∧ (1 ≤ count → count ≤ 65535 → d.tileCount < first + count → exec i s = .next (trapMe c0 .illegal 41))
      ∧ (1 ≤ count → count ≤ 65535 → first + count ≤ d.tileCount → (r.defined = false ∨ 2 ^ r.lg < d.tileSize) →
          exec i s = .next (trapMe c0 .ring (ring.setWidth 64)))
      ∧ (1 ≤ count → count ≤ 65535 → first + count ≤ d.tileCount → r.defined = true → d.tileSize ≤ 2 ^ r.lg →
          Mapped c1 (if drain then .write else .read) (tileEnds d ((List.range count).map (first + ·))) →
          ∃ t, exec i s = .next (retired i s t)
            ∧ Joins s t (if drain then .drain tid first count ring 0 else .load tid first count ring 0)))

/-- R286, R315, R316: `gath` and `tfind` of a TID that names no record raise TID_INVALID. An index register of `gath` that is not
I32, or a format with another number of lanes, raises TAG; an index at or beyond the elements gives zero bits, and every other
lane the element that its index names, read through the TID's entries, or all lanes zero bits where one of those elements is
poisoned (R417); nothing is checked or recorded for races. A tile number at or
above the number of tiles raises ILLEGAL with 41 for `tfind`, which otherwise tells whether the tile's home slice holds its
entry, TID 0 naming the flat space, and changes no memory. -/
def Obligations.TileReads : Prop :=
  ∀ (h : Header) (v w : VReg) (k : KReg) (q : SCon) (tid : Tid) (cnt : BitVec 2) (s u : State),
    let c0 := countIssue s
    let n := cnt.toNat + 1
    let reg (x : Nat) : VVal := s.me.getV (w.r + BitVec.ofNat 5 x)
    let idx (j : Nat) : Nat := lane (reg (j / 4)) (j % 4)
    let tile := (readSC s.me q).toNat
    let gath : Instr := .gath h v w tid cnt
    let tfind : Instr := .tfind h k q tid
    let finds (c1 : State) (count : Nat) : Prop :=
      (count ≤ tile → exec tfind s = .next (trapMe c0 .illegal 41))
      ∧ (tile < count →
        (tileSlot c1 s.myTenant tid tile = none → exec tfind s = .next (retired tfind s (wrK c1 k false)))
        ∧ (∀ cl tag, tileSlot c1 s.myTenant tid tile = some (cl, tag) → Exchanged c1 (cl.extractLsb' 10 3) false u →
          ∃ t, exec tfind s = .next (retired tfind s t) ∧ SameMemory s t
            ∧ (k.r ≠ 0 → t.me.getK k.r = (s.cluster cl).slice.any (fun e => e.tag == tag && e.copy == false))))
    (Issues gath s → lookDesc c0 tid = none → exec gath s = .next (trapMe c0 .tidInvalid (tid.setWidth 64)))
    ∧ (∀ r c1, Issues gath s → lookDesc c0 tid = some (r, c1) →
      ((∃ x, x < n ∧ (reg x).tag ≠ .i32) → ∃ e, exec gath s = .next (trapMe c0 .tag e))
      ∧ ((∀ x, x < n → (reg x).tag = .i32) →
        (r.tag.lanes ≠ 4 * n → ∃ e, exec gath s = .next (trapMe c0 .tag e))
        ∧ (∀ c2 fr, r.tag.lanes = 4 * n →
          let total := r.ext.foldl (· * ·) 1
          let lo (j : Nat) : Nat := r.bits * j / 8
          let len (j : Nat) : Nat := (r.bits * j + r.bits - 1) / 8 + 1 - r.bits * j / 8
          let inside := (((List.range (4 * n)).map idx).filter (· < total)).map r.elemAt
          let addrs := inside.flatMap (fun e => (tileAddrs r e.1 (lo e.2) (len e.2)).map (fun a => canon a.2))
          let dies := (inside.map (fun e => dieOf s s.myTenant (r.tileAddr e.1))).dedup
          Translates c1 .read addrs c2 fr → c2.linkUp = true →
          RequestedAll c2 [16] ((dies.filter (· != coreDie s.curCore)).map (fun _ => 16)) dies 16 u →
          ∃ t vals, exec gath s = .next (retired gath s t) ∧ t.me.getV v.r = packLanes r.tag vals ∧ vals.length = 4 * n
            ∧ t.grans = u.grans
            ∧ (let bytes (j : Nat) : List PByte := tileBytes t s.myTenant tid r (r.elemAt (idx j)).1 (coreDie s.curCore)
               let bad (j : Nat) : Prop := idx j < total
                 ∧ (cleanBytes (((bytes j).drop (lo (r.elemAt (idx j)).2)).take (len (r.elemAt (idx j)).2))).2 ≠ none
               ∀ j, j < 4 * n → (total ≤ idx j → vals.getD j 0 = 0)
                 ∧ ((∃ i, i < 4 * n ∧ bad i) → vals.getD j 0 = 0)
                 ∧ (idx j < total → (∀ i, i < 4 * n → ¬bad i) →
                     vals.getD j 0 = imageBits ((bytes j).map (·.1)) r.bits (r.elemAt (idx j)).2)))))
    ∧ (Issues tfind s → tid ≠ 0 → lookDesc c0 tid = none → exec tfind s = .next (trapMe c0 .tidInvalid (tid.setWidth 64)))
    ∧ (∀ d c1, Issues tfind s → tid ≠ 0 → lookDesc c0 tid = some (d, c1) → finds c1 d.tileCount)
    ∧ (Issues tfind s → tid = 0 → finds c0 (2 ^ 48))

/-- R317 to R319: the tile operations of a TID that names no record raise TID_INVALID; a mask of `tnear` with a bit at or above the
rank, and a die of `thalo` above 7, raise ILLEGAL with 50; each joins the open batch once what it translates has translated.
That a tile number at or beyond the tensor's tiles is accepted without a trap, and has nothing to translate for `thalo`, is log 37.
R286 to R288, R320 to R322: `tdef` of a TID that is 0 or at or above 1,024 raises TID_INVALID, of an installed one ILLEGAL with
41; a record in local memory that passes the checks of R288 is installed within the quota. `tget` writes the 128 bytes of the
record. `tkill` removes it once nothing unfinished names it, and no dirty byte of it waits for the link (R419). Both that install and that remove leave no copy of a record of the TID in
a cluster of the tenant. -/
def Obligations.TileOperations : Prop :=
  (∀ (h : Header) (n x : SCon) (tid : Tid) (s : State),
     let c0 := countIssue s
     let look := lookDesc (leftCopyWait c0) tid
     let q := (readSC s.me n).toNat
     let y := (readSC s.me x).toNat
     CopyRoom s →
     (∀ i, i = .tnear h n x tid ∨ i = .thalo h n x tid ∨ i = .tdrop h tid ∨ i = .tflush h tid → Issues i s →
       look = none → exec i s = .next (trapMe c0 .tidInvalid (tid.setWidth 64)))
     ∧ (∀ d c1, look = some (d, c1) →
       (Issues (.tnear h n x tid) s →
         (2 ^ d.rank ≤ y → exec (.tnear h n x tid) s = .next (trapMe c0 .illegal 50))
         ∧ (y < 2 ^ d.rank → ∃ t, exec (.tnear h n x tid) s = .next (retired (.tnear h n x tid) s t)
             ∧ Joins s t (.tile 0 tid q y h.hint)))
       ∧ (Issues (.thalo h n x tid) s →
         (7 < y → exec (.thalo h n x tid) s = .next (trapMe c0 .illegal 50))
         ∧ (y ≤ 7 → Mapped c1 .read (if q < d.tileCount then tileEnds d [q] else []) →
             ∃ t, exec (.thalo h n x tid) s = .next (retired (.thalo h n x tid) s t) ∧ Joins s t (.tile 1 tid q y h.hint)))
       ∧ (Issues (.tdrop h tid) s → ∃ t, exec (.tdrop h tid) s = .next (retired (.tdrop h tid) s t) ∧ Joins s t (.tile 2 tid 0 0 0))
       ∧ (Issues (.tflush h tid) s → Mapped c1 .read (tileEnds d (List.range d.tileCount)) →
           ∃ t, exec (.tflush h tid) s = .next (retired (.tflush h tid) s t) ∧ Joins s t (.tile 3 tid 0 0 0)))) ∧
  (∀ (h : Header) (t : SCon) (a : SReg) (s : State),
     let c0 := countIssue s
     let x := readSC s.me t
     let tid : Tid := x.setWidth 16
     let sa := readS s.me a
     let bs := memBytes s.myCore.mem sa.toNat 128
     let only (v : State) : Prop := (∀ o, o ≠ tid → v.desc s.myTenant o = s.desc s.myTenant o)
       ∧ ∀ cl, (v.cluster cl).tenant = s.myTenant → sparseFind (v.cluster cl).descs tid.toNat = none
     (Issues (.tdef h t a) s →
       ((x = 0 ∨ 1024 ≤ x.toNat) → exec (.tdef h t a) s = .next (trapMe c0 .tidInvalid x))
       ∧ (x ≠ 0 → x.toNat < 1024 →
         (s.desc s.myTenant tid ≠ none → exec (.tdef h t a) s = .next (trapMe c0 .illegal 41))
         ∧ (s.desc s.myTenant tid = none → LocalOk s sa 128 128 false → LocalClean s sa 128 →
           (∀ c e, descFault c0 bs = some (c, e) → exec (.tdef h t a) s = .next (trapMe c0 c (BitVec.ofNat 64 e)))
           ∧ (descFault c0 bs = none → quotaFits s s.myTenant 5 0 1 = true → ∃ v,
               exec (.tdef h t a) s = .next (retired (.tdef h t a) s v) ∧ v.desc s.myTenant tid = some (descOfBytes bs) ∧ only v))))
     ∧ ((65536 ≤ x.toNat ∨ lookDesc c0 tid = none) → ∀ i, i = .tget h t a ∨ i = .tkill h t → Issues i s →
         exec i s = .next (trapMe c0 .tidInvalid x))
     ∧ (∀ d c1, x.toNat < 65536 → lookDesc c0 tid = some (d, c1) →
       (Issues (.tget h t a) s → LocalOk s sa 128 128 true →
         exec (.tget h t a) s = .next (retired (.tget h t a) s (c1.setMyCore (c1.myCore.writeLocal sa.toNat (good d.bytes)))))
       ∧ (Issues (.tkill h t) s → tidBusy c0 s.myTenant tid = false → tidDown c1 s.myTenant tid d = none → ∃ v,
           exec (.tkill h t) s = .next (retired (.tkill h t) s v) ∧ v.desc s.myTenant tid = none ∧ only v)))

/-- R274, R310, R312 to R314, R317 to R319, R371, R441: the events of movement. A delivery that can claim the next slot fills it with
its bytes and zeros and publishes it, and its packet is gone. A copy of one element within a scratchpad whose item is admitted
moves its bytes and completes. The loader publishes a slot with the bytes of one tile as they are read at home and zeros, the storer
frees the oldest filled slot, whose bytes stand then in the tile's entry at its home wherever the tile holds an element, each once
its tile is admitted and its home, in service, answers, and the last tile completes the operation; a tile operation completes. -/
def Obligations.MovementEvents : Prop :=
  ∀ (s u : State) (p : Pkt) (core : CoreId) (ring : BitVec 4) (data : List PByte) (o : CopyOp),
    let k := s.core core
    let r := k.ring ring
    let now := s.cycleAt core
    let done (t : State) : Prop := ∀ x ∈ (t.core core).ops, x.id ≠ o.id
    let slot (t : State) (j : Nat) : Slot := ((t.core core).ring ring).slots.getD j .free
    let goes (tid : Tid) (d : Desc) (tile : Nat) : Prop :=
      let home := dieOf s o.tenant (d.tileAddr tile)
      s.desc o.tenant tid = some d ∧ ringLost k o ring d.tileSize = false ∧ stFirst k o = true ∧ tileDown s o d tile = false
        ∧ unserved s (coreDie core) home = false ∧ (s.die home).fenced = false
        ∧ (exchange s (coreDie core) home false).isSome = true ∧ admitTile s core o d.tileSize home = .ok u
    (findPkt s s.pick.id = some p → p.msg = .delivery core ring data → s.tenantOf core = p.tenant → k.cuts.contains (ring, .pkt p.id) = false →
      r.defined = true → data.length ≤ 2 ^ r.lg → k.splitting = false → r.nextPos < r.slots.length → slot s r.nextPos = .free →
      (r.waitFree = [] ∨ r.waitFree.head? = some (.pkt p.id)) → hears r.heardFree now (rankDelivery core p.src) = true →
      ∃ t, exec .sendDelivery s = .next t ∧ slot t r.nextPos = .filled p.rel ∧ (∀ q ∈ t.net, q.id ≠ p.id)
        ∧ (∀ j, j < 2 ^ r.lg → memByte (t.core core).mem (r.slotBase r.nextPos + j) = (data.getD j (0, false)).1))
    ∧ (s.pick.core = core → k.ops.find? (fun x => x.id == s.pick.id) = some o →
      (∀ a b esz, o.op = .copy a b esz [1] [0] [0] none → esz ≤ 4 → cpFirst k o = true → isLocal a = true → isLocal b = true →
        admitOp s core o [1] [] = .ok u →
        ∃ t, exec .copyComplete s = .next t ∧ done t
          ∧ (∀ j, j < 2 ^ esz → memByte (t.core core).mem (b.toNat + j) = memByte k.mem (a.toNat + j)))
      ∧ (∀ tid first count n d, o.op = .load tid first count ring n → goes tid d (first + n) →
          r.nextPos < r.slots.length → slot s r.nextPos = .free → (r.waitFree = [] ∨ r.waitFree.head? = some (.op o.id)) →
          hears r.heardFree now rankMover = true →
          ∃ t, exec .loaderTilePush s = .next t ∧ slot t r.nextPos = .filled [] ∧ (n + 1 = count → done t)
            ∧ (let bs := tileBytes t o.tenant tid d (first + n) (dieOf s o.tenant (d.tileAddr (first + n)))
               ∀ x, x < 2 ^ r.lg → memByte (t.core core).mem (r.slotBase r.nextPos + x)
                 = if x < d.tileSize then (bs.getD x (0, false)).1 else 0)
            ∧ (n + 1 ≠ count → ∃ y ∈ (t.core core).ops, y.id = o.id ∧ y.op = .load tid first count ring (n + 1)))
      ∧ (∀ tid first count n d j rest, o.op = .drain tid first count ring n → goes tid d (first + n) →
          r.filledOrder = j :: rest → j < r.slots.length → (r.waitFill = [] ∨ r.waitFill.head? = some (.op o.id)) →
          hears r.heardFill now rankMover = true →
          let tag := tensorTag o.tenant tid (first + n)
          let home := tileHome s o.tenant tid d (first + n)
          probesGo s (dieOf s o.tenant (d.tileAddr (first + n))) (tagHolders s tag) = true →
          (∀ e, tileEntry s home tag false = some e → e.data.length = 512 ∧ e.mask.length = 512) →
          ∃ t, exec .storerTileWrite s = .next t ∧ slot t j = .free ∧ (n + 1 = count → done t)
            ∧ (∃ e, tileEntry t home tag false = some e ∧ ∀ a ∈ tileAddrs d (first + n) 0 d.tileSize, a.1 < 512 →
                e.data.getD a.1 0 = memByte k.mem (r.slotBase j + a.1) ∧ e.mask.getD a.1 false = true)
            ∧ (n + 1 ≠ count → ∃ y ∈ (t.core core).ops, y.id = o.id ∧ y.op = .drain tid first count ring (n + 1)))
      ∧ (∀ kind tid q arg hint, o.op = .tile kind tid q arg hint → cpFirst k o = true →
          (∀ d, s.desc o.tenant tid = some d →
            let qs := if kind = 0 then neighbours d q arg else if kind = 1 then [q] else []
            tilesDown s o d kind qs = false
              ∧ (exchangeAll s (coreDie core) (qs.map (fun n => dieOf s o.tenant (d.tileAddr n))
                  ++ (if kind = 1 then [BitVec.ofNat 3 arg] else [])
                  ++ (if 2 ≤ kind then tidDies s o.tenant tid d (kind == 3) else []))).isSome = true) →
          ∃ t, exec .tileOperationComplete s = .next t ∧ done t))

/-! ## The matrix engine -/

/-- R171, R172, R177 to R183, R185, R191: the engine instructions once the queue has room. `mload`, `mstore` and `gemv` name areas
of local memory, aligned to 64 and 16; `mma` and `mcvt` name installed records by a register; each makes its checks in order,
with no effect when one fails, and otherwise enters the queue with the fields of its records as they stand. That TID_INVALID carries
the whole register is log 49, and that the length of a `gemv` is checked before its number of results is log 65.
R171, R191, R192: `gemv` into a ring or into memory. It checks the rank, the format, the length of A against the first extent, the
number of results, the area of A, the alignment of a result in memory, which may not be local, the pages of B and of that result,
and the ring, in this order; then, its packets to the homes of B delivered and admitted, it enters the queue with the fields of its record, and
becomes the last `gemv` of its context. -/
def Obligations.EngineQueue : Prop :=
  (∀ (h : Header) (m : MReg) (a b : SReg) (ring gate : BitVec 4) (shape : BitVec 12) (s : State),
     let c0 := countIssue s
     let xa := readS s.me a
     let xb := readS s.me b
     let rec_ (x : Word) (d : Desc) : Prop := x.toNat < 65536 ∧ recordOf s (x.setWidth 16) = some d
     let gone (x : Word) : Prop := 65536 ≤ x.toNat ∨ recordOf s (x.setWidth 16) = none
     let holds (r : BitVec 4) (n : Nat) : Prop := (s.myCore.ring r).defined = true ∧ n ≤ 2 ^ (s.myCore.ring r).lg
     let mma : Instr := .mma h m a b ring gate shape
     let mcvt : Instr := .mcvt h m a ring
     EngineRoom s →
     (Issues (.mzero h m) s → ∃ t, exec (.mzero h m) s = .next (retired (.mzero h m) s t) ∧ Enters s t .mzero (fun e => e.m = m.r))
     ∧ (∀ i op, (i = .mload h m a ∧ op = .mload) ∨ (i = .mstore h a m ∧ op = .mstore) → Issues i s →
         (xa.toNat % 64 ≠ 0 → exec i s = .next (trapMe c0 .align xa))
         ∧ (xa.toNat % 64 = 0 → (isLocal xa = false ∨ s.myCore.scratch < xa.toNat + 2048) → exec i s = .next (trapMe c0 .xlatePerm xa))
         ∧ (AreaOk s xa 2048 64 → ∃ t, exec i s = .next (retired i s t) ∧ Enters s t op (fun e => e.m = m.r ∧ e.ops1 = xa)))
     ∧ (Issues mma s →
       (gone xa → exec mma s = .next (trapMe c0 .tidInvalid xa))
       ∧ (∀ da, rec_ xa da → gone xb → exec mma s = .next (trapMe c0 .tidInvalid xb))
       ∧ (∀ da db, rec_ xa da → rec_ xb db →
         let ca := capOf da
         let cb := capOf db
         let aOk : Prop := ktOk ca.tag ca.tile0 = true ∧ ca.tile1 = 32 ∧ flatTile da = true
         let bOk : Prop := cb.tile0 = 16 ∧ cb.tile1 = ca.tile0 ∧ flatTile db = true
         ((ca.tag ≠ cb.tag ∨ mmaTag ca.tag = false) → ∃ e, exec mma s = .next (trapMe c0 .tag e))
         ∧ (ca.tag = cb.tag → mmaTag ca.tag = true →
           (¬aOk → exec mma s = .next (trapMe c0 .tdtTile 0))
           ∧ (aOk → ¬bOk → exec mma s = .next (trapMe c0 .tdtTile 1))
           ∧ (aOk → bOk → ¬holds ring ca.size → exec mma s = .next (trapMe c0 .ring (ring.setWidth 64)))
           ∧ (aOk → bOk → holds ring ca.size → ¬holds gate cb.size → exec mma s = .next (trapMe c0 .ring (gate.setWidth 64)))
           ∧ (aOk → bOk → holds ring ca.size → holds gate cb.size → ∃ t, exec mma s = .next (retired mma s t)
             ∧ Enters s t .mma (fun e => e.m = m.r ∧ e.capA = ca ∧ e.capB = cb ∧ e.ringA = ring ∧ e.ringB = gate
                 ∧ e.shape = shape.toNat ∧ e.k = 0)))))
     ∧ (Issues mcvt s →
       (gone xa → exec mcvt s = .next (trapMe c0 .tidInvalid xa))
       ∧ (∀ d, rec_ xa d →
         let c := capOf d
         let fits : Prop := 16 % c.tile0 = 0 ∧ 32 % c.tile1 = 0 ∧ flatTile d = true ∧ (c.tag = .q4 → c.tile0 % 2 = 0)
           ∧ (c.tag = .t6 → c.tile0 % 4 = 0)
         (c.tag = .b128 → ∃ e, exec mcvt s = .next (trapMe c0 .tag e))
         ∧ (c.tag ≠ .b128 → ¬fits → exec mcvt s = .next (trapMe c0 .tdtTile 0))
         ∧ (c.tag ≠ .b128 → fits → ¬holds ring c.size → exec mcvt s = .next (trapMe c0 .ring (ring.setWidth 64)))
         ∧ (c.tag ≠ .b128 → fits → holds ring c.size → ∃ t, exec mcvt s = .next (retired mcvt s t)
           ∧ Enters s t .mcvt (fun e => e.m = m.r ∧ e.capA = c ∧ e.ringA = ring))))) ∧
  (∀ (h : Header) (a r : SReg) (n : SCon) (tid : Tid) (ring : BitVec 4) (bf16 mem : Bool) (s u : State),
     let i : Instr := .gemv h a n r tid ring bf16 mem
     let c0 := countIssue s
     let look := lookDesc (leftEngWait c0) tid
     let x := readS s.me a
     let y := readS s.me r
     let len := (readSC s.me n).toNat
     EngineRoom s → Issues i s →
     (look = none → exec i s = .next (trapMe c0 .tidInvalid (tid.setWidth 64)))
     ∧ (∀ d c1, look = some (d, c1) →
       let bits := d.ext.headD 0 * d.bits
       let nx := d.ext.getD 1 0
       let format : Prop := d.tag ≠ .b128 ∧ d.tag ≠ .i16 ∧ d.tag ≠ .i32 ∧ d.tag ≠ .i64
       let shape : Prop := 1 ≤ len ∧ len ≤ 8192 ∧ 8 * len = bits
       let sound : Prop := d.rank = 2 ∧ format ∧ shape ∧ nx ≤ 2 ^ 24
       let ends : List Word := [canon d.base.toNat, canon (d.base.toNat + (nx - 1) * d.stride.getD 1 0 + bits / 8 - 1)]
       let out : List Word := if mem then [y, y + BitVec.ofNat 64 (nx * resBytes bf16 - 1)] else []
       (d.rank ≠ 2 → exec i s = .next (trapMe c0 .tdtRank (BitVec.ofNat 64 d.rank)))
       ∧ (d.rank = 2 → ¬format → exec i s = .next (trapMe c0 .tdtFormat (d.tag.bits.setWidth 64)))
       ∧ (d.rank = 2 → format → ¬shape → exec i s = .next (trapMe c0 .tdtTile (BitVec.ofNat 64 ((bits + 7) / 8))))
       ∧ (d.rank = 2 → format → shape → 2 ^ 24 < nx → exec i s = .next (trapMe c0 .tdtTile 0))
       ∧ (sound → x.toNat % 16 ≠ 0 → exec i s = .next (trapMe c0 .align x))
       ∧ (sound → x.toNat % 16 = 0 → (isLocal x = false ∨ s.myCore.scratch < x.toNat + len) → exec i s = .next (trapMe c0 .xlatePerm x))
       ∧ (sound → AreaOk s x len 16 →
         (mem = true → y.toNat % 64 ≠ 0 → exec i s = .next (trapMe c0 .align y))
         ∧ (mem = true → y.toNat % 64 = 0 → isLocal y = true → exec i s = .next (trapMe c0 .xlatePerm y))
         ∧ ((mem = true → y.toNat % 64 = 0 ∧ isLocal y = false) → ∀ c2 c3 f2 f3, Translates c1 .read ends c2 f2 →
             (∀ go, withPageList .write out f2 c2 go = go c3 f3) →
             (mem = false → (c3.myCore.ring ring).defined = false → exec i s = .next (trapMe c0 .ring (ring.setWidth 64)))
             ∧ ((mem = false → (c3.myCore.ring ring).defined = true) →
               CrossesAll c3 [len, nx * resBytes bf16] (gemvFab c3 (gemvDies c1 d) len (nx * resBytes bf16)) (gemvDies c1 d) u →
               ∃ t, exec i s = .next (retired i s t) ∧ Enters u t .gemv (fun e => e.ops1 = x ∧ e.ops2 = BitVec.ofNat 64 len
                 ∧ e.ops3 = y ∧ e.tidA = tid ∧ e.ringA = ring ∧ e.capB = capOf d ∧ e.gK = d.ext.headD 0 ∧ e.gN = nx
                 ∧ e.gBase = d.base.toNat ∧ e.gStride = d.stride.getD 1 0 ∧ e.bf16 = bf16 ∧ e.toMem = mem ∧ e.frames = f3
                 ∧ t.me.gemvLast = some e.id))))))

/-- R174, R184: `mwait`, `mmv.get` and `mmv.put` once no unfinished entry names the accumulator. Piece p is 4 elements of row
p / 4; `mmv.put` of a value that is not FP32 raises TAG, and a piece above 127 ILLEGAL with 59.
R187 to R190: `mspill` of an idle engine writes the accumulators and the counters to local memory and leaves the engine
empty with every accumulator element +0; `mrest` of a good area loads them again; an area that is not aligned to 64 raises ALIGN,
and one beyond the scratchpad XLATE_PERM. -/
def Obligations.AccumulatorsAndSpill : Prop :=
  (∀ (h : Header) (d : VReg) (m : MReg) (a : VSrc) (p : SCon) (s : State),
     let c0 := countIssue s
     let n := (readSC s.me p).toNat
     let elem (l : Nat) : Nat := n / 4 * 16 + 4 * (n % 4) + l
     let rest : Prop := (∀ x, s.me.pend ≠ .queued x) ∧ engineNames s.myCore m.r s.nextId = false
     (Issues (.mwait h m) s → rest → exec (.mwait h m) s = .next (retired (.mwait h m) s c0))
     ∧ (Issues (.mmvGet h d m p) s →
       (127 < n → exec (.mmvGet h d m p) s = .next (trapMe c0 .illegal 59))
       ∧ (n ≤ 127 → rest → (∀ l, l < 4 → accKey m.r (elem l) ∉ s.myCore.accPoison) →
           exec (.mmvGet h d m p) s = .next (retired (.mmvGet h d m p) s
             (wrV c0 d (packLanes .fp32 ((List.range 4).map (fun l => (s.myCore.accAt m.r (elem l)).toNat)))))))
     ∧ (Issues (.mmvPut h m a p) s → modBad (s.me.getV a.r) a.mod = false →
       let x := applyModifier (s.me.getV a.r) a.mod
       (x.tag ≠ .fp32 → ∃ e, exec (.mmvPut h m a p) s = .next (trapMe c0 .tag e))
       ∧ (x.tag = .fp32 → 127 < n → exec (.mmvPut h m a p) s = .next (trapMe c0 .illegal 59))
       ∧ (x.tag = .fp32 → n ≤ 127 → rest → ∃ t, exec (.mmvPut h m a p) s = .next (retired (.mmvPut h m a p) s t)
           ∧ (∀ l, l < 4 → t.myCore.accAt m.r (elem l) = BitVec.ofNat 32 (lane x l))
           ∧ (∀ q e, e < 512 → (q ≠ m.r ∨ ∀ l, l < 4 → e ≠ elem l) → t.myCore.accAt q e = s.myCore.accAt q e)))) ∧
  (∀ (h : Header) (a : SReg) (s : State),
     let c0 := countIssue s
     let x := readS s.me a
     let k := s.myCore
     let at_ (m : BitVec 2) (n : Nat) : Word := x + BitVec.ofNat 64 (2048 * m.toNat + 4 * n)
     let bs := memBytes k.mem x.toNat 8704
     (∀ i, i = .mspill h a ∨ i = .mrest h a → Issues i s →
       (x.toNat % 64 ≠ 0 → exec i s = .next (trapMe c0 .align x))
       ∧ (x.toNat % 64 = 0 → (isLocal x = false ∨ k.scratch < x.toNat + 8704) → exec i s = .next (trapMe c0 .xlatePerm x)))
     ∧ (AreaOk s x 8704 64 → k.engine = [] →
       (Issues (.mspill h a) s → ∃ t, exec (.mspill h a) s = .next (retired (.mspill h a) s t)
         ∧ (∀ m n, n < 512 → t.myCore.accAt m n = 0 ∧ localNat t (at_ m n) 4 = (k.accAt m n).toNat)
         ∧ localNat t (x + 0x2000) 8 = 0x4D53 ∧ localNat t (x + 0x2008) 8 = (mxWord k).toNat
         ∧ t.myCore.mxOvf = 0 ∧ t.myCore.mxNan = 0 ∧ t.myCore.mxNar = 0 ∧ t.myCore.engine = [])
       ∧ (Issues (.mrest h a) s → LocalClean s x 8704 →
         let env : DecodeEnv := { handler := false, matrixOff := decide (s.svc.toNat < 2) }
         (∀ o, areaFault env bs = some o → exec (.mrest h a) s = .next (trapMe c0 .illegal (BitVec.ofNat 64 o)))
         ∧ (areaFault env bs = none →
           let n := ((wordAt bs 0x2000).extractLsb' 16 2).toNat
           (∀ r, lapsedRing k bs n = some r → exec (.mrest h a) s = .next (trapMe c0 .ring (r.setWidth 64)))
           ∧ (lapsedRing k bs n = none → ∃ t, exec (.mrest h a) s = .next (retired (.mrest h a) s t)
             ∧ (∀ m e, e < 512 → t.myCore.accAt m e = BitVec.ofNat 32 (localNat s (at_ m e) 4))
             ∧ t.myCore.mxOvf * 2 ^ 42 + t.myCore.mxNan * 2 ^ 21 + t.myCore.mxNar = localNat s (x + 0x2008) 8)))))

/-- R173, R180, R182, R183, R186, R193: the events of the engine of a core. At its head `mzero` clears its accumulator, `mload`
loads it, `mstore` stores it, and a `gemv` goes on at the bank multipliers; one k step of an `mma` whose pair is taken adds the
exact term to every element, rounded once; an `mcvt` publishes a tile: rows of c elements, row by row, packed from bit 0 of the slot,
each converted from FP32 at the scale base of its record, with zeros after them; a `gemv` that no earlier one of its context
precedes and whose columns nothing holds publishes its next results in a slot. -/
def Obligations.EngineEvents : Prop :=
  ∀ (s : State) (core : CoreId) (e : EngEntry),
    let k := s.core core
    let gone (t : State) (id : Nat) : Prop := ∀ x ∈ (t.core core).engine, x.id ≠ id
    let bytes (t : State) (a n : Nat) : Nat := bytesNat (memBytes (t.core core).mem a n)
    let slot (t : State) (ring : BitVec 4) (j : Nat) : Slot := ((t.core core).ring ring).slots.getD j .free
    s.pick.core = core →
    (engineHead k = some e →
      (e.op = .mzero → ∃ t, exec .engineInstrComplete s = .next t ∧ gone t e.id ∧ ∀ n, n < 512 → (t.core core).accAt e.m n = 0)
      ∧ (e.op = .mload → ∃ t, exec .engineInstrComplete s = .next t ∧ gone t e.id
          ∧ ∀ n, n < 512 → (t.core core).accAt e.m n = BitVec.ofNat 32 (bytes s (e.ops1.toNat + 4 * n) 4))
      ∧ (e.op = .mstore → ∃ t, exec .engineInstrComplete s = .next t ∧ gone t e.id
          ∧ ∀ n, n < 512 → bytes t (e.ops1.toNat + 4 * n) 4 = (k.accAt e.m n).toNat)
      ∧ (e.op = .gemv → ∃ t g, exec .engineInstrComplete s = .next t ∧ gone t e.id ∧ (t.core core).gemvs = k.gemvs ++ [g]
          ∧ g.id = e.id ∧ g.a = k.readLocal e.ops1.toNat e.ops2.toNat ∧ g.done = 0)
      ∧ (∀ ha hb, e.op = .mma → e.slotA = some ha → e.slotB = some hb → e.capA.tag ≠ .q4 → e.k < e.capA.tile0 → s.pick.num = 1 →
          ∃ t, exec .mmaPairStep s = .next t ∧ ∀ n, n < 512 → (t.core core).accAt e.m n
            = (accAdd (k.accAt e.m n) (mmaTerm e (k.readLocal ha.addr.toNat e.capA.size) (k.readLocal hb.addr.toNat e.capB.size)
                e.k (n / 16) (n % 16)).1).1)
      ∧ (let r := k.ring e.ringA
         e.op = .mcvt → e.slotA = none → engineCut k e e.ringA e.capA.size = false → r.nextPos < r.slots.length →
          slot s e.ringA r.nextPos = .free → (r.waitFree = [] ∨ r.waitFree.head? = some (.engine e.id)) →
          hears r.heardFree (s.cycleAt core) rankEngine = true →
          let c := e.capA.tile0
          let h := e.capA.tile1
          let w := e.capA.tag.width
          let elem (x : Nat) : Nat := 16 * (e.pair / (16 / c) * h + x / c) + (e.pair % (16 / c) * c + x % c)
          let enc (x : Nat) : Nat := (encodeElem e.capA.tag e.capA.sb.toInt (elemVal .fp32 0 (k.accAt e.m (elem x)).toNat)).1
          ∃ t, exec .mcvtTilePublish s = .next t ∧ slot t e.ringA r.nextPos = .filled []
            ∧ bytes t (r.slotBase r.nextPos) (2 ^ r.lg)
              = ((List.range (h * c)).map (fun x => enc x * 2 ^ (w * x))).sum % 2 ^ (8 * e.capA.size)))
    ∧ (∀ g, k.gemvs.find? (fun x => x.id == s.pick.id) = some g → gvFirst k g = true → g.toMem = false → k.splitting = false →
        let r := k.ring g.ring
        let js := g.next (2 ^ r.lg)
        let bs := js.flatMap (gemvResult s core g)
        r.defined = true → k.cuts.contains (g.ring, .op g.id) = false → g.held s core (js.flatMap g.column) .read = none →
        (crossing s (g.die s g.done) (coreDie core) false).isSome = true →
        r.nextPos < r.slots.length → slot s g.ring r.nextPos = .free → (r.waitFree = [] ∨ r.waitFree.head? = some (.op g.id)) →
        hears r.heardFree (s.cycleAt core) rankGemv = true →
        ∃ t, exec .gemvResultDelivery s = .next t ∧ slot t g.ring r.nextPos = .filled []
          ∧ ∀ j, j < bs.length → memByte (t.core core).mem (r.slotBase r.nextPos + j) = (bs.getD j (0, false)).1)

/-! ## Folding and handles -/

/-- R18, R247, R250, R252: `fold` of an address that is no multiple of 16 raises ALIGN; otherwise, with fewer than eight requests in
the queue of its cluster's fold unit and an entry of its core's port free for it, the context is held and its request, with the
entry and the mask, stands last in that queue;
when the reply has come it retires, the status word is in `ctl.foldst` and S1's destinations receive the handle and the status.
The fold unit takes the oldest request: an outcome of 1 to 3 gives handle 0 with the outcome and the steps, a trap condition
leaves its cause, `ctl.einfo` and `ctl.foldpc`, and outcome 0 takes the lowest free slot of the tenant, which charges 256 bytes
and 16 for each residual instruction.
R263 to R265: a handle of another tenant raises TENANT at `callh`, `relh` and `hstat`; one that names no live slot raises
HANDLE_STALE at `callh` and `relh`. `callh` pushes pc + 16 on the link stack, puts it in s63, pins the slot and stands in its
residual code; `relh` releases the slot, which is reclaimed with its next generation where nothing pins it; `hstat` gives the
state, the pins, the counts and the marks, or 0. -/
def Obligations.Folding : Prop :=
  (∀ (h : Header) (dh ds e : SReg) (mask : BitVec 8) (s : State),
     let i : Instr := .fold h dh ds e mask
     let a := readS s.me e
     let cl := coreCluster s.curCore
     (Issues i s → (∀ y st, s.me.pend = .folded y st →
       ∃ v, exec i s = .next (retired i s v) ∧ v.me.foldst = st ∧ (ds.r ≠ 0 → v.me.getS ds.r = st)
         ∧ (dh.r ≠ 0 → dh.r ≠ ds.r → v.me.getS dh.r = y)))
     ∧ (Issues i s → s.me.pend = .none →
       (a % 16 ≠ 0 → exec i s = .next (trapMe (countIssue s) .align a))
       ∧ (a % 16 = 0 → (s.cluster cl).folds.length < 8 → s.myCore.foldPort.length < 2 →
           (s.myCore.foldWait = [] ∨ s.myCore.foldWait.head? = some s.curCtx) → ∃ v, exec i s = .next (holdMe v) ∧ v.me.pend = .folding
           ∧ (v.cluster cl).folds = (s.cluster cl).folds ++ [(s.curCore, s.curCtx, a, mask)]))
     ∧ (Issues i s → ∀ c x pc, s.me.pend = .foldTrap c x pc → ∃ v, exec i s = .next (trapMe v c x) ∧ v.me.foldpc = pc)
     ∧ (∀ (core : CoreId) (n : CtxNum) (entry : Word) (m : BitVec 8) (rest : List (CoreId × CtxNum × Word × BitVec 8)),
       let pc := s.pick.cluster
       let s0 := s.setCluster pc { s.cluster pc with folds := rest }
       let s1 := { s0.setCore core { s0.core core with foldPort := (s0.core core).foldPort.erase n } with curCore := core, curCtx := n }
       let t := s1.tenantOf core
       let r := foldRequest s1 core n entry m
       (s.cluster pc).folds = (core, n, entry, m) :: rest → (s1.ctx core n).pend = .folding →
       (∀ o steps, r = .error (.outcome o steps) → ∃ v, exec .foldRequestServe s = .next v ∧ (v.cluster pc).folds = rest
         ∧ (v.ctx core n).pend = .folded 0 (BitVec.ofNat 64 (steps * 2 ^ 32 + o)))
       ∧ (∀ c x p, r = .error (.trap c x p) → ∃ v, exec .foldRequestServe s = .next v
         ∧ (v.ctx core n).pend = .foldTrap c x (p.getD (s1.ctx core n).foldpc))
       ∧ (∀ f, r = .ok f →
         (∀ q, freeHandle s1 (s1.tenantSt t) = some q → quotaFits s1 t 6 0 1 = true → quotaFits s1 t 7 0 (256 + 16 * f.emitted) = true →
           ∃ v hd st, exec .foldRequestServe s = .next v ∧ (v.ctx core n).pend = .folded hd st
             ∧ hd = mkFoldHandle (sparseGet {} (s1.tenantSt t).handles q).gen t q
             ∧ st.extractLsb' 0 3 = 0 ∧ (f.emitted < 2 ^ 17 → (st.extractLsb' 15 17).toNat = f.emitted)
             ∧ (let y := sparseGet {} (v.tenantSt t).handles q
                y.used = true ∧ y.rescnt = f.emitted ∧ y.bytes = 256 + 16 * f.emitted ∧ y.points = f.points.map (fun p => p.body.getD {})))
         ∧ (freeHandle s1 (s1.tenantSt t) = none → ∃ v, exec .foldRequestServe s = .next v
           ∧ (v.ctx core n).pend = .foldTrap .quota 0 (s1.ctx core n).foldpc)))) ∧
  (∀ (h : Header) (d x : SReg) (s u : State),
     let c0 := countIssue s
     let t := s.myTenant
     let y := readS s.me x
     let q := (y.extractLsb' 0 32).toNat
     let r := s.me.pc + 16
     let asks : Prop := Exchanged c0 (handleHome y) false u
     let all : List Instr := [.callh h x, .relh h x, .hstat h d x]
     (∀ i ∈ all, Issues i s → y.extractLsb' 41 7 ≠ t → exec i s = .next (trapMe c0 .tenant 0))
     ∧ (y.extractLsb' 41 7 = t → ∀ i, i = .callh h x ∨ i = .relh h x → Issues i s →
         (handleSlot s y = none ∨ ∃ z, handleSlot s y = some z ∧ z.released = true) →
         exec i s = .next (trapMe c0 .handleStale y))
     ∧ (y.extractLsb' 41 7 = t → ∀ z, handleSlot s y = some z →
       (z.released = false →
         (Issues (.callh h x) s → asks → s.me.link.length < 16 → ∀ p j w, seatAt z.points (z.points.length + 1) 0 0 = some (p, j, w) →
           ∃ v, exec (.callh h x) s = .next (retiredTo (.callh h x) v.me.pc v) ∧ v.me.link = r :: s.me.link ∧ v.me.getS 63 = r
             ∧ v.me.resid = some { handle := y, point := p, index := j } ∧ v.me.pc = (residPc z.points p j).getD s.me.pc
             ∧ sparseGet {} (v.tenantSt t).handles q = { z with pins := z.pins + 1 })
         ∧ (Issues (.relh h x) s → asks → ∃ v, exec (.relh h x) s = .next (retired (.relh h x) s v)
           ∧ (z.pins = 0 → sparseGet {} (v.tenantSt t).handles q = { gen := if z.gen = 0xFFFF then 1 else z.gen + 1 })
           ∧ (z.pins ≠ 0 → sparseGet {} (v.tenantSt t).handles q = { z with released := true })))
       ∧ (Issues (.hstat h d x) s → asks → z.rescnt < 2 ^ 17 → z.pins < 2 ^ 20 → ∃ w : Word,
           exec (.hstat h d x) s = .next (retired (.hstat h d x) s (wrS u d w))
             ∧ w.extractLsb' 0 2 = (if z.released then 2 else 1) ∧ (w.extractLsb' 2 20).toNat = z.pins
             ∧ w.getLsbD 40 = z.partly ∧ w.getLsbD 41 = z.deferred ∧ (w.extractLsb' 47 17).toNat = z.rescnt))
     ∧ (y.extractLsb' 41 7 = t → handleSlot s y = none → Issues (.hstat h d x) s → asks →
         exec (.hstat h d x) s = .next (retired (.hstat h d x) s (wrS u d 0))))

/-! ## Control registers -/

/-- R93, R101, R103, R135, R170, R198, R204, R249, R250, R342, R365, R383, R387 to R394: what `mfc` reads from each control
register, with every field and reserved bit of the packed ones; while the handler handles a trap, `ctl.cause`, `ctl.epc`, `ctl.einfo` and
`ctl.jrnl` are those of the trapped context. `time` reads the time stamp. -/
def Obligations.ControlReads : Prop :=
  ∀ (h : Header) (d : SReg) (r : CtlReg) (s : State),
    let k := s.myCore
    let c := s.me
    let n : CtxNum := if s.curCtx = 15 then (match k.handling with
      | some (.trap m) => m
      | _ => 15) else s.curCtx
    let x := k.ctx n
    (Issues (.time h d) s →
      exec (.time h d) s = .next (retired (.time h d) s (wrS (countIssue s) d (BitVec.ofNat 64 s.time))))
    ∧ (Issues (.mfc h d r) s → ∃ v : Word, exec (.mfc h d r) s = .next (retired (.mfc h d r) s (wrS (countIssue s) d v)) ∧
      match r with
      | .cause => v = x.cause
      | .epc => v = x.epc
      | .einfo => v = x.einfo
      | .jrnl => v = x.jrnl
      | .evec => v = k.evec
      | .ctxid => v = (c.inc ++ (s.curCore ++ s.curCtx)).setWidth 64
      | .tenant => v = s.myTenant.setWidth 64
      | .dom => v = k.dom
      | .flags => v = c.flags.setWidth 64
      | .amax => v = c.amax.setWidth 64
      | .mxcnt => k.mxNar < 2 ^ 21 → k.mxNan < 2 ^ 21 → k.mxOvf < 2 ^ 21 →
          (v.extractLsb' 0 21).toNat = k.mxNar ∧ (v.extractLsb' 21 21).toNat = k.mxNan ∧ (v.extractLsb' 42 21).toNat = k.mxOvf
            ∧ v.getLsbD 63 = false
      | .scale => v = c.scale.setWidth 64
      | .wdog => v.extractLsb' 23 41 = (countIssue s).me.wdogCount ∧ v.extractLsb' 6 17 = 0 ∧ v.extractLsb' 0 6 = c.wdogLimit
      | .lmcfg => v = k.sp.setWidth 64
      | .foldbud => v = c.foldbud
      | .foldst => v = c.foldst
      | .foldpc => v = c.foldpc
      | .linkstk => v.extractLsb' 0 17 = c.linkBase ∧ v.extractLsb' 17 15 = c.linkCap ∧ v.extractLsb' 32 15 = c.linkSpilled
          ∧ v.extractLsb' 47 5 = BitVec.ofNat 5 c.link.length ∧ (c.link.length ≤ 16 → v.extractLsb' 52 12 = 0)
      | .time => v = BitVec.ofNat 64 s.time
      | .cycle => v = BitVec.ofNat 64 s.now
      | .evmask => v.getLsbD 0 = k.evmask ∧ v.extractLsb' 1 63 = 0
      | .svc => v = s.svc.setWidth 64
      | .mmchk => v.getLsbD 0 = c.mmOff ∧ v.getLsbD 1 = c.mmOvf ∧ v.extractLsb' 2 62 = 0
      | .status => k.journal.length ≤ 32 → v.getLsbD 0 = c.dzt ∧ v.getLsbD 2 = c.resid.isSome ∧ v.getLsbD 34 = k.hflt
          ∧ v.extractLsb' 35 6 = BitVec.ofNat 6 (k.journal.filter (fun e => e.2.state != 0 && e.2.ctx == s.curCtx && e.2.inc == c.inc)).length
          ∧ v.getLsbD 1 = false ∧ v.extractLsb' 3 30 = 0 ∧ v.extractLsb' 41 7 = 0
          ∧ v.extractLsb' 48 16 = k.orph ∧ v.getLsbD 33 = (match k.handling with
            | some (.trap _) => true
            | _ => false))

/-- R8, R135, R204, R249, R271, R383, R387 to R392, R394: an `mtc` by a context that may not write the register raises PRIV
with 0; a value that sets a reserved bit or breaks the register's rule raises ILLEGAL with 0, and neither changes anything; any
other value is written, the FATAL bit of `ctl.cause` and the count of `ctl.wdog` apart. A write of `ctl.dom` is the control
context's, and has the effect of `dom` (R213). `ctl.status`, `ctl.mxcnt` and
`ctl.lmcfg` have rules of their own: DZT, and ORPH and HFLT cleared by contexts 0 and 15; the three counters once the engine is
empty; and the split, with bytes that leave or join reading zero. -/
def Obligations.ControlWrites : Prop :=
  ∀ (h : Header) (y : SCon) (r : CtlReg) (s : State),
    let x := readSC s.me y
    let c := s.me
    let c0 := countIssue s
    let m := s.curCtx
    let n : CtxNum := if m = 15 then (match s.myCore.handling with
      | some (.trap q) => q
      | _ => 15) else m
    let handler : Prop := r = .cause ∨ r = .epc ∨ r = .einfo ∨ r = .jrnl
    let either : Prop := r = .evec ∨ r = .evmask
    let writable : Prop := handler ∨ either ∨ r ∈ [.flags, .amax, .scale, .wdog, .foldbud, .foldst, .foldpc, .linkstk, .mmchk]
    let allowed : Prop := (handler → m = 15) ∧ (either → m = 0 ∨ m = 15)
    let lim := (x.extractLsb' 0 6).toNat
    let steps := (x.extractLsb' 32 21).toNat
    let res := (x.extractLsb' 0 17).toNat
    let base := x.extractLsb' 0 17
    let cap := x.extractLsb' 17 15
    let bad : Prop := match r with
      | .cause => x.extractLsb' 16 48 ≠ 0 ∨ x.extractLsb' 10 2 ≠ 0
      | .jrnl => x.extractLsb' 53 10 ≠ 0
      | .evec => x.extractLsb' 0 4 ≠ 0
      | .evmask => x.extractLsb' 1 63 ≠ 0
      | .flags => x.extractLsb' 7 57 ≠ 0
      | .amax => x.extractLsb' 33 31 ≠ 0 ∨ 0x7F800000 < (x.extractLsb' 0 32).toNat
      | .scale => x.extractLsb' 8 56 ≠ 0
      | .wdog => x.extractLsb' 6 17 ≠ 0 ∨ (1 ≤ lim ∧ lim ≤ 15) ∨ 41 ≤ lim
      | .foldbud => x.extractLsb' 53 11 ≠ 0 ∨ x.extractLsb' 17 15 ≠ 0 ∨ steps = 0 ∨ 2 ^ 20 < steps ∨ res = 0 ∨ 65536 < res
      | .linkstk => x.extractLsb' 52 12 ≠ 0 ∨ (x.extractLsb' 47 5).toNat ≠ c.link.length ∨ x.extractLsb' 32 15 ≠ c.linkSpilled
          ∨ base.extractLsb' 0 3 ≠ 0 ∨ cap.toNat < c.linkSpilled.toNat ∨ s.myCore.scratch < base.toNat + 8 * cap.toNat
          ∨ (c.linkSpilled ≠ 0 ∧ base ≠ c.linkBase)
      | .mmchk => x.extractLsb' 2 62 ≠ 0
      | _ => False
    (Issues (.mtc h y r) s → (writable ∨ r = .dom) → ¬(allowed ∧ (r = .dom → m = 0)) →
      exec (.mtc h y r) s = .next (trapMe c0 .priv 0))
    ∧ (Issues (.mtc h y .dom) s → m = 0 →
      (∀ b, domFault s.curCore x = some b → exec (.mtc h y .dom) s = .next (trapMe c0 .illegal (BitVec.ofNat 64 (128 + b))))
      ∧ (domFault s.curCore x = none →
        ((∃ cl ∈ domClusters s.curCore x, (s.cluster cl).tenant ≠ s.myTenant) → exec (.mtc h y .dom) s = .next (trapMe c0 .tenant 0))
        ∧ ((∀ cl ∈ domClusters s.curCore x, (s.cluster cl).tenant = s.myTenant) → s.myCore.arrival = false →
            ∃ k, exec (.mtc h y .dom) s = .next (retired (.mtc h y .dom) s (c0.setMyCore k))
              ∧ k = { c0.myCore with dom := x, ep := 0, stage := k.stage, leaving := k.leaving })))
    ∧ (Issues (.mtc h y r) s → writable → allowed → bad → exec (.mtc h y r) s = .next (trapMe c0 .illegal 0))
    ∧ (Issues (.mtc h y r) s → writable → allowed → ¬bad → ∃ t, exec (.mtc h y r) s = .next (retired (.mtc h y r) s t) ∧
      match r with
      | .cause => (t.myCore.ctx n).cause = (x &&& ~~~0x100#64) ||| ((s.myCore.ctx n).cause &&& 0x100#64)
      | .epc => (t.myCore.ctx n).epc = x
      | .einfo => (t.myCore.ctx n).einfo = x
      | .jrnl => (t.myCore.ctx n).jrnl = x
      | .evec => t.myCore.evec = x
      | .evmask => t.myCore.evmask = x.getLsbD 0
      | .flags => t.me.flags = x.setWidth 7
      | .amax => t.me.amax = x.setWidth 33
      | .scale => t.me.scale = x.setWidth 8
      | .wdog => t.me.wdogLimit = x.extractLsb' 0 6 ∧ t.me.wdogCount = c0.me.wdogCount
      | .foldbud => t.me.foldbud = x
      | .foldst => t.me.foldst = x
      | .foldpc => t.me.foldpc = x
      | .linkstk => t.me.linkBase = base ∧ t.me.linkCap = cap ∧ t.me.linkSpilled = c.linkSpilled ∧ t.me.link = c.link
      | .mmchk => t.me.mmOff = x.getLsbD 0 ∧ t.me.mmOvf = c.mmOvf
      | _ => True)
    ∧ (Issues (.mtcStatus h y) s →
      let reserved : Prop := x.getLsbD 1 = true ∨ x.extractLsb' 3 30 ≠ 0 ∨ x.extractLsb' 41 7 ≠ 0
      (reserved → exec (.mtcStatus h y) s = .next (trapMe c0 .illegal 0))
      ∧ (¬reserved → ∃ t, exec (.mtcStatus h y) s = .next (retired (.mtcStatus h y) s t) ∧ t.me.dzt = x.getLsbD 0
        ∧ (m ≠ 0 → m ≠ 15 → t.myCore.orph = s.myCore.orph ∧ t.myCore.hflt = s.myCore.hflt)
        ∧ (m = 0 ∨ m = 15 → t.myCore.orph = (if x.extractLsb' 48 16 = 0 then 0 else s.myCore.orph)
          ∧ t.myCore.hflt = (s.myCore.hflt && x.getLsbD 34))))
    ∧ (Issues (.mtcMxcnt h y) s →
      (x.getLsbD 63 = true → exec (.mtcMxcnt h y) s = .next (trapMe c0 .illegal 0))
      ∧ (x.getLsbD 63 = false → engineHead s.myCore = none → s.myCore.gemvs = [] → ∃ t,
        exec (.mtcMxcnt h y) s = .next (retired (.mtcMxcnt h y) s t) ∧ t.myCore.mxNar = (x.extractLsb' 0 21).toNat
          ∧ t.myCore.mxNan = (x.extractLsb' 21 21).toNat ∧ t.myCore.mxOvf = (x.extractLsb' 42 21).toNat)
      ∧ (x.getLsbD 63 = false → (engineHead s.myCore ≠ none ∨ s.myCore.gemvs ≠ []) → ∃ t, exec (.mtcMxcnt h y) s = .next (holdMe t)))
    ∧ (Issues (.mtcLmcfg h y) s →
      (m ≠ 0 → exec (.mtcLmcfg h y) s = .next (trapMe c0 .priv 0))
      ∧ (m = 0 → (x.toNat < 4 ∨ 8 < x.toNat ∨ ∃ e ∈ s.myCore.rings, e.2.defined = true
          ∧ x.toNat * 16384 < e.2.base.toNat + e.2.slots.length * 2 ^ e.2.lg) →
        exec (.mtcLmcfg h y) s = .next (trapMe c0 .illegal 0))
      ∧ (m = 0 → splitBad c0.myCore x.toNat = false → splitReady c0 = true → ∃ t,
        exec (.mtcLmcfg h y) s = .next (retired (.mtcLmcfg h y) s t) ∧ t.myCore.sp.toNat = x.toNat ∧ t.myCore.l1 = []
          ∧ (∀ b, memByte t.myCore.mem b
              = if b < min (s.myCore.sp.toNat * 16384) (x.toNat * 16384) then memByte s.myCore.mem b else 0)))

/-- R396, R397, R402, R407 to R409: `jrnl`, `csave`, `crest` and `nispl` are the handler's and raise PRIV elsewhere. `jrnl`
reads the address word and the chosen word of an entry, zeros of a free one, and with DROP frees a refused one. `csave` of a
context that is neither stopped nor trapped raises ILLEGAL with 50, and with a SPILLBASE that is 0 or no multiple of 4,096 ALIGN;
otherwise, with a spill area that it may write, it makes the context saved, keeping its incarnation. `nispl` of a saved context begins
forwarding; `crest` of a context that is neither idle nor saved raises ILLEGAL with 50, and of sound images puts the context at the PC
they hold, whose low four bits read as zero (log 12). A poisoned SPILLBASE is consumed as an address, with no effect (R417). A spill area in the scratchpad can be accessed as it stands. `tlbi` and
`tlbi.all` take translations out of the core's and the cluster's TLB, those of the host too. -/
def Obligations.SavedContexts : Prop :=
  ∀ (h : Header) (da dd a : SReg) (y : SCon) (s : State),
    let c0 := countIssue s
    let v := readSC s.me y
    let n : CtxNum := v.setWidth 4
    let x := s.myCore.ctx n
    let k := s.myCore
    let e := (v.extractLsb' 0 5).toNat
    let j := k.jentry e
    let base := k.spillBase
    let area := spillArea s s.curCore n
    let clean : Prop := k.spillSlot / 16 ∉ k.poison
    (∀ i, i = .jrnl h da dd y ∨ i = .csave h y ∨ i = .crest h y ∨ i = .nispl h y → Issues i s → s.curCtx ≠ 15 →
      exec i s = .next (trapMe c0 .priv 0))
    ∧ (s.curCtx = 15 →
      (Issues (.jrnl h da dd y) s →
        (v.extractLsb' 8 56 ≠ 0 → exec (.jrnl h da dd y) s = .next (trapMe c0 .illegal 50))
        ∧ (v.extractLsb' 8 56 = 0 → ∃ t, exec (.jrnl h da dd y) s = .next (retired (.jrnl h da dd y) s t)
          ∧ (da.r ≠ 0 → da.r ≠ dd.r → t.me.getS da.r = if j.state = 0 then 0 else j.addr)
          ∧ (dd.r ≠ 0 → t.me.getS dd.r = if j.state = 0 then 0 else if v.getLsbD 6 then infoWord j else if v.getLsbD 5 then j.d1 else j.d0)
          ∧ (v.getLsbD 7 = true → j.state = 2 → (t.myCore.jentry e).state = 0)
          ∧ ((v.getLsbD 7 = false ∨ j.state ≠ 2) → t.myCore.jentry e = j)
          ∧ (∀ f, f ≠ e → t.myCore.jentry f = k.jentry f)))
      ∧ (Issues (.csave h y) s →
        ((10 < v.toNat ∨ ((x.run ≠ .live ∨ x.stopped = false) ∧ x.run ≠ .trapped)) →
          exec (.csave h y) s = .next (trapMe c0 .illegal 50))
        ∧ (v.toNat ≤ 10 → ((x.run = .live ∧ x.stopped = true) ∨ x.run = .trapped) →
          (¬clean → exec (.csave h y) s = .next (retired (.csave h y) s (consumed c0 (BitVec.ofNat 64 k.spillSlot))))
          ∧ (clean → (base.toNat % 4096 ≠ 0 ∨ base = 0) → exec (.csave h y) s = .next (trapMe c0 .align base))
          ∧ (∀ u, clean → base ≠ 0 → base.toNat % 4096 = 0 → SpillOpen area .write c0 u → midway (u.ctx s.curCore n).pend = false →
              journalBusy u.myCore n x.inc = false → ∃ t, exec (.csave h y) s = .next (retired (.csave h y) s t)
                ∧ (t.myCore.ctx n).run = .saved ∧ (t.myCore.ctx n).inc = x.inc ∧ (t.myCore.ctx n).forwarding = false)))
      ∧ (isLocal area.addr = true → area.addr.toNat + 4096 ≤ k.scratch → SpillOpen area .read c0 c0 ∧ SpillOpen area .write c0 c0)
      ∧ (Issues (.nispl h y) s →
        ((10 < v.toNat ∨ x.run ≠ .saved) → exec (.nispl h y) s = .next (trapMe c0 .illegal 50))
        ∧ (v.toNat ≤ 10 → x.run = .saved → clean → area.bad c0 = false →
            (s.linkUp = true ∨ isLocal area.addr = true ∨ (physOf c0 area.tenant (va57 area.addr)).any isHost = false) →
            ∃ t, exec (.nispl h y) s = .next (retired (.nispl h y) s t)
          ∧ (t.myCore.ctx n).forwarding = true ∧ (t.myCore.ctx n).heldSignals = 0
          ∧ (isLocal area.addr = true → (t.myCore.ctx n).run = .saved)))
      ∧ (Issues (.crest h y) s →
        ((10 < v.toNat ∨ (x.run ≠ .idle ∧ x.run ≠ .saved)) → exec (.crest h y) s = .next (trapMe c0 .illegal 50))
        ∧ (∀ u, v.toNat ≤ 10 → (x.run = .idle ∨ x.run = .saved) → clean → SpillOpen area .read c0 u →
          let spilled := (spillArea u s.curCore n).readPoisoned u 0 4096
          let ctl := spilled.map (·.1)
          let reg := memBytes u.myCore.mem (imageBase u.myCore n) 1088
          let inc := (wordAt reg 0x410).extractLsb' 8 8
          let src : CoreId := (wordAt ctl 0xF8).extractLsb' 48 16
          (∀ i, i < 1088 → (imageBase u.myCore n + i) / 16 ∉ u.myCore.poison) → (∀ b ∈ spilled, b.2 = false) →
          (∀ o, spillFault s.curCore ctl = some o →
            exec (.crest h y) s = .next (trapMe c0 .illegal (BitVec.ofNat 64 (128 + o))))
          ∧ (∀ o, spillFault s.curCore ctl = none → imageFault reg = some o →
            exec (.crest h y) s = .next (trapMe c0 .illegal (BitVec.ofNat 64 (8192 + o))))
          ∧ (spillFault s.curCore ctl = none → imageFault reg = none → (∀ i, i < 32 → (wordAt ctl (0x400 + 32 * i)).extractLsb' 0 2 ≠ 2) →
              ∃ t, exec (.crest h y) s = .next (retired (.crest h y) s t)
                ∧ ((wordAt ctl 0x800).extractLsb' 16 4 = 0 → (wordAt reg 0x410).getLsbD 33 = false →
                    (wordAt ctl (8 * 29)).getLsbD 63 = false → (keptCtx u s.curCore src n inc).reports = [] →
                  (t.myCore.ctx n).run = .live ∧ (t.myCore.ctx n).pc = wordAt reg 0 &&& ~~~15#64 ∧ (t.myCore.ctx n).inc = inc
                    ∧ (∀ r : BitVec 6, r ≠ 0 → (t.myCore.ctx n).getS r = wordAt reg (8 * r.toNat)))))))
    ∧ (Issues (.tlbiAll h) s → ∃ t, exec (.tlbiAll h) s = .next (retired (.tlbiAll h) s t) ∧ t.myCore.tlb = []
        ∧ (t.cluster (coreCluster s.curCore)).tlb = [] ∧ (∀ e ∈ t.myCore.hostTlb, e.tenant ≠ s.myTenant)
        ∧ (∀ e ∈ (t.cluster (coreCluster s.curCore)).hostTlb, e.tenant ≠ s.myTenant))
    ∧ (Issues (.tlbi h a) s → let w := readS s.me a
        (isLocal w = true ∨ canonical w = false → exec (.tlbi h a) s = .next (retired (.tlbi h a) s c0))
        ∧ (leafOf (s.tenantSt s.myTenant) (va57 w) = none → exec (.tlbi h a) s = .next (retired (.tlbi h a) s c0))
        ∧ (isLocal w = false → canonical w = true → ∀ key l, leafOf (s.tenantSt s.myTenant) (va57 w) = some (key, l) →
          ∃ t, exec (.tlbi h a) s = .next (retired (.tlbi h a) s t) ∧ key ∉ t.myCore.tlb
            ∧ t.myCore.tlb = k.tlb.filter (· != key) ∧ key ∉ (t.cluster (coreCluster s.curCore)).tlb
            ∧ (l.host = true → ∀ e, (e ∈ t.myCore.hostTlb ∨ e ∈ (t.cluster (coreCluster s.curCore)).hostTlb) →
                ¬(e.tenant = s.myTenant ∧ l.frame.toNat ≤ e.page ∧ e.page < l.frame.toNat + 16))))

/-! ## What arrives at a core, a home or an agent -/

/-- R4, R205, R207 to R210, R232: an active message that reaches its target, with no message of a later rank heard in its cycle, starts
an idle context with its arguments and a new incarnation, or waits as the last of at most eight messages while the context is busy; one for
contexts 11 to 14, or for a core that another tenant holds by then, is an orphan; a plain one that finds no room stays, and a try form
is turned away. Its sender learns whether it was accepted. A signal's bits join the events of a live target, wait for a saved one, and are an
orphan of the target's core otherwise. A `jdone` of a counter above 1 lowers it by 1, one
of no counter is an orphan of the sender's core, and the last one frees the counter for its next generation and puts its record
into the queue of its stage.
R214, R216, R349: an arrival at an agent without an episode begins one. When every member of the domain has arrived, enough
tills have released and the sends before the arrivals have been delivered, and the releases can cross to the members' dies, each member's EP rises by 1, its arrival ends, and a
held `bar` of its control context goes on in the next cycle; an exchange phase ends then, and `bar.x` begins one. That a message for
a core of another tenant is an orphan is log 18, and that the sender of a message that is dropped learns it as turned away is
log 30. -/
def Obligations.Arrivals : Prop :=
  (∀ (p : Pkt) (s : State), findPkt s s.pick.id = some p →
     (∀ t pc a1 a2 once, p.msg = .amsg t pc a1 a2 once →
       let core : CoreId := t.extractLsb' 4 16
       let n : CtxNum := t.extractLsb' 0 4
       let k := s.core core
       let c := k.ctx n
       let learns (x : Pend) (v : State) : Prop := p.hasSrc = true → s.handleLive p.owner = true →
         (s.ctx (handleCore p.owner) (handleCtx p.owner)).pend = .sent p.id → (v.ctx (handleCore p.owner) (handleCtx p.owner)).pend = x
       let sender : State → Prop := learns .accepted
       let orphaned (v : State) : Prop := learns .turnedAway v ∧ v.net = s.net.filter (fun q => q.id != p.id)
         ∧ (v.core core).orph = if k.orph = 0xFFFF then k.orph else k.orph + 1
       (crossing s p.dst p.srcDie false).isSome = true →
       (s.tenantOf core ≠ p.tenant → ∃ v, exec .activeMessageArrival s = .next v ∧ orphaned v)
       ∧ (s.tenantOf core = p.tenant → hearMessage s core p.src.toNat ≠ none →
       (n.toNat ≤ 10 → c.run = .idle → ∃ v, exec .activeMessageArrival s = .next v ∧ sender v ∧ v.net = s.net.filter (fun q => q.id != p.id)
         ∧ (v.ctx core n).run = .live ∧ (v.ctx core n).pc = pc ∧ (v.ctx core n).inc = c.inc + 1
         ∧ (v.ctx core n).getS 1 = a1 ∧ (v.ctx core n).getS 2 = a2 ∧ ∀ r, r ≠ 1 → r ≠ 2 → (v.ctx core n).getS r = 0)
       ∧ (n.toNat ≤ 10 → c.run ≠ .idle → (c.run = .saved → c.forwarding = false) →
         (k.msgs.length < 8 → ∃ v m, exec .activeMessageArrival s = .next v ∧ sender v ∧ (v.core core).msgs = k.msgs ++ [m]
           ∧ m.target = n ∧ m.pc = pc ∧ m.a1 = a1 ∧ m.a2 = a2)
         ∧ (8 ≤ k.msgs.length → once = false → exec .activeMessageArrival s = .next (parkPkt s p.id))
         ∧ (8 ≤ k.msgs.length → once = true → ∃ v, exec .activeMessageArrival s = .next v ∧ v.net = s.net.filter (fun q => q.id != p.id)
           ∧ learns .turnedAway v))
       ∧ (11 ≤ n.toNat → n.toNat ≤ 14 → ∃ v, exec .activeMessageArrival s = .next v ∧ orphaned v)
       ∧ (n = 15 → k.evmask = true → ∃ v rel at_, exec .activeMessageArrival s = .next v ∧ sender v
         ∧ (at_, Delivery.message pc a1 a2 rel) ∈ (v.core core).hqueue)))
     ∧ (∀ h bits, p.msg = .signal h bits →
       let c := s.ctx (handleCore h) (handleCtx h)
       (s.handleLive h = true → c.run ≠ .saved → ∃ v, exec .signalArrival s = .next v
         ∧ (v.ctx (handleCore h) (handleCtx h)).events = c.events ||| bits)
       ∧ (s.handleLive h = true → c.run = .saved → c.forwarding = false → ∃ v, exec .signalArrival s = .next v
         ∧ (v.ctx (handleCore h) (handleCtx h)).heldSignals = c.heldSignals ||| bits)
       ∧ (s.handleLive h = false → sparseFind s.away h.toNat = none → ∃ v, exec .signalArrival s = .next v
         ∧ (v.core (handleCore h)).orph = if (s.core (handleCore h)).orph = 0xFFFF then 0xFFFF else (s.core (handleCore h)).orph + 1))
     ∧ (∀ x, p.msg = .jdone x →
       let d := counterHome x
       let slot := counterSlot x
       let c := sparseGet {} (s.sector d).counters slot
       let named : Prop := c.used = true ∧ c.gen = x.extractLsb' 48 16 ∧ c.tenant = x.extractLsb' 41 7 ∧ x.extractLsb' 32 9 = 0
       (¬named → ∃ v, exec .joinDecrement s = .next v ∧ v.sectors = s.sectors
         ∧ ((s.die (coreDie p.src)).fenced = false → (s.core p.src).orph ≠ 0xFFFF → (v.core p.src).orph = (s.core p.src).orph + 1))
       ∧ (named → 1 < c.count → ∃ v, exec .joinDecrement s = .next v ∧ (sparseGet {} (v.sector d).counters slot).count = c.count - 1
         ∧ (sparseGet {} (v.sector d).counters slot).used = true)
       ∧ (named → c.count ≤ 1 → ∃ v e, exec .joinDecrement s = .next v ∧ sparseGet {} (v.sector d).counters slot = { gen := c.gen + 1 }
         ∧ e ∈ (v.stage c.tenant c.parent.stage).queue ∧ e.r = c.parent))) ∧
  ((∀ (p : Pkt) (s : State) (core : CoreId) (dom : Word) (upTo : Nat), findPkt s s.pick.id = some p → p.msg = .arrival core dom upTo →
     (s.barrier p.dst (domBarn dom)).arrivals = [] → ∃ v a, exec .barrierArrival s = .next v
       ∧ (v.barrier p.dst (domBarn dom)).arrivals = [a] ∧ a.core = core ∧ a.dom = dom ∧ a.who = p.owner ∧ a.upTo = upTo)
   ∧ (∀ s : State,
     let b := s.barrier s.pick.die s.pick.num
     ((episodeDone s b = false ∨ releasesGo s s.pick.die b = false) → exec .barrierEpisodeComplete s = .next s)
     ∧ (episodeDone s b = true → releasesGo s s.pick.die b = true → (b.arrivals.map (·.core)).Nodup → ∃ v, exec .barrierEpisodeComplete s = .next v
       ∧ ∀ a ∈ b.arrivals,
         let k := s.core a.core
         let k' := v.core a.core
         k'.ep = k.ep + 1 ∧ k'.arrival = false ∧ k'.exchNext = some (if k.barX then some (s.cycleAt a.core + 1) else none)
           ∧ ∀ ph, (k.ctx 0).pend = .arrived ph → (k'.ctx 0).pend = .released ph ∧ (k'.ctx 0).nextIssue = max (s.cycleAt a.core + 1) (k.ctx 0).nextIssue)))

/-- R225, R228, R238: a core of a stage gives its lowest idle helper, one that no message takes, the record that its stage serves, whose
quota unit comes back, or the bounds of a chunk at DISTPC, unless another core that is served the same has asked before it, or in
the same cycle with a lower identifier; a parked record whose event has completed enters its queue with EVVAL; the master deals the
next eight undealt chunks to a die's distributor that holds fewer than four; and a chunk with no living descendant is recorded.
R241, R354: the reply to a call of a live context fills the next free slot of its ring, when the ring has slots of 64 bytes and
no other producer waits before it, with the sequence number, the service, the status and six result words; one whose context has
ended is an orphan of its core. A packet that reaches its die over a link, the oldest of its source and of the present
generation, waits in the early buffer when there is room; the oldest deliverable packet by its time stamp is delivered, behind those delivered before, and counts. -/
def Obligations.StagesAndReplies : Prop :=
  (∀ (s : State),
     (∀ t st n w, (s.core s.pick.core).stage = some (t, st) → idleHelper s s.pick.core = some n →
       s.inService (coreDie s.pick.core) = true → workFor s t st s.pick.core = some w →
       (crossing s (s.stage t st).home (coreDie s.pick.core) true).isSome = true →
       let c := s.ctx s.pick.core n
       let rival (o : CoreId) : Prop := o ≠ s.pick.core ∧ o.toNat ∈ s.cores.map (·.1) ∧ (s.core o).stage = some (t, st) ∧ s.inService (coreDie o) = true
         ∧ (s.core o).hasIdle = true ∧ sameWork (workFor s t st o) w = true
         ∧ ((s.core o).asked < (s.core s.pick.core).asked ∨ ((s.core o).asked = (s.core s.pick.core).asked ∧ o.toNat < s.pick.core.toNat))
       (∀ e ∈ s.cores, e.1 < 65536 ∧ sparseGet {} s.cores e.1 = e.2) →
       ((∃ o, rival o) → exec .recordDispatch s = .next s)
       ∧ ((∀ o, ¬rival o) → (∀ e, w = .record e → ∃ v, exec .recordDispatch s = .next v
         ∧ (v.stage t st).queue = (s.stage t st).queue.erase e ∧ (v.ctx s.pick.core n).run = .live
         ∧ (v.ctx s.pick.core n).pc = e.r.pc ∧ (v.ctx s.pick.core n).inc = c.inc + 1 ∧ (v.ctx s.pick.core n).getS 1 = e.r.evval
         ∧ (v.ctx s.pick.core n).getS 2 = e.r.join ∧ (v.ctx s.pick.core n).joinVal = e.r.join
         ∧ quotaCount v t 2 0 = quotaCount s t 2 0 - (if e.quota then 1 else 0))
         ∧ (∀ q r, w = .chunk q → (s.stage t st).range = some r → ∃ v, exec .recordDispatch s = .next v
         ∧ (v.ctx s.pick.core n).run = .live ∧ (v.ctx s.pick.core n).pc = (s.stage t st).distPc
         ∧ ((v.ctx s.pick.core n).getS 1) = BitVec.ofNat 64 (r.first.toNat + q * r.chunk)
         ∧ ((v.ctx s.pick.core n).getS 2) = BitVec.ofNat 64 (min (r.first.toNat + (q * r.chunk + r.chunk)) r.last.toNat))))
     ∧ (dispatchFor s s.pick.core = none → exec .recordDispatch s = .next s)
     ∧ (∀ e x, (s.stage s.pick.tenant s.pick.stage).parked.find? (fun e => e.r.id == s.pick.id) = some e → eventValue s e = some x →
       ∃ v e', exec .parkEventComplete s = .next v ∧ e' ∈ (v.stage s.pick.tenant s.pick.stage).queue
         ∧ e'.r = { e.r with evval := x } ∧ e'.ev = none)
     ∧ (∀ e, (s.stage s.pick.tenant s.pick.stage).parked.find? (fun e => e.r.id == s.pick.id) = some e → eventValue s e = none →
       exec .parkEventComplete s = .next s)
     ∧ (∀ r, (s.stage s.pick.tenant s.pick.stage).range = some r →
       let x := s.stage s.pick.tenant s.pick.stage
       let chunks := r.undealt 8
       (s.pick.die ∈ distributors s x → (r.dealt.filter (fun e => e.1 == s.pick.die)).length < 4 →
         ∃ v r', exec .distChunkDeal s = .next v ∧ (v.stage s.pick.tenant s.pick.stage).range = some r'
           ∧ r'.dealt = r.dealt ++ chunks.map (fun q => (s.pick.die, q)) ∧ r'.master = r.master)
       ∧ (s.pick.num ∉ r.master → ∀ e,
           r.started.find? (fun e => e.1 == s.pick.num && !lineageAlive s { tenant := s.pick.tenant, stage := s.pick.stage, range := r.id, chunk := s.pick.num, run := e.2 }) = some e →
           2 ≤ (distributors s x).length → r.deputy.length < r.total → ∃ v r', exec .distChunkComplete s = .next v
           ∧ (v.stage s.pick.tenant s.pick.stage).range = some r' ∧ r'.master = r.master ++ [s.pick.num] ∧ r'.started = r.started.erase e)
       ∧ (s.pick.num ∈ r.master → s.pick.num ∉ r.deputy → r.deputy.length + 1 < r.total → 2 ≤ (distributors s x).length →
           ∃ v r', exec .distChunkComplete s = .next v ∧ (v.stage s.pick.tenant s.pick.stage).range = some r'
           ∧ r'.deputy = r.deputy ++ [s.pick.num] ∧ r'.master = r.master))) ∧
  ((∀ (s : State) (r : Reply), s.replies.find? (fun r => r.id == s.pick.id) = some r →
     let core := handleCore r.owner
     let k := s.core core
     let x := k.ring r.ring
     (crossing s r.die (coreDie core) true = none → exec .replyPublish s = .next s) ∧
     ((crossing s r.die (coreDie core) true).isSome = true →
     (s.handleLive r.owner = false → ∃ v, exec .replyPublish s = .next v ∧ v.replies = s.replies.erase r
       ∧ (v.core core).orph = if k.orph = 0xFFFF then k.orph else k.orph + 1)
     ∧ (s.handleLive r.owner = true → k.splitting = false → x.defined = true → 6 ≤ x.lg → x.waitFree = [] →
         hears x.heardFree (s.cycleAt core) rankReply = true →
         x.slots.getD x.nextPos (.filled []) = .free → ∃ v, exec .replyPublish s = .next v ∧ v.replies = s.replies.erase r
         ∧ ((v.core core).ring r.ring).filledOrder = x.filledOrder ++ [x.nextPos]
         ∧ (let a := x.base.toNat + x.nextPos * 2 ^ x.lg
            let m := (v.core core).mem
            bytesNat (memBytes m a 4) = r.seq.toNat ∧ bytesNat (memBytes m (a + 4) 2) = r.svc.toNat
             ∧ bytesNat (memBytes m (a + 6) 2) = r.status.toNat
             ∧ ∀ i, i < 6 → bytesNat (memBytes m (a + 8 + 8 * i) 8) = (r.res.getD i 0).toNat)
         ∧ (∀ e ∈ ((v.core core).ctx (handleCtx r.owner)).calls, e.1 ≠ r.seq))))
   ∧ (∀ (s : State) (p : Pkt), s.net.find? (fun p => p.id == s.pick.id) = some p →
     let x := s.die p.dst
     let first : Prop := ∀ q ∈ s.net, ¬(q.phase = .link ∧ q.srcDie = p.srcDie ∧ q.dst = p.dst ∧ q.id < p.id)
     (p.phase = .link → first → p.gen = x.gen → earlyRoom s x p = true → ∃ v, exec .filidPacketArrival s = .next v
       ∧ (v.die p.dst).early = x.early ++ [p.id] ∧ v.net = s.net.map (fun q => if q.id = p.id then { q with phase := .early } else q))
     ∧ (p.phase = .link → first → p.gen ≠ x.gen → exec .filidPacketArrival s = .next (losePkt s.fencedDie s p))
     ∧ (oldest (deliverables s p.dst) = some p → ∃ v, exec .filidPacketDeliver s = .next v
         ∧ (v.die p.dst).early = x.early.filter (· != p.id) ∧ (v.die p.dst).deliv.length = x.deliv.length
         ∧ (p.srcDie.toNat < x.deliv.length → (v.die p.dst).deliv.getD p.srcDie.toNat 0 = x.deliv.getD p.srcDie.toNat 0 + 1)
         ∧ ((∀ q ∈ s.net, q.phase ≠ .held) → v.net = s.net.filter (fun q => q.id != p.id) ++ [{ p with phase := .delivered }]))))

/-! ## Traps, the handler and the fetch -/

/-- R372, R380, R383, R385, R389: what a precise trap of the issuing context does. Of a context other than the handler it writes
`ctl.cause` with the code, FATAL and the context, `ctl.einfo` and `ctl.epc`, and puts the context into the handler's queue, which
loses nothing; the context is not ready any more. Its registers, flags, tables
and link stack, every other context and every memory stand as before, and outside the core everything but the purses of its tenant,
where the context waits no more. In the handler it is a handler fault: HFLT is set, the handler is idle and the context it was
handling is torn down; event 0 alone is sent, which is the model's choice (log 31). -/
def Obligations.TakingTraps : Prop :=
  ∀ (s : State) (cause : Cause) (einfo : Word),
    let v := trapMe s cause einfo
    let c := s.me
    let own := coreDie s.curCore
    let mine : Ticket := .ctx s.curCore s.curCtx
    (s.curCtx ≠ 15 →
      v.me = { c with run := .trapped, cause := v.me.cause, einfo := einfo, epc := c.pc, pend := c.pend.answer, pageWait := none
                      fline := none, epcWritten := false }
      ∧ v.me.cause.extractLsb' 0 8 = cause.code ∧ v.me.cause.getLsbD 8 = cause.fatal ∧ v.me.cause.getLsbD 9 = false
      ∧ v.me.cause.extractLsb' 12 4 = s.curCtx ∧ v.me.cause.extractLsb' 16 48 = 0 ∧ v.me.cause.extractLsb' 10 2 = 0
      ∧ (s.now, Delivery.trap s.curCtx) ∈ v.myCore.hqueue ∧ (∀ d ∈ s.myCore.hqueue, d ∈ v.myCore.hqueue)
      ∧ (∀ n, n ≠ s.curCtx → v.myCore.ctx n = s.myCore.ctx n) ∧ SameMemory s v
      ∧ SameElsewhere (leavePurses s s.curCore s.curCtx) v
      ∧ (∀ fab, ∀ e, e ∈ (v.purse s.myTenant fab own).held ↔ e ∈ (s.purse s.myTenant fab own).held ∧ e.1 ≠ mine)
      ∧ ((∀ fab, ∀ e ∈ (s.purse s.myTenant fab own).held, e.1 ≠ mine) → v.tenants = s.tenants)
      ∧ ctxReady v s.curCore s.curCtx = false)
    ∧ (s.curCtx = 15 → v.myCore.hflt = true ∧ v.me.run = .idle ∧ v.myCore.handling = none ∧ v.msix = s.msix ++ [(s.myTenant, 0)]
      ∧ ∀ n, s.myCore.handling = some (.trap n) → n ≠ 15 → (∀ m ∈ s.myCore.msgs, m.target ≠ n) → (v.myCore.ctx n).run = .idle)

/-- R204, R207, R381, R383 to R386, R389: the idle handler takes the first delivery that may enter, at `ctl.evec` with the cause, `ctl.einfo`
and `ctl.epc` of the trapped context in s1 to s3 and its other registers as they stand, at a message's program counter with its
arguments, or at `ctl.evec` for a PREEMPT, which stops every live context; where `ctl.evec` is 0 a trapped context is torn down
with event 1. A PREEMPT is queued where `ctl.evec` is not 0. A report is taken as an asynchronous trap with the address of the
first instruction not issued in `ctl.jrnl`; a watchdog count of 2^LIMIT raises WATCHDOG in place of an instruction and returns
to 0. -/
def Obligations.HandlerEntries : Prop :=
  ∀ (s : State),
    let core := s.pick.core
    let k := s.core core
    (k.handling ≠ none → exec .handlerEntry s = .next s)
    ∧ (k.handling = none → ∀ e, k.hqueue.find? (fun e => mayEnter k e.2) = some e →
      (∀ n, e.2 = .trap n → n ≠ 15 → k.evec ≠ 0 → ∃ v, exec .handlerEntry s = .next v
        ∧ (let c := v.ctx core 15
           c.run = .live ∧ c.pc = k.evec ∧ c.getS 1 = (k.ctx n).cause ∧ c.getS 2 = (k.ctx n).einfo ∧ c.getS 3 = (k.ctx n).epc
            ∧ ∀ r, r ≠ 1 → r ≠ 2 → r ≠ 3 → c.getS r = (k.ctx 15).getS r)
        ∧ (v.core core).handling = some (.trap n) ∧ (v.core core).hqueue = k.hqueue.erase e)
      ∧ (∀ n, e.2 = .trap n → n ≠ 15 → k.evec = 0 → (∀ m ∈ k.msgs, m.target ≠ n) → ∃ v, exec .handlerEntry s = .next v
        ∧ (v.ctx core n).run = .idle ∧ (s.tenantOf core, 1) ∈ v.msix)
      ∧ (∀ pc a b rel, e.2 = .message pc a b rel → ∃ v, exec .handlerEntry s = .next v
        ∧ (let c := v.ctx core 15
           c.run = .live ∧ c.pc = pc ∧ c.getS 1 = a ∧ c.getS 2 = b ∧ c.cause.extractLsb' 0 8 = 0x81 ∧ c.cause.extractLsb' 12 4 = 15))
      ∧ (∀ r, e.2 = .preempt r → k.evec ≠ 0 → ∃ v, exec .handlerEntry s = .next v
        ∧ (let c := v.ctx core 15
           c.run = .live ∧ c.pc = k.evec ∧ c.getS 2 = r.setWidth 64 ∧ (c.getS 1).extractLsb' 0 8 = 0x80)
        ∧ ∀ n : CtxNum, n.toNat ≤ 10 → (k.ctx n).run = .live → (v.ctx core n).stopped = true))
    ∧ (k.evec = 0 → exec .preempt s = .next s)
    ∧ (k.evec ≠ 0 → s.pick.num ≤ 2 → ∃ v at_, exec .preempt s = .next v
        ∧ (at_, Delivery.preempt (BitVec.ofNat 2 s.pick.num)) ∈ (v.core core).hqueue
        ∧ ((∀ e ∈ k.hqueue, ∀ r, e.2 ≠ .preempt r) →
            (v.core core).hqueue.head? = some (at_, Delivery.preempt (BitVec.ofNat 2 s.pick.num))))
    ∧ (s.curCtx ≠ 15 → s.me.run = .live → s.myCore.exch = none → ∀ r rest, s.me.reports = r :: rest →
        ∃ v, exec .asyncTrapTake s = .next v
          ∧ v.me.run = .trapped ∧ v.me.cause.extractLsb' 0 8 = r.cause.code ∧ v.me.cause.getLsbD 9 = true ∧ v.me.einfo = r.einfo
          ∧ v.me.epc = r.epc ∧ v.me.jrnl.getLsbD 63 = true ∧ v.me.jrnl.extractLsb' 0 53 = s.me.pc.extractLsb' 4 53
          ∧ v.me.reports = rest)
    ∧ (s.me.run = .live → lineHeld s.me = true → s.me.wdogLimit ≠ 0 →
        s.me.wdogCount.toNat = 2 ^ s.me.wdogLimit.toNat →
        exec .watchdog s = .next (trapMe (s.setMe { s.me with wdogCount := 0 }) .watchdog (BitVec.ofNat 64 (2 ^ s.me.wdogLimit.toNat))))

/-- R24, R218, R380, R398, R424 to R426: the lookup of the line at the program counter: a line of the buffer or the cache, its 256 bytes;
an absent one, at once in an exchange phase, which is the model's reading of R218 (log 22), else a demand of a home in service that
holds the context; a fetch fault, a trap whose `ctl.einfo` and `ctl.epc` are the program counter; a page that is not ready, a hold
for the page. A fill brings its line into the cluster's cache and the
buffers of the cores that demanded it, once its request and the line have crossed. -/
def Obligations.InstructionFetch : Prop :=
  ∀ (s : State),
    let pc := s.me.pc
    let line := pc &&& ~~~255#64
    let cl := coreCluster s.curCore
    (s.me.run = .live → lineHeld s.me = false → s.me.resid = none →
    (∀ bs, fetchAt s s.curCore pc = .line bs → ∃ v, exec .ifetchLookup s = .next v ∧ v.me.fline = some (line, bs) ∧ v.me.pc = pc)
    ∧ (∀ p key l, fetchAt s s.curCore pc = .absent p key l → inPhase s.myCore s.curCtx = true →
        ∃ v, exec .ifetchLookup s = .next v ∧ v.me.fline = some (line, lineAt s p) ∧ v.me.pc = pc)
    ∧ (∀ p key l, fetchAt s s.curCore pc = .absent p key l → inPhase s.myCore s.curCtx = false → linkHolds s p = false →
        unserved s (coreDie s.curCore) (homeDie p) = false → ∃ v e, exec .ifetchLookup s = .next (holdMe v)
        ∧ e ∈ (v.cluster cl).inflight ∧ e.1 = line ∧ (s.curCore, s.curCtx) ∈ e.2)
    ∧ (∀ c, fetchAt s s.curCore pc = .bad c → exec .ifetchLookup s = .next (takeTrap s s.curCore s.curCtx c pc pc false))
    ∧ (∀ w, fetchAt s s.curCore pc = .wait w → ∃ v, exec .ifetchLookup s = .next (holdMe v) ∧ v.me.pageWait = some w))
    ∧ (∀ e, (s.cluster s.pick.cluster).inflight.find? (fun e => e.1.toNat == s.pick.num) = some e →
        (fetchCrossing s s.pick.cluster e.1 = none → exec .icacheFill s = .next s)
        ∧ (fetchCrossing s s.pick.cluster e.1 ≠ none → ∃ v, exec .icacheFill s = .next v ∧ (v.cluster s.pick.cluster).inflight = (s.cluster s.pick.cluster).inflight.erase e
          ∧ e.1 ∈ (v.cluster s.pick.cluster).icache ∧ ∀ w ∈ e.2, e.1.toNat ∈ (v.core w.1).ibuf))

/-! ## Posted writes and page faults -/

/-- R292, R295, R347, R381, R396: the oldest posted write of a context, none of whose refusals is untaken, is performed and its entry
freed: a plain store that no till counts leaves its bytes at its physical address. One that its home refuses, or whose check
fails, stays in its entry as refused, with the cause and the reason, and its context, while it stands, is owed one report that
names the entry. The host refuses a write to one of its own lines with REASON 2. -/
def Obligations.PostedWriteOutcomes : Prop :=
  ∀ (s : State), entryReady s s.pick.core s.pick.id = true →
    let core := s.pick.core
    let e := s.pick.id
    let j := (s.core core).jentry e
    let h := mkHandle core j.ctx j.inc
    let refused (i : Instr) (code : BitVec 8) (reason : BitVec 3) : Prop := ∃ v, exec i s = .next v
      ∧ (v.core core).jentry e = { j with state := 2, cause := code, reason := reason, pkt := none } ∧ SameMemory s v
      ∧ (s.handleLive h = true → ∃ r, (v.ctx core j.ctx).reports = (s.ctx core j.ctx).reports ++ [r] ∧ r.cause.code = code
          ∧ r.epc = j.epc ∧ r.einfo = BitVec.ofNat 64 (2 ^ 63 + e))
    (∀ r, homeRefuses s core j = some r → refused .postedWritePerformed 0x60 r ∧ refused .postedWriteRefused 0x60 r)
    ∧ (homeRefuses s core j = none →
      let u := answerPosted s core j
      (∀ c, performEntry u core j = .error c → refused .postedWritePerformed c.code 0 ∧ refused .postedWriteRefused c.code 0)
      ∧ (∀ t, performEntry u core j = .ok t →
        (∃ v, exec .postedWritePerformed s = .next v ∧ ((v.core core).jentry e).state = 0
          ∧ (j.kind = 0 → tillsCounting s (s.tenantOf core) (addrRange (va57 j.addr) j.bytes.length) = [] →
              ∀ i, i < j.bytes.length → isHost (j.phys + i) = isHost j.phys → physByte v (j.phys + i) = j.bytes.getD i 0))
        ∧ (isHost j.phys = true → refused .postedWriteRefused 0x60 2)
        ∧ (isHost j.phys = false → exec .postedWriteRefused s = .next s)))

/-- R27, R380, R398 to R400, R431: a trap message of a page that is not outstanding takes one of the 32 places of its row's collector, and
one of a page that is adds its cores; two messages of one row and page in flight become one. When the instance resolves the page
the context that waits for it replays, and when it cannot the context takes XLATE_MISS, or FETCH, with the faulting address. A
page request of the host answered with Success or Invalid Request does the same with XLATE_HOST; Response Failure turns PRI off
at every function (log 45) and sends event 32, until the host enables PRI of the function again.
R428 to R430: a Translation Completion that maps the page with the rights that the waiting access needs installs the
translation in the cluster and in the waiting core, and the access replays; without W a write raises XLATE_HOST; a page that is not
present goes to the collector; a refusal raises XLATE_HOST, or FETCH, with its address; one that an Invalidate Request overtook is
discarded. An Invalidate Request removes the translations of its PASID and range from every cluster and core, and its completion is sent,
now or when no retired access uses their frames. -/
def Obligations.PageFaults : Prop :=
  (∀ (s : State),
     let d := s.pick.die
     let x := s.die d
     let code (w : PageWait) (host : Bool) : BitVec 8 := if w.need = .fetch then 0x14 else if host then 0x12 else 0x10
     let replays (i : Instr) (core : CoreId) (n : CtxNum) : Prop := ∃ v, exec i s = .next v
       ∧ (v.ctx core n).pageWait = none ∧ (v.ctx core n).run = .live ∧ (v.ctx core n).pc = (s.ctx core n).pc
       ∧ (v.ctx core n).s = (s.ctx core n).s
     let fails (i : Instr) (core : CoreId) (n : CtxNum) (w : PageWait) (host : Bool) : Prop := ∃ v, exec i s = .next v
       ∧ (v.ctx core n).run = .trapped ∧ (v.ctx core n).cause.extractLsb' 0 8 = code w host ∧ (v.ctx core n).einfo = w.addr
       ∧ (v.ctx core n).epc = (s.ctx core n).pc
     (∀ m, x.trapMsgs.find? (fun m => m.id == s.pick.id) = some m →
       let l := collector s d m.row
       (l.any (sameFault m) = false → l.length < 32 → m.kind ≠ .host → ∃ v, exec .trapMessageCollect s = .next v
         ∧ collector v d m.row = l ++ [{ tenant := m.tenant, kind := m.kind, page := m.page, cores := m.cores }]
         ∧ (v.die d).trapMsgs = x.trapMsgs.erase m)
       ∧ (l.any (sameFault m) = false → 32 ≤ l.length → exec .trapMessageCollect s = .next s)
       ∧ (l.any (sameFault m) = true → ∃ v, exec .trapMessageCollect s = .next v ∧ (collector v d m.row).length = l.length
         ∧ (v.die d).trapMsgs = x.trapMsgs.erase m ∧ ∀ o ∈ collector v d m.row, sameFault m o = true → ∀ c ∈ m.cores, c ∈ o.cores)
       ∧ (∀ b, x.trapMsgs.find? (fun m => m.id == s.pick.other) = some b → m.id ≠ b.id → m.row = b.row → m.tenant = b.tenant →
           m.kind = b.kind → m.page = b.page → ∃ v, exec .trapMessageMerge s = .next v
           ∧ (∀ y ∈ (v.die d).trapMsgs, y.id = m.id → ∀ c, (c ∈ m.cores ∨ c ∈ b.cores) → c ∈ y.cores)
           ∧ (v.die d).trapMsgs.length + 1 = x.trapMsgs.length))
     ∧ (∀ o core n w, (collector s d s.pick.row).find? (fun o => o.tenant == s.pick.tenant && o.page == s.pick.num
           && o.kind == kindOfNum s.pick.other) = some o →
         o.kind ≠ .host → pageWaiters s o.cores o.page false = [(core, n, w)] →
         (∀ key l, leafOf (s.tenantSt o.tenant) (o.page * 4096) = some (key, l) → l.p = true →
           (l.mig = false → replays .faultAnswer core n) ∧ (l.mig = true → exec .faultAnswer s = .next s))
         ∧ (leafOf (s.tenantSt o.tenant) (o.page * 4096) = none → s.pick.answer ≠ .resolved → n ≠ 15 → fails .faultAnswer core n w false))
     ∧ (∀ e d row t (pg : Nat) o core n w, sparseFind s.tagTable s.pick.id = some e → s.priOff = [] → e.waiting = [(d, row, t, pg)] →
         (collector s d row).find? (fun o => o.tenant == t && o.kind == .host && o.page == pg) = some o →
         pageWaiters s o.cores o.page true = [(core, n, w)] →
         (s.pick.num = 0 → replays .prgResponse core n)
         ∧ (s.pick.num = 1 → n ≠ 15 → fails .prgResponse core n w true))
     ∧ (∀ e, sparseFind s.tagTable s.pick.id = some e →
         (s.pick.num = 15 → ∃ v, exec .prgResponse s = .next v ∧ (∀ f : Tenant, f.toNat ≤ 64 → f ∈ v.priOff) ∧ (0, 32) ∈ v.msix)
         ∧ (s.pick.num ≠ 0 → s.pick.num ≠ 1 → s.pick.num ≠ 15 → exec .prgResponse s = .next s))
     ∧ (∃ v, exec .priEnable s = .next v ∧ v = { s with priOff := v.priOff } ∧ s.pick.tenant ∉ v.priOff
         ∧ ∀ f, f ≠ s.pick.tenant → (f ∈ v.priOff ↔ f ∈ s.priOff))) ∧
  (∀ (s : State),
     let cl := s.pick.cluster
     let k := s.cluster cl
     (∀ e, k.atsReqs.find? (fun e => e.tenant == s.pick.tenant && e.page == s.pick.num) = some e →
       (e.stale = true → ∃ v, exec .translationCompletion s = .next v ∧ (v.cluster cl).hostTlb = k.hostTlb
         ∧ { e with stale := false } ∈ (v.cluster cl).atsReqs)
       ∧ (e.stale = false → ∀ core n w, atsWaiters s cl e.page = [(core, n, w)] →
         (∀ hpa size wr ex, s.pick.ats = .mapped hpa size true wr ex → (w.need = .write → wr = true) →
           let x : HostTrans := { tenant := e.tenant, page := e.page, hpa := pageOfCompletion hpa size e.page, rd := true, wr := wr }
           ∃ v, exec .translationCompletion s = .next v ∧ (v.ctx core n).pageWait = none ∧ (v.ctx core n).run = .live
             ∧ (v.ctx core n).pc = (s.ctx core n).pc ∧ x ∈ (v.cluster cl).hostTlb ∧ x ∈ (v.core core).hostTlb)
         ∧ (∀ hpa size ex, s.pick.ats = .mapped hpa size true false ex → w.need = .write → n ≠ 15 → ∃ v,
             exec .translationCompletion s = .next v ∧ (v.ctx core n).run = .trapped
             ∧ (v.ctx core n).cause.extractLsb' 0 8 = 0x12 ∧ (v.ctx core n).einfo = w.addr)
         ∧ (s.pick.ats = .notPresent → ∃ v m, exec .translationCompletion s = .next v
             ∧ (v.ctx core n).pageWait = some { w with ats := none } ∧ m ∈ (v.die (coreDie core)).trapMsgs ∧ m.page = w.page
             ∧ m.kind = w.kind ∧ m.cores = [core])
         ∧ (s.pick.ats = .refused → n ≠ 15 → ∃ v, exec .translationCompletion s = .next v ∧ (v.ctx core n).run = .trapped
             ∧ (v.ctx core n).cause.extractLsb' 0 8 = (if w.need = .fetch then 0x14 else 0x12) ∧ (v.ctx core n).einfo = w.addr)))
     ∧ (s.invWait.any (fun e => e.1 == s.pick.id) = false → ∃ v, exec .invalidateRequest s = .next v
         ∧ (s.pick.id ∈ v.invDone ∨ ∃ fs, (s.pick.id, fs) ∈ v.invWait)
         ∧ ∀ t ts, (t, ts) ∈ s.tenants → ts.pasid.toNat = s.pick.num →
             let out (e : HostTrans) : Prop := ¬(e.tenant = BitVec.ofNat 7 t ∧ s.pick.other ≤ e.page
               ∧ e.page < s.pick.other + (s.pick.words.headD 1).toNat)
             (∀ c ∈ v.clusters, ∀ e ∈ c.2.hostTlb, out e) ∧ (∀ c ∈ v.cores, ∀ e ∈ c.2.hostTlb, out e)))

/-- R236, R283, R370, R372, R438, R439: at the end of a window a purse gains RATE up to DEPTH, a page part with at least 64 reads and at most 2
writes from other dies becomes replicated and its counters restart, and the balancer runs, moving only cores of the die whose
helpers are idle; a window that has been served is not served again. The oldest held item of a purse is admitted when the
balance is above 0, and its request has one more of its items admitted there. The service level only rises, to 3 at most; a sag of 2 per cent or more stretches the next
period of a die and holds its rate one sixteenth lower for every further per cent, and a die whose supply has been good and that is
not hot regains one sixteenth after 65,536 ns. A stretched period is one of the full clock, in which the die counts no cycle (the model's
choice, log 72). -/
def Obligations.WindowsAndClocks : Prop :=
  ∀ (s : State),
    let d := s.pick.die
    let x := s.die d
    let p := s.purse s.pick.tenant s.pick.flag d
    (x.cycle / 4096 ≤ x.purseWin → exec .purseWindow s = .next s)
    ∧ (x.purseWin < x.cycle / 4096 → ∃ v, exec .purseWindow s = .next v ∧ (v.die d).purseWin = x.cycle / 4096
        ∧ ∀ t fab, (v.purse t fab d).bal = min ((s.purse t fab d).depth : Int) ((s.purse t fab d).bal + (s.purse t fab d).rate)
          ∧ (v.purse t fab d).held = (s.purse t fab d).held)
    ∧ (x.cycle / 65536 ≤ x.pageWin → exec .pageModeWindow s = .next s)
    ∧ (x.pageWin < x.cycle / 65536 → (s.sector d).modes.Pairwise (fun a b => a.1 < b.1) → ∃ v, exec .pageModeWindow s = .next v
        ∧ ∀ q, let m := sparseGet ({} : PageMode) (s.sector d).modes q
          let m' := sparseGet ({} : PageMode) (v.sector d).modes q
          m'.rd = 0 ∧ m'.wr = 0 ∧ m'.replicated = (m.replicated || (decide (64 ≤ m.rd) && decide (m.wr ≤ 2))))
    ∧ (x.cycle / 4096 ≤ x.balWin → exec .stageBalance s = .next s)
    ∧ (x.balWin < x.cycle / 4096 → ∃ v, exec .stageBalance s = .next v ∧ (v.die d).balWin = x.cycle / 4096
        ∧ ∀ core, (coreDie core ≠ d ∨ helpersIdle (s.core core) = false) → (v.core core).stage = (s.core core).stage)
    ∧ (∀ w c rest, p.held = (w, c) :: rest →
        (p.rate ≠ 0 → p.bal ≤ 0 → exec .purseAdmit s = .next s)
        ∧ ((p.rate = 0 ∨ 0 < p.bal) → ∃ v, exec .purseAdmit s = .next v ∧ (v.purse s.pick.tenant s.pick.flag d).held = rest
          ∧ (p.rate ≠ 0 → (v.purse s.pick.tenant s.pick.flag d).bal = max (-(p.rate : Int)) (p.bal - c))
          ∧ (∀ core n m g, w = .ctx core n → (s.ctx core n).pend = .admitted m g →
              (v.ctx core n).pend = (if s.pick.flag = true then .admitted m (g + 1) else .admitted (m + 1) g))))
    ∧ (s.svc.toNat < s.pick.num → s.pick.num ≤ 3 → exec .serviceLevelChange s = .next { s with svc := BitVec.ofNat 2 s.pick.num })
    ∧ ((s.pick.num ≤ s.svc.toNat ∨ 3 < s.pick.num) → exec .serviceLevelChange s = .next s)
    ∧ (∀ q, s.pick.power = .sag q → (q < 2 → exec .supplySag s = .next s)
        ∧ (2 ≤ q → ∃ v, exec .supplySag s = .next v ∧ (v.die d).rate = min x.rate (max 8 (16 - (q - 2))) ∧ (v.die d).supplyGood = false
          ∧ (v.die d).stretch = true))
    ∧ (x.stretch = true → tickDie s.svc x = ({ x with stretch := false }, false))
    ∧ (x.stretch = false → x.rate = 16 → s.svc = 3 → tickDie s.svc x = ({ x with cycle := x.cycle + 1 }, true))
    ∧ (x.supplyGood = true → x.hot = false → x.rate < 16 → x.rateAt + 65536 ≤ s.time → ∃ v, exec .clockRecover s = .next v
        ∧ (v.die d).rate = x.rate + 1 ∧ (v.die d).rateAt = s.time)
    ∧ ((x.supplyGood = false ∨ x.hot = true ∨ 16 ≤ x.rate ∨ s.time < x.rateAt + 65536) → exec .clockRecover s = .next s)

/-! ## The service kernel -/

/-- R240, R241, R285, R374, R376 to R378: the services on a page, for a present page homed in the sector of the instance. QUERY
answers its leaf entry; PROTECT sets the three rights; FREEZE freezes a device page that is not writable once its
in-flight count is zero, and is refused with EBUSY where it is writable; UNFREEZE ends the freezing and answers how many handles it released; TODEV, TOHOST and UNMAP set MIG, and answer when
the page's in-flight count is zero. A page that is not mapped answers ENOMAP and one of another sector EWRONG, and the call changes
nothing. A number that no service has answers EINVAL. That PROTECT of a page that migrates answers EBUSY, that an address that is not
canonical answers EINVAL, and that EWRONG comes before the ENOMAP of an absent page, is the model's choice (log 17).
R378: a flip or an unmapping ends when the page's in-flight count is zero and the link carries its bytes; until then nothing
changes. Once the dirty bytes are at their home the bytes of the page stand in its new frames: a todev page in the frame that the
sector takes next, under the lowest key slot of its tenant (the model's choice, log 5), a tohost page in the host frames of its
host address. The leaf names the new frame with MIG clear, or P is clear after an unmapping, and the call is answered OK. -/
def Obligations.PageServices : Prop :=
  (∀ (s : State) (c : Call) (key : Nat) (l : Leaf), CallPage s c key l →
     let u := c.arg 2
     let leaf (v : State) : Option Leaf := sparseFind (v.tenantSt c.tenant).leaves key
     let armed := tillArmedOn s c.tenant key l
     let begun (v : State) : Prop := leaf v = some { l with mig := true } ∧ v.replies = s.replies ∧ (∀ x ∈ (v.sector s.pick.die).calls, x.id ≠ c.id)
       ∧ ∃ f ∈ (v.sector s.pick.die).flips, f.call = c ∧ f.tenant = c.tenant ∧ f.va = BitVec.ofNat 64 (key * 65536)
     (Calls s c 0x015 → ∃ v w, exec .query s = .next v ∧ Answers s v c 0 [w] ∧ v.tenants = s.tenants
       ∧ w.getLsbD 63 = l.p ∧ w.getLsbD 62 = l.mig ∧ w.getLsbD 61 = l.host ∧ w.getLsbD 60 = l.frz ∧ w.getLsbD 59 = l.norc
       ∧ w.extractLsb' 57 2 = l.size ∧ w.extractLsb' 45 12 = l.key ∧ w.getLsbD 44 = l.rd ∧ w.getLsbD 43 = l.wr ∧ w.getLsbD 42 = l.ex
       ∧ w.extractLsb' 0 42 = l.frame)
     ∧ (Calls s c 0x010 → u.toNat < 8 → l.mig = false → armed = false → (l.frz = true → u.getLsbD 1 = false) → ∃ v, exec .protect s = .next v
       ∧ Answers s v c 0 [] ∧ leaf v = some { l with rd := u.getLsbD 2, wr := u.getLsbD 1, ex := u.getLsbD 0 })
     ∧ (Calls s c 0x010 → u.toNat < 8 → (l.mig = true ∨ armed = true) → ∃ v, exec .protect s = .next v ∧ Answers s v c 4 []
       ∧ v.tenants = s.tenants)
     ∧ (Calls s c 0x011 → l.wr = false → l.host = false → l.mig = false → pageBusy s c.tenant key l = false → ∃ v, exec .freeze s = .next v
       ∧ Answers s v c 0 [] ∧ leaf v = some { l with frz := true })
     ∧ (Calls s c 0x011 → l.wr = true → ∃ v, exec .freeze s = .next v ∧ Answers s v c 4 [] ∧ v.tenants = s.tenants)
     ∧ (Calls s c 0x012 → ∃ v, exec .unfreeze s = .next v ∧ leaf v = some { l with frz := false }
       ∧ Answers s v c 0 [BitVec.ofNat 64 (readersOf (s.tenantSt c.tenant) key).length])
     ∧ (Calls s c 0x013 → l.host = true → l.frz = false → l.mig = false → armed = false → ∃ v, exec .todev s = .next v ∧ begun v)
     ∧ (Calls s c 0x014 → u.toNat % 4096 = 0 → u.toNat < 2 ^ 54 → l.host = false → l.frz = false → l.size = 0 → l.mig = false →
         armed = false → ∃ v, exec .tohost s = .next v ∧ begun v)
     ∧ (Calls s c 0x016 → l.mig = false → armed = false → ∃ v, exec .unmap s = .next v ∧ begun v)) ∧
  (∀ (s : State) (c : Call) (i : Instr) (n : Nat),
     let a := c.arg 1
     let refused (st : BitVec 16) : Prop := ∃ v, exec i s = .next v ∧ Answers s v c st [] ∧ v.tenants = s.tenants
     (i, n) ∈ [((.protect : Instr), 0x010), (.freeze, 0x011), (.unfreeze, 0x012), (.todev, 0x013), (.tohost, 0x014), (.query, 0x015),
       (.unmap, 0x016)] →
     (∀ m, Calls s c m → knownService c.svc = false → refused 2)
     ∧ (Calls s c n → (n = 0x010 → (c.arg 2).toNat < 8) → (n = 0x014 → (c.arg 2).toNat % 4096 = 0 ∧ (c.arg 2).toNat < 2 ^ 54) →
       (canonical a = false → refused 2)
       ∧ (canonical a = true → leafOf (s.tenantSt c.tenant) (va57 a) = none → refused 7)
       ∧ (∀ key l, canonical a = true → leafOf (s.tenantSt c.tenant) (va57 a) = some (key, l) →
           (dieOf s c.tenant (va57 a) ≠ s.pick.die → refused 6) ∧ (dieOf s c.tenant (va57 a) = s.pick.die → l.p = false → refused 7)))) ∧
  (∀ (s : State) (f : Flip) (key : Nat) (l : Leaf), (s.sector s.pick.die).flips.find? (fun f => f.id == s.pick.id) = some f →
     flipPage s f = some (key, l) →
     let k := s.sector s.pick.die
     let old := l.phys (key * 65536)
     let home := flushPage (s.setSector s.pick.die { k with flips := k.flips.filter (fun x => x.id != f.id) }) f.tenant key l
     let ends (v : State) (leaf : Leaf) : Prop := exec .pageFlipComplete s = .next v
       ∧ sparseFind (v.tenantSt f.tenant).leaves key = some leaf ∧ (∀ x ∈ (v.sector s.pick.die).flips, x.id ≠ f.id)
       ∧ ∃ r ∈ v.replies, r.seq = f.call.seq ∧ r.owner = f.call.owner ∧ r.status = 0
     (pageBusy s f.tenant key l = true → exec .pageFlipComplete s = .next s)
     ∧ (f.kind ≠ 2 → s.linkUp = false → exec .pageFlipComplete s = .next s)
     ∧ (f.kind = 2 → l.host = false → pageBusy s f.tenant key l = false → ∃ v, ends v { l with mig := false, p := false })
     ∧ (f.kind = 0 → l.host = true → s.memOk → s.linkUp = true → pageBusy s f.tenant key l = false →
         ∀ fs n k, hostFrames s f.tenant (l.untranslated (key * 65536) / 4096) = some fs → takeFrames (s.sector s.pick.die) 1 = some (n, k) →
         isHost (frameBase s.pick.die n + 65535) = false →
         ∃ v, ends v { l with mig := false, host := false, key := lowestKey s f.tenant, frame := frameField s.pick.die n }
           ∧ ∀ i, i < 65536 → physByte v (frameBase s.pick.die n + i) = physByte home (hostBase + fs.getD (i / 4096) 0 + i % 4096))
     ∧ (f.kind = 1 → l.host = false → l.size = 0 → s.memOk → s.linkUp = true → pageBusy s f.tenant key l = false →
         ∀ fs, hostFrames s f.tenant (f.hostAddr / 4096) = some fs → fs.Nodup → (∀ x ∈ fs, x % 4096 = 0) →
         ∃ v, ends v { l with mig := false, host := true, key := 0, frame := BitVec.ofNat 42 (f.hostAddr / 4096) }
           ∧ ∀ i, i < 65536 → physByte v (hostBase + fs.getD (i / 4096) 0 + i % 4096) = physByte home (old + i)))

/-- R240, R364, R366, R368 to R370, R373, R374, R376, R444: the other services. MAP makes a present page of zeros of its caller with the
given rights and a key slot that the caller holds; for another's slot it answers EPERM, before any other status, which is the model's
choice (log 17); QUOTA answers a limit and its count; ASSIGN, SETQUOTA, SETPURSE,
KEYASSIGN and ARENA are tenant 0's and answer EPERM to others; they set the tenant of an emptied cluster, a limit, a purse with its balance at
DEPTH, the tenant of a key slot that no page maps, and the size of an arena that is not below its use. ASSIGN first pre-empts the cores
whose handler can save a context, and waits for the handlers; the kernel keeps what no handler saved and the scratchpads, and whether
it gives them back is its own decision (the model's choice, log 70). -/
def Obligations.ResourceServices : Prop :=
  ∀ (s : State) (c : Call),
    let d := s.pick.die
    let arg (i : Nat) : Nat := (c.arg i).toNat
    let who : Tenant := (c.arg 2).setWidth 7
    let size : BitVec 2 := (c.arg 3).setWidth 2
    let slot : BitVec 12 := (c.arg 4).extractLsb' 3 12
    let key := va57 (c.arg 2) / 65536
    let n := pageBytes size / 65536
    (∀ i m, (i, m) ∈ [((.assign : Instr), 0x803), (.setquota, 0x804), (.setpurse, 0x805), (.keyassign, 0x806), (.arena, 0x807)] →
      Calls s c m → c.tenant ≠ 0 → ∃ v, exec i s = .next v ∧ Answers s v c 1 [] ∧ v.tenants = s.tenants
        ∧ v.clusters = s.clusters ∧ v.keyOwner = s.keyOwner)
    ∧ (Calls s c 0x801 → arg 1 < 8 → arg 3 < 3 → arg 4 < 2 ^ 15 → canonical (c.arg 2) = true → isLocal (c.arg 2) = false →
        va57 (c.arg 2) % pageBytes size = 0 →
        (s.keyHolder slot ≠ c.tenant → ∃ v, exec .map s = .next v ∧ Answers s v c 1 [] ∧ v.tenants = s.tenants)
        ∧ (s.keyHolder slot = c.tenant → mapped (s.tenantSt c.tenant) key n = false → ∀ f k, takeFrames (s.sector d) n = some (f, k) →
          ∃ v l, exec .map s = .next v ∧ Answers s v c 0 [] ∧ sparseFind (v.tenantSt c.tenant).leaves key = some l
            ∧ l.p = true ∧ l.mig = false ∧ l.host = false ∧ l.frz = false ∧ l.size = size ∧ l.key = slot
            ∧ l.rd = (c.arg 4).getLsbD 2 ∧ l.wr = (c.arg 4).getLsbD 1 ∧ l.ex = (c.arg 4).getLsbD 0
            ∧ ∀ i, i < pageBytes size → memByte v.mem (frameBase d f + i) = 0))
    ∧ (Calls s c 0x802 → arg 1 < 8 → arg 2 < 9 → countHome c.tenant (arg 2) d = d → ∃ v, exec .quota s = .next v ∧ v.tenants = s.tenants
        ∧ Answers s v c 0 [BitVec.ofNat 64 ((s.tenantSt c.tenant).limit c.tenant (arg 2) d), BitVec.ofNat 64 (quotaCount s c.tenant (arg 2) d)])
    ∧ (c.tenant = 0 → arg 2 ≤ 64 →
      (Calls s c 0x804 → arg 1 < 8 → arg 3 < 9 → arg 4 ≤ largestLimit (arg 3) → countHome who (arg 3) d = d →
        ∃ v, exec .setquota s = .next v ∧ Answers s v c 0 [] ∧ (v.tenantSt who).limit who (arg 3) d = arg 4)
      ∧ (Calls s c 0x807 → arg 1 < 8 → arg 3 ≤ largestLimit 7 → countHome who 7 d = d →
        (quotaCount s who 7 d ≤ arg 3 → ∃ v, exec .arena s = .next v ∧ Answers s v c 0 [] ∧ (v.tenantSt who).limit who 7 d = arg 3)
        ∧ (arg 3 < quotaCount s who 7 d → ∃ v, exec .arena s = .next v ∧ Answers s v c 4 [] ∧ v.tenants = s.tenants))
      ∧ (Calls s c 0x805 → arg 1 < 8 → arg 3 < 2 → arg 4 < 65536 → 1 ≤ arg 5 → arg 5 ≤ 2 ^ 20 → ∃ v, exec .setpurse s = .next v
        ∧ Answers s v c 0 [] ∧ (let p := v.purse who (c.arg 3 == 1) ((c.arg 1).setWidth 3)
           p.rate = arg 4 ∧ p.depth = arg 5 ∧ p.bal = (arg 5 : Int)))
      ∧ (Calls s c 0x803 → arg 1 < 8 → arg 3 < 2 ^ 13 →
        let cl : ClusterId := (c.arg 3).setWidth 13
        (cl.extractLsb' 0 5).toNat < 20 → (cl.extractLsb' 5 5).toNat < 20 → cl.extractLsb' 10 3 = d →
        ((s.cluster cl).tenant = who → ∃ v, exec .assign s = .next v ∧ Answers s v c 0 [] ∧ v.clusters = s.clusters)
        ∧ ((s.cluster cl).tenant ≠ who → c.preempted = false → quotaFits s who 0 0 (1 + pendingAssigns s who) = false →
          ∃ v, exec .assign s = .next v ∧ Answers s v c 5 [] ∧ v.clusters = s.clusters)
        ∧ ((s.cluster cl).tenant ≠ who → (c.preempted = true ∨ quotaFits s who 0 0 (1 + pendingAssigns s who) = true) →
          (c.preempted = false → ∀ core ∈ clusterCores cl, toPreempt (s.core core) = true → ∃ v at_, exec .assign s = .next v
            ∧ v.replies = s.replies ∧ v.clusters = s.clusters ∧ (at_, Delivery.preempt 1) ∈ (v.core core).hqueue)
          ∧ ((c.preempted = true ∨ ∀ core ∈ clusterCores cl, toPreempt (s.core core) = false) →
            (∀ core ∈ clusterCores cl, preempting (s.core core) = false) →
            let ended := (clusterCores cl).foldl endContexts ((clusterCores cl).foldl keepContexts s)
            clusterEmpty ended cl = true →
            ∃ v, exec .assign s = .next v ∧ Answers s v c 0 [] ∧ (v.cluster cl).tenant = who ∧ (v.cluster cl).slice = (ended.cluster cl).slice
              ∧ (s.pick.flag = false → ∀ core ∈ clusterCores cl, (v.core core).mem = [] ∧ (v.core core).acc = []
                ∧ (∀ n, ((v.core core).ctx n).run = .idle)
                ∧ ((ended.core core).mem ≠ [] → ∃ x, sparseFind v.saves (savedKey (s.cluster cl).tenant core) = some x ∧ x.tenant = (s.cluster cl).tenant
                  ∧ x.mem = (ended.core core).mem))))))
    ∧ (Calls s c 0x806 → c.tenant = 0 → arg 1 < 8 → arg 2 < 4096 → (arg 3 ≤ 64 ∨ arg 3 = 127) →
      let q : BitVec 12 := (c.arg 2).setWidth 12
      let t : BitVec 7 := (c.arg 3).setWidth 7
      (s.keyHolder q = t → ∃ v, exec .keyassign s = .next v ∧ Answers s v c 0 [] ∧ v.keyOwner = s.keyOwner)
      ∧ (s.keyHolder q ≠ t →
        (keyMapped s q = true → ∃ v, exec .keyassign s = .next v ∧ Answers s v c 4 [] ∧ v.keyOwner = s.keyOwner)
        ∧ (keyMapped s q = false → (t = 127 ∨ quotaFits s t 8 0 1 = true) → ∃ v, exec .keyassign s = .next v ∧ Answers s v c 0 []
          ∧ v.keyHolder q = t ∧ ∀ x, x ≠ q → v.keyHolder x = s.keyHolder x)))

/-! ## Storage errors, the link and fencing -/

/-- R413 to R416, R423: symbols in error stay in a row of local memory or a slice until it is decoded; the patrol finds nothing in a
sound row, corrects one symbol and logs class 1, and poisons a row with more, which is class 4, as it does where the one failed
bank leaves another symbol in error. An error of a stack that its own code cannot correct poisons the granule. A rebuild visits
one row after another, and after the last logs class 3.
R418 to R420, R422, R423: when the CXL link goes down the dirty host granules are retained, class 6 is logged and event 34 sent; when it
comes up again within 2 × 10^9 ns class 7 is logged and nothing is retained; with no link for 2 × 10^9 ns the host keeps the bytes it had. A fence of
a die other than die.0 takes it out of service with its cores and its sector, and sends event 33; a fence of die.0 stops the module. -/
def Obligations.ErrorsAndFences : Prop :=
  (∀ (s : State), s.log.length + 2 ≤ 4096 → rowExists s.pick.store = true →
     let r := s.pick.store
     let b := s.banksOf r.store
     let bad := sparseGet [] b.bad r.row
     let logs (v : State) (c : BitVec 8) : Prop := ∃ e ∈ v.log, e.cls = c ∧ e.source = storageSource r.store ∧ e.time = s.time
     (∀ d, r.store = .stack d →
       (s.pick.flag = false → exec .softError s = .next s)
       ∧ (s.pick.flag = true → ∃ v, exec .softError s = .next v ∧ d.toNat * 2 ^ 31 + r.row ∈ v.stackPoison ∧ logs v 4)
       ∧ exec .patrolScrub s = .next s)
     ∧ ((∀ d, r.store ≠ .stack d) →
       (∃ v, exec .softError s = .next v
         ∧ (∀ w ∈ s.pick.words, w.toNat < 10 → w.setWidth 5 ∈ sparseGet [] (v.banksOf r.store).bad r.row)
         ∧ (∀ x ∈ bad, x ∈ sparseGet [] (v.banksOf r.store).bad r.row) ∧ v.poison = s.poison ∧ v.log = s.log)
       ∧ (bad = [] → b.failed.length ≤ 1 → ∃ v, exec .patrolScrub s = .next v ∧ v.log = s.log ∧ v.poison = s.poison)
       ∧ (∀ i, bad = [i] → b.failed = [] → ∃ v, exec .patrolScrub s = .next v ∧ v.poison = s.poison ∧ logs v 1
         ∧ sparseGet [] (v.banksOf r.store).bad r.row = [])
       ∧ ((2 ≤ bad.length ∧ b.failed = []) ∨ (∃ f, b.failed = [f] ∧ ∃ x ∈ bad, x.toNat ≠ f) → ∃ v, exec .patrolScrub s = .next v
         ∧ logs v 4 ∧ ∀ c, r.store = .localMem c → ∀ i, i < 8 → 8 * r.row + i ∈ (v.core c).poison)
       ∧ (∀ bank row, b.rebuild = some (bank, row) → sparseGet [] b.bad row = [] → b.failed.length ≤ 1 →
           (row + 1 < storageRows r.store → ∃ v, exec .bankRebuildRow s = .next v ∧ (v.banksOf r.store).rebuild = some (bank, row + 1) ∧ v.log = s.log)
           ∧ (storageRows r.store ≤ row + 1 → ∃ v, exec .bankRebuildRow s = .next v ∧ (v.banksOf r.store).rebuild = none ∧ logs v 3)))) ∧
  (∀ (s : State), s.log.length < 4096 →
     (s.linkUp = true → (s.die 4).fenced = false → ∃ v e, exec .cxlLinkDown s = .next v ∧ v.linkUp = false ∧ v.hostDirty = []
         ∧ v.retention.map (·.gran) = s.hostDirty ∧ v.linkDownAt = some s.time ∧ (0, 34) ∈ v.msix ∧ e ∈ v.log ∧ e.cls = 6 ∧ e.time = s.time)
     ∧ (∀ t, s.linkUp = false → s.linkDownAt = some t →
         (s.time < t + 2000000000 → ∃ v e, exec .cxlLinkRetrain s = .next v ∧ v.linkUp = true ∧ v.retention = [] ∧ v.heldHost = []
           ∧ v.hostMem = s.hostMem ∧ e ∈ v.log ∧ e.cls = 7 ∧ e.time = s.time)
         ∧ (t + 2000000000 ≤ s.time → exec .cxlLinkRetrain s = .next s)
         ∧ (s.time < t + 2000000000 → exec .retentionTimeout s = .next s)
         ∧ (t + 2000000000 ≤ s.time → ∃ v, exec .retentionTimeout s = .next v ∧ v.retention = [] ∧ v.linkDownAt = none
           ∧ (∀ r, s.retention = [r] → r.gran.old.length = 64 →
               ∀ i, i < 64 → memByte v.hostMem (64 * r.gran.gran - hostBase + i) = r.gran.old.getD i 0)))
     ∧ (s.removed = false → (s.die s.pick.die).fenced = false →
         (s.pick.die = 0 → ∃ v, exec .dieFence s = .next v ∧ v.removed = true ∧ (v.die 0).fenced = true ∧ SameMemory s v)
         ∧ (s.pick.die ≠ 0 → ∃ v, exec .dieFence s = .next v ∧ (v.die s.pick.die).fenced = true
             ∧ (0, 33) ∈ v.msix ∧ v.sector s.pick.die = {} ∧ ∀ c : CoreId, coreDie c = s.pick.die → v.core c = {})))

/-! ## The host, the scale network, attestation, images and reset -/

/-- R432 to R434, R437, R444: above service level 0, a launch of an aligned 32-byte record whose target is an idle context of
its tenant in service starts it and counts as accepted, and one that breaks a rule counts as dropped and starts nothing; KCMD loads KEY into
the slot that KSLOT names unless a page maps it; a fence register of 0 and a value of KCMD other than 1 do nothing; route entries are held as R437
says; on a virtual function only the launch and LSTAT stand, and what LSTAT, SVC, KEY and the routes read as. The MSI-X table of a function
stands in its BAR2 (its layout is PRESUMED, log 69), and the physical function maps pages into the HDM range (the pick names them, the
model's choice, log 71). That a launch acts in the step of its event, and that a function-level reset waits until the clusters of its
tenant are empty, is the model's choice (log 19). A function-level reset of a virtual function ends every context of its tenant; when its clusters are empty
they are cleared and return to tenant 0 with the rest that the tenant holds, its purses at RATE 0, and until then it goes on. -/
def Obligations.HostRegisters : Prop :=
  ∀ (s : State), s.svc ≠ 0 → s.removed = false →
    let t := s.pick.tenant
    let bs := s.pick.bytes
    let low (x : BitVec 64) : BitVec 32 := x.extractLsb' 0 32
    let high (x : BitVec 64) : BitVec 32 := x.extractLsb' 32 32
    let st := sparseGet 0 s.lstat t.toNat
    let target := wordAt bs 0
    let core : CoreId := target.extractLsb' 4 16
    let n : CtxNum := target.extractLsb' 0 4
    let plain := s.pick.other ≠ 2 ∧ s.pick.other ≠ 3
    (t.toNat ≤ 64 → s.pick.num = 0 → bs.length = 32 → target.extractLsb' 20 44 = 0 → wordAt bs 8 % 16 = 0 → coreExists core = true →
        s.tenantOf core = t → s.inService (coreDie core) = true → n.toNat ≤ 10 → (s.ctx core n).run = .idle →
        (s.core core).msgHeard.2 ≤ 65536 →
        ∃ v, exec .launch s = .next v ∧ (v.ctx core n).run = .live ∧ (v.ctx core n).pc = wordAt bs 8
          ∧ (v.ctx core n).getS 1 = wordAt bs 16 ∧ (v.ctx core n).getS 2 = wordAt bs 24
          ∧ high (sparseGet 0 v.lstat t.toNat) = high st
          ∧ (low st ≠ BitVec.allOnes 32 → low (sparseGet 0 v.lstat t.toNat) = low st + 1))
    ∧ (t.toNat ≤ 64 → (s.pick.num ≠ 0 ∨ bs.length ≠ 32 ∨ target.extractLsb' 20 44 ≠ 0 ∨ wordAt bs 8 % 16 ≠ 0 ∨ s.tenantOf core ≠ t
          ∨ coreExists core = false ∨ s.inService (coreDie core) = false) → ∃ v, exec .launch s = .next v ∧ v = { s with lstat := v.lstat }
          ∧ low (sparseGet 0 v.lstat t.toNat) = low st
          ∧ (high st ≠ BitVec.allOnes 32 → high (sparseGet 0 v.lstat t.toNat) = high st + 1))
    ∧ (s.pick.num ≠ 1 → exec .kcmd s = .next s)
    ∧ (t = 0 → s.pick.num = 1 → s.kcmd ≠ 1 → exec .kcmd s
        = .next (if keyMapped s s.kslot then { s with kcmd := 3 } else { s with kcmd := 1, keyLoad := some (s.kslot, s.keyReg) }))
    ∧ (∀ slot key, s.keyLoad = some (slot, key) → ∃ v, exec .keyLoadDone s = .next v ∧ sparseGet 0 v.keys slot.toNat = key
        ∧ v.kcmd = 2 ∧ v.keyLoad = none)
    ∧ (t = 0 → plain → s.pick.num = 0x1000 → bs.length = 8 → ∃ v, exec .barRegisterWrite s = .next v ∧ v.kslot = BitVec.ofNat 12 (bytesNat bs)
        ∧ v = { s with kslot := v.kslot })
    ∧ (t = 0 → plain → s.pick.num = 0x1040 → bs.length = 64 → ∃ v, exec .barRegisterWrite s = .next v ∧ v.keyReg = BitVec.ofNat 512 (bytesNat bs)
        ∧ v = { s with keyReg := v.keyReg })
    ∧ (t = 0 → plain → s.pick.num = 0x4000 → bs.length = 8 → ∃ v, exec .barRegisterWrite s = .next v ∧ v.modnum = BitVec.ofNat 16 (bytesNat bs))
    ∧ (∀ k, t.toNat ≤ 64 → s.pick.other = 2 → s.pick.num = 16 * k → k < msixVectors t → bs.length = 16 → ∃ v, exec .barRegisterWrite s = .next v
        ∧ v.msixEntry (msixPlace t k) = BitVec.ofNat 128 (bytesNat bs) &&& BitVec.ofNat 128 (2 ^ 97 - 1))
    ∧ (∀ key l, s.pick.other = 3 → leafOf (s.tenantSt t) (s.pick.num % 2 ^ 57) = some (key, l) → l.host = false →
        ∃ v, exec .barRegisterWrite s = .next v ∧ v = { s with hdm := v.hdm } ∧ ((t, key) ∈ v.hdm ↔ s.pick.flag = true))
    ∧ (s.pick.num % 8 = 0 → exec .fenceRegister s = .next s)
    ∧ (t = 0 → s.pick.num % 8 ≠ 0 → s.pick.num < 8 → exec .fenceRegister s = .next (fence s (BitVec.ofNat 3 s.pick.num)))
    ∧ (∀ (d : Die) (m : Nat) (b : Byte), t = 0 → m < 65536 → s.pick.num = 0x80000 + 65536 * d.toNat + m → bs = [b] →
        ∃ v, exec .scaleRouteWrite s = .next v
          ∧ sparseGet 0 (v.sector d).routes m = (if m = s.modnum.toNat ∨ (b.getLsbD 7 = true ∧ (b.extractLsb' 3 4 ≠ 0 ∨ 6 ≤ (b.extractLsb' 0 3).toNat))
              then b &&& 0x7F else b))
    ∧ (t ≠ 0 → plain → ∀ i ∈ [(.kcmd : Instr), .barRegisterWrite, .fenceRegister, .scaleRouteWrite], exec i s = .next s)
    ∧ barRead s t 0x20 8 = some (natBytes 8 st.toNat) ∧ (∀ off, t ≠ 0 → off < 0x20 ∨ 0x28 ≤ off → barByte s t off = none)
    ∧ (t = 0 → barRead s t 0x100 8 = some (natBytes 8 s.svc.toNat) ∧ barRead s t 0x1040 64 = some (List.replicate 64 0)
        ∧ (∀ (d : Die) m, m < 65536 → barByte s t (0x80000 + 65536 * d.toNat + m) = some (sparseGet 0 (s.sector d).routes m)))
    ∧ (t.toNat = 0 ∨ 64 < t.toNat → exec .functionLevelReset s = .next s)
    ∧ (t.toNat ≠ 0 → t.toNat ≤ 64 →
      let cls := tenantClusters s t
      let ended := (cls.flatMap clusterCores).foldl resetCore s
      (cls.all (clusterEmpty ended) = false → ∃ v, exec .functionLevelReset s = .next v ∧ t ∈ v.flrWait ∧ v.clusters = ended.clusters
        ∧ ∀ cl ∈ cls, ∀ core ∈ clusterCores cl, ∀ n, n.toNat ≤ 10 ∨ n = 15 → (v.ctx core n).run = .idle)
      ∧ (cls.all (clusterEmpty ended) = true → ∃ v, exec .functionLevelReset s = .next v
        ∧ (∀ cl ∈ cls, (v.cluster cl).tenant = 0 ∧ ∀ core ∈ clusterCores cl, (v.core core).mem = [] ∧ (v.core core).acc = []
          ∧ ∀ n, (v.ctx core n).run = .idle)
        ∧ (∀ fab d, (v.purse t fab d).rate = 0) ∧ (∀ a ∈ v.away, a.2.tenant ≠ t)
        ∧ t ∉ v.flrWait ∧ (∀ k ∈ v.sectors, ∀ x ∈ k.2.tills, ¬(x.2.owned = true ∧ x.2.owner = t)) ∧ (v.tenantSt t).stages = []
        ∧ (v.tenantSt t).descs = [] ∧ (v.tenantSt t).leaves = (s.tenantSt t).leaves ∧ ∀ q, v.keyHolder q ≠ t))

/-- R31, R205, R285, R333, R348, R357, R358, R379, R419, R435 to R437: a host write over CXL reaches a device page of the tenant that the HDM range maps
while the link is up, and one to a frozen page completes with an error and changes no byte; an increment from another module adds to an armed till of the tenant; a scale send goes
on to the ring of its core, and one for another module leaves on the lane that the sector's table names, with MODNUM as its source, or
is an orphan (the pick names it, log 50). Each SPDM request to the physical function is answered once, and one to another function is not, with the certificate chain in slot 0, its digest, or the
measurements, and signed where R379 says so; the tables behind them are constants of the model (log 9), and which measurements an
index gets and which bytes a signature covers are the model's choice (log 54).
R87, R88, R360: a load request is loaded whole, or nothing of it is and its fault is reported. -/
def Obligations.HostTraffic : Prop :=
  (∀ (s : State),
     let va := s.pick.num % 2 ^ 57
     let bs := s.pick.bytes
     let t := s.pick.tenant
     (∀ l p, hdmPage s t va bs.length = some (l, p) →
       (l.frz = true → exec .hostCxlWrite s = .next { s with hostErrors := s.hostErrors + 1 })
       ∧ (l.frz = false → ∃ v, exec .hostCxlWrite s = .next v ∧ v.hostErrors = s.hostErrors
         ∧ (isHost p = false → tillsCounting s t (addrRange va bs.length) = [] → ∀ i, i < bs.length → memByte v.mem (p + i) = bs.getD i 0)))
     ∧ (hdmPage s t va bs.length = none → exec .hostCxlWrite s = .next s)
     ∧ (s.linkUp = false → hdmPage s t va bs.length = none)
     ∧ (∀ m who id n, s.pick.flag = false → s.inService s.pick.die = true → s.pick.scale = some (.tillAdd m who id n) →
       let x := s.till id
       (x.owned = true → x.armed = true → x.owner = who → x.count + n < x.total → ∃ v, exec .scalePacketArrival s = .next v
         ∧ v.till id = { x with count := x.count + n })
       ∧ ((x.owned = false ∨ x.armed = false ∨ x.owner ≠ who) → exec .scalePacketArrival s = .next s))
     ∧ (∀ m who core ring data, s.pick.flag = false → s.inService s.pick.die = true → s.pick.scale = some (.send m who core ring data) → coreExists core = true →
         s.tenantOf core = who → data.length ≤ 16384 → reachable s s.pick.die (coreDie core) = true →
         ∃ v p, exec .scalePacketArrival s = .next v ∧ v.net = s.net ++ [p] ∧ p.msg = .delivery core ring (good data) ∧ p.hasSrc = false)
     ∧ (s.pick.flag = false → s.inService s.pick.die = false → exec .scalePacketArrival s = .next s)
     ∧ (∀ p, s.pick.flag = true → s.pick.scale = some p → coreExists s.pick.core = true → s.inService (coreDie s.pick.core) = true →
         let dst : BitVec 16 := BitVec.ofNat 16 s.pick.num
         let e := sparseGet 0 (s.sector (coreDie s.pick.core)).routes dst.toNat
         (e.getLsbD 7 = true → exec .scalePacketArrival s = .next { s with scaleOut := s.scaleOut
           ++ [(6 * (coreDie s.pick.core).toNat + (e.extractLsb' 0 3).toNat, dst, stampScale s.modnum p)] })
         ∧ (e.getLsbD 7 = false → exec .scalePacketArrival s = .next (orphanAtIssuer s s.pick.core)))
     ∧ (t = 0 → s.removed = false →
        let answered (i : Instr) (r : SpdmReply) : Prop := exec i s = .next { s with spdmOut := s.spdmOut ++ [r] }
        let digest := Config.sha384 Config.certificate
        answered .getVersion .version ∧ answered .getCapabilities .capabilities ∧ answered .negotiateAlgorithms .algorithms
         ∧ answered .getDigests (.digests digest) ∧ answered .getCertificate (.certificate Config.certificate)
         ∧ answered .challenge (.challengeAuth digest (Config.ecdsaSign (bs ++ natBytes 48 digest.toNat)))
         ∧ ∃ vs sig, answered .getMeasurements (.measurements vs sig) ∧ vs.map (·.1) = (if 1 ≤ s.pick.num ∧ s.pick.num ≤ 5 then [s.pick.num]
             else [1, 2, 3, 4, 5]) ∧ sig = Config.ecdsaSign (bs ++ vs.flatMap (fun v => natBytes 48 v.2.toNat)))
     ∧ (t ≠ 0 → ∀ i ∈ [(.getVersion : Instr), .getCapabilities, .negotiateAlgorithms, .getDigests, .getCertificate, .challenge,
          .getMeasurements], exec i s = .next s)) ∧
  (∀ (s : State) (r : LoadRequest), s.pick.load = some r →
     (∀ e, relocateRequest r = .error e → exec .imageLoad s = .next { s with loads := s.loads ++ [e] })
     ∧ (∀ us, relocateRequest r = .ok us → basesOk s r us = true →
       let u0 := dropSlices s r.tenant ((allSections us).flatMap (fun e => (sectionPages e.1 e.2.1 e.2.2.1).map (·.1)))
       (∀ e, placeAll r.tenant (lowestKey s r.tenant) (allSections us) u0 = .error e → exec .imageLoad s = .next { s with loads := s.loads ++ [e] })
       ∧ (∀ u, placeAll r.tenant (lowestKey s r.tenant) (allSections us) u0 = .ok u → ∃ v, exec .imageLoad s = .next v
           ∧ v.loads = s.loads ++ [(.ok, 0)] ∧ v.mem = u.mem ∧ v.stack = u.stack ∧ (v.tenantSt r.tenant).leaves = (u.tenantSt r.tenant).leaves))
     ∧ (∀ us, relocateRequest r = .ok us → basesOk s r us = false → exec .imageLoad s = .next s))

/-- R17, R22, R91, R101, R103, R135, R170, R197, R204, R211, R213, R270, R301, R366, R370, R388, R391, R393, R438, R444: the state after reset, from
any state: every context of every core is idle with zero registers, DZT set and a watchdog LIMIT of 24, every core has SP 8, no
ring, an empty engine, zero counters, `ctl.dom`, `ctl.evec` and EP 0 and MSG 1, every cluster belongs to tenant 0, the service level is 0 and
the cycle counts are 0. That the s and k registers, the events, the link stack, EP, `ctl.time` and memory are zero or empty is the
model's choice (log 3, log 4); so is that the host's memory and the agenda stand (log 19), and that every MSI-X vector is masked is
PRESUMED (log 69). The accumulators and the incarnations are zero by R169 and R197. -/
def Obligations.ResetState : Prop :=
  (∀ s : State, exec .reset s = .next { State.reset with agenda := s.agenda, hostMem := s.hostMem })
  ∧ (∀ core, let k := State.reset.core core
      k.sp = 8 ∧ k.rings = [] ∧ k.engine = [] ∧ k.gemvs = [] ∧ k.ops = [] ∧ k.mxOvf = 0 ∧ k.mxNan = 0 ∧ k.mxNar = 0 ∧ k.dom = 0 ∧ k.ep = 0
      ∧ k.evec = 0 ∧ k.evmask = true ∧ k.orph = 0 ∧ k.hflt = false ∧ k.handling = none ∧ k.journal = [] ∧ k.msgs = [] ∧ k.exch = none ∧ k.exchNext = none
      ∧ k.mem = [] ∧ k.acc = []
      ∧ ∀ n, let c := k.ctx n
        c.run = .idle ∧ (∀ r, c.getS r = 0) ∧ (∀ r, c.getV r = { bits := 0, tag := .b128 }) ∧ (∀ r, r ≠ 0 → c.getK r = false) ∧ c.flags = 0
        ∧ c.amax = 0 ∧ c.dzt = true ∧ c.wdogLimit = 24 ∧ c.wdogCount = 0 ∧ c.link = [] ∧ c.linkCap = 0 ∧ c.events = 0 ∧ c.inc = 0)
  ∧ (∀ cl, (State.reset.cluster cl).tenant = 0 ∧ (State.reset.cluster cl).slice = [])
  ∧ State.reset.svc = 0 ∧ State.reset.time = 0 ∧ (∀ d, (State.reset.die d).cycle = 0 ∧ (State.reset.die d).fenced = false
    ∧ (State.reset.die d).stretch = false)
  ∧ State.reset.saves = [] ∧ State.reset.hdm = [] ∧ State.reset.scaleOut = [] ∧ State.reset.owed = []
  ∧ (∀ i, State.reset.msixEntry i = 1#128 <<< 96)
  ∧ State.reset.memOk

/-! ## Every instruction, the step, the encoding, the invariant -/

/-- R56, R109, R218: an instruction of the opcode map that no EXCHANGE applies to and whose sources have been written does nothing
but retire, its issue counted, when its guards fail, whatever else it would do; while a source has not been written it is held; and where
EXCHANGE applies it raises EXCHANGE with that code and has no other effect. -/
def Obligations.GuardsAndExchange : Prop :=
  ∀ (i : Instr) (s : State), (encode i).isSome = true → (∀ w, i ≠ .unassignedOp w) → (∀ p, s.me.pend ≠ .arrived p ∧ s.me.pend ≠ .released p) →
    (exchangeFault i s = none → sourcesReady i s.me s.now = true → guardsPass i.header s.me = false →
      exec i s = .next (skipped i s))
    ∧ (exchangeFault i s = none → sourcesReady i s.me s.now = false → exec i s = .next (holdMe s))
    ∧ (∀ code, exchangeFault i s = some code → exec i s = .next (trapMe (countIssue s) .exchange code))

/-- R57, R102, R109: the frame of the instructions that only write registers. In a next state that is not a trap of theirs every
register but their destinations, every other control register, table and event of the context, everything else of the core, of the module and
of memory stands as before. The scalar ones leave `ctl.flags` as it was; the others only set bits of it; only `vcvt` may change
`ctl.amax`. -/
def Obligations.RegisterFrame : Prop :=
  ∀ (i : Instr) (s t : State), (scalarOnly i = true ∨ mergesFlagsOnly i = true) → exec i s = .next t →
    (∃ c e, t = trapMe (countIssue s) c e)
    ∨ (OnlyRegisters i s t ∧ (scalarOnly i = true → t.me.flags = s.me.flags) ∧ s.me.flags &&& ~~~t.me.flags = 0
        ∧ ((∀ h d a tag sb ctl, i ≠ .vcvt h d a tag sb ctl) → t.me.amax = s.me.amax))

/-- R296 to R298, R323 to R325: the frame of the loads, stores and atomics whose address is local. In every next state each byte of
memory stands as before, but for the bytes of the issuing core from the address they compute, for the ones that store; and unless
the state is a trap of theirs, every register but their destinations and every flag stands as before. -/
def Obligations.LocalAccessFrame : Prop :=
  ∀ (i : Instr) (s t : State) (a : Word) (n al : Nat) (w : Bool), accessOf i s.me = some (a, n, al, w) → isLocal a = true →
    exec i s = .next t →
    (∀ b, (w = false ∨ b < a.toNat ∨ a.toNat + n ≤ b) → memByte (t.core s.curCore).mem b = memByte (s.core s.curCore).mem b)
    ∧ (∀ c b, c ≠ s.curCore → memByte (t.core c).mem b = memByte (s.core c).mem b)
    ∧ t.mem = s.mem ∧ t.stack = s.stack ∧ t.hostMem = s.hostMem
    ∧ ((∃ c e, t = trapMe (countIssue s) c e)
      ∨ (SameRegisters i s t ∧ t.me.flags = s.me.flags ∧ t.me.amax = s.me.amax ∧ t.me.k = s.me.k ∧ t.me.link = s.me.link
          ∧ t.me.cause = s.me.cause ∧ t.me.epc = s.me.epc ∧ t.me.einfo = s.me.einfo ∧ t.me.jrnl = s.me.jrnl))

/-- R53 to R81, R247, R394: words written out from the encodings of the spec decode to the instructions they stand for: two of the spec's
own examples, byte by byte, and a word of each format from the fields' positions. -/
def Obligations.DecodeWords : Prop :=
  let word (n : Nat) : Except Nat Instr := decodeWord {} (BitVec.ofNat 128 n)
  let s (r : BitVec 6) : SReg := { r := r }
  decodeWord {} (wordOfBytes [0xC0, 0, 0, 0, 0x14, 0x2A, 0x28, 0, 0, 0, 0, 0, 0x40, 0, 0, 0]) = .ok (.fold {} (s 20) (s 21) (s 10) 2)
  ∧ decodeWord {} (wordOfBytes [0xD1, 0, 0, 0, 0, 0, 0x28, 0, 0, 0, 0, 0, 0x80, 0, 0, 0]) = .ok (.mtc {} (.reg 10 false) .evec)
  ∧ word (0x10 + 3 * 2 ^ 32 + 1 * 2 ^ 50 + 2 * 2 ^ 59) = .ok (.add {} (s 3) (.reg 1 false) (.reg 2 false))
  ∧ word (0x11 + 1 * 2 ^ 8 + 3 * 2 ^ 32 + 1 * 2 ^ 41 + 5 * 2 ^ 59) = .ok (.subImm {} (s 3) (.reg 1 false) 5)
  ∧ word (0x01 + (2 ^ 40 - 4) * 2 ^ 50) = .ok (.br {} (-4))
  ∧ word (0x60 + 3 * 2 ^ 32 + 4 * 2 ^ 41 + 5 * 2 ^ 50 + 3 * 2 ^ 59 + 2 * 2 ^ 62 + 8 * 2 ^ 67)
      = .ok (.ld {} (s 3) { base := s 4, idx := s 5, scl := 3, disp := 8 } .w)
  ∧ word 0xFF = .ok (.unassignedOp 0xFF) ∧ word (2 ^ 31) = .error 31

/-- A turn of a core whose ready context holds the line of its program counter, owes no report, is in no residual code and is not
due for WATCHDOG runs the instruction that the word of that line decodes to: the step is `exec` of it at that state, its bits in error
decoded first (R413), and ILLEGAL with the bit that the decoder gives for a word that it refuses (R70, R424). -/
def Obligations.StepRunsInstruction : Prop :=
  ∀ (s t : State) (core : CoreId) (rest : List Occurrence) (n : CtxNum) (bs : List PByte) (w : List Byte),
    s.agenda = .turn core :: rest → pickCtx { s with agenda := rest } core = some (n, t) →
    let v := settleRows { t with curCore := core, curCtx := n }
    v.me.reports = [] → v.me.resid = none → v.me.fline = some (lineOf v.me.pc, bs) → watchdogDue v.me = false →
    cleanBytes (wordIn bs v.me.pc) = (w, none) →
    (∀ i, decodeWord (decodeEnv v) (wordOfBytes w) = .ok i → (∀ x, v.me.pend ≠ .reply x) → step s = exec i v)
    ∧ (∀ b, decodeWord (decodeEnv v) (wordOfBytes w) = .error b → step s = illegalWord b v)

/-- R55 to R81: decoding and encoding agree. Every well-formed instruction of the opcode map, with every operand at every value its
encoding has, decodes from its word; and a word that decodes to an instruction of the map is the word of it, and it is well-formed. -/
def Obligations.DecodeEncode : Prop :=
  (∀ (i : Instr) (w : BitVec 128), i.wellFormed = true → encode i = some w → decodeWord {} w = .ok i)
  ∧ (∀ (i : Instr) (w : BitVec 128), decodeWord {} w = .ok i → (encode i).isSome = true → encode i = some w ∧ i.wellFormed = true)

/-- Every step keeps the three memories of the module in their canonical form: addresses strictly rising, no zero byte listed. The
form is the model's own (log 4). -/
def Obligations.MemoryStaysCanonical : Prop := ∀ s t : State, s.memOk → step s = .next t → t.memOk
end

