-- ==== Sys2Proof/Laws/Sparse.lean ====
section
/-! SUPPORT. Sparse maps: a read after a write, and the canonical form that every operation keeps. -/

namespace Sys2Proof.Machine

variable {α : Type}

@[simp] theorem sparseGet_put_same (d v : α) (m : Sparse α) (k : Nat) : sparseGet d (sparsePut m k v) k = v := by
  induction m with
  | nil => simp [sparsePut, sparseGet]
  | cons e t ih =>
    obtain ⟨a, x⟩ := e
    simp only [sparsePut]
    split_ifs with h h' <;> simp_all [sparseGet]

@[simp] theorem sparseGet_put_other (d v : α) (m : Sparse α) {k j : Nat} (h : j ≠ k) :
    sparseGet d (sparsePut m k v) j = sparseGet d m j := by
  induction m with
  | nil => simp [sparsePut, sparseGet, Ne.symm h]
  | cons e t ih =>
    obtain ⟨a, x⟩ := e
    simp only [sparsePut]
    split_ifs with h1 h2
    · subst h1; simp [sparseGet, Ne.symm h]
    · simp [sparseGet, Ne.symm h]
    · simp [sparseGet, ih]

@[simp] theorem sparsePut_put (m : Sparse α) (k : Nat) (v w : α) : sparsePut (sparsePut m k v) k w = sparsePut m k w := by
  induction m with
  | nil => simp [sparsePut]
  | cons e t ih =>
    obtain ⟨a, x⟩ := e
    simp only [sparsePut]
    split_ifs with h h' <;> simp_all [sparsePut]

@[simp] theorem sparseFind_put_same (v : α) (m : Sparse α) (k : Nat) : sparseFind (sparsePut m k v) k = some v := by
  induction m with
  | nil => simp [sparsePut, sparseFind]
  | cons e t ih =>
    obtain ⟨a, x⟩ := e
    simp only [sparsePut]
    split_ifs with h h' <;> simp_all [sparseFind]

@[simp] theorem sparseFind_put_other (v : α) (m : Sparse α) {k j : Nat} (h : j ≠ k) :
    sparseFind (sparsePut m k v) j = sparseFind m j := by
  induction m with
  | nil => simp [sparsePut, sparseFind, Ne.symm h]
  | cons e t ih =>
    obtain ⟨a, x⟩ := e
    simp only [sparsePut]
    split_ifs with h1 h2
    · subst h1; simp [sparseFind, Ne.symm h]
    · simp [sparseFind, Ne.symm h]
    · simp [sparseFind, ih]

@[simp] theorem sparseGet_erase_same (d : α) (m : Sparse α) (k : Nat) : sparseGet d (sparseErase m k) k = d := by
  induction m with
  | nil => simp [sparseErase, sparseGet]
  | cons e t ih =>
    obtain ⟨a, x⟩ := e
    simp only [sparseErase]
    split_ifs with h
    · exact ih
    · simp [sparseGet, h, ih]

@[simp] theorem sparseGet_erase_other (d : α) (m : Sparse α) {k j : Nat} (h : j ≠ k) :
    sparseGet d (sparseErase m k) j = sparseGet d m j := by
  induction m with
  | nil => simp [sparseErase]
  | cons e t ih =>
    obtain ⟨a, x⟩ := e
    simp only [sparseErase]
    split_ifs with h1
    · subst h1; simp [sparseGet, Ne.symm h, ih]
    · simp [sparseGet, ih]

@[simp] theorem sparseGet_assign_same [DecidableEq α] (d v : α) (m : Sparse α) (k : Nat) :
    sparseGet d (sparseAssign d m k v) k = v := by
  simp only [sparseAssign]; split_ifs with h <;> simp [h]

@[simp] theorem sparseGet_assign_other [DecidableEq α] (d v : α) (m : Sparse α) {k j : Nat} (h : j ≠ k) :
    sparseGet d (sparseAssign d m k v) j = sparseGet d m j := by
  simp only [sparseAssign]; split_ifs <;> simp [h]

/-- One read after one assignment. -/
theorem sparseGet_assign [DecidableEq α] (d v : α) (m : Sparse α) (k j : Nat) :
    sparseGet d (sparseAssign d m k v) j = if j = k then v else sparseGet d m j := by
  split_ifs with h
  · subst h; simp
  · simp [h]

theorem mem_sparseErase {m : Sparse α} {k : Nat} {e : Nat × α} (h : e ∈ sparseErase m k) : e ∈ m := by
  induction m with
  | nil => simp [sparseErase] at h
  | cons b t ih =>
    obtain ⟨a, x⟩ := b
    simp only [sparseErase] at h
    split_ifs at h with h1
    · exact List.mem_cons_of_mem _ (ih h)
    · rcases List.mem_cons.1 h with h2 | h2
      · simp [h2]
      · exact List.mem_cons_of_mem _ (ih h2)

theorem mem_sparsePut {m : Sparse α} {k : Nat} {v : α} {e : Nat × α} (h : e ∈ sparsePut m k v) : e = (k, v) ∨ e ∈ m := by
  induction m with
  | nil => simpa [sparsePut] using h
  | cons b t ih =>
    obtain ⟨a, x⟩ := b
    simp only [sparsePut] at h
    split_ifs at h with h1 h2
    · rcases List.mem_cons.1 h with h | h <;> simp [h]
    · rcases List.mem_cons.1 h with h | h
      · simp [h]
      · exact .inr h
    · rcases List.mem_cons.1 h with h | h
      · simp [h]
      · rcases ih h with h | h <;> simp [h]

theorem sparseErase_rises {m : Sparse α} {k : Nat} (h : m.Pairwise (fun a b => a.1 < b.1)) :
    (sparseErase m k).Pairwise (fun a b => a.1 < b.1) := by
  induction m with
  | nil => simp [sparseErase]
  | cons b t ih =>
    obtain ⟨a, x⟩ := b
    rw [List.pairwise_cons] at h
    simp only [sparseErase]
    split_ifs
    · exact ih h.2
    · exact List.pairwise_cons.2 ⟨fun e he => h.1 e (mem_sparseErase he), ih h.2⟩

theorem sparsePut_rises {m : Sparse α} {k : Nat} {v : α} (h : m.Pairwise (fun a b => a.1 < b.1)) :
    (sparsePut m k v).Pairwise (fun a b => a.1 < b.1) := by
  induction m with
  | nil => simp [sparsePut]
  | cons b t ih =>
    obtain ⟨a, x⟩ := b
    have h' := List.pairwise_cons.1 h
    simp only [sparsePut]
    split_ifs with h1 h2
    · subst h1; exact List.pairwise_cons.2 ⟨h'.1, h'.2⟩
    · refine List.pairwise_cons.2 ⟨fun e he => ?_, h⟩
      rcases List.mem_cons.1 he with he | he
      · simpa [he] using h2
      · exact lt_trans h2 (h'.1 e he)
    · refine List.pairwise_cons.2 ⟨fun e he => ?_, ih h'.2⟩
      rcases mem_sparsePut he with he | he
      · simp only [he]; omega
      · exact h'.1 e he

theorem sparseWf_iff [DecidableEq α] (d : α) (m : Sparse α) :
    sparseWf d m = true ↔ m.Pairwise (fun a b => a.1 < b.1) ∧ ∀ e ∈ m, e.2 ≠ d := by
  simp [sparseWf]

/-- Assigning keeps the canonical form. -/
theorem sparseAssign_wf [DecidableEq α] (d v : α) {m : Sparse α} (k : Nat) (h : sparseWf d m = true) :
    sparseWf d (sparseAssign d m k v) = true := by
  rw [sparseWf_iff] at *
  simp only [sparseAssign]
  split_ifs with hv
  · exact ⟨sparseErase_rises h.1, fun e he => h.2 e (mem_sparseErase he)⟩
  · refine ⟨sparsePut_rises h.1, fun e he => ?_⟩
    rcases mem_sparsePut he with he | he
    · simp [he, hv]
    · exact h.2 e he

/-- Dropping entries keeps the canonical form. -/
theorem sparseFilter_wf [DecidableEq α] (d : α) {m : Sparse α} (p : Nat × α → Bool) (h : sparseWf d m = true) :
    sparseWf d (m.filter p) = true := by
  rw [sparseWf_iff] at *
  exact ⟨h.1.filter p, fun e he => h.2 e (List.mem_filter.1 he).1⟩

@[simp] theorem sparseWf_nil [DecidableEq α] (d : α) : sparseWf d ([] : Sparse α) = true := by simp [sparseWf]

end Sys2Proof.Machine
end

