-- ==== Sys2Proof/Laws/State.lean ====
section
/-! SUPPORT. One lemma for each field and each update of the state, of a core and of a context, so that no proof unfolds a
record update; and reading a part after writing a part. -/

namespace Sys2Proof.Machine


/-! ## State.setCore -/

@[simp] theorem State.setCore_agenda (s : State) (c : CoreId) (x : Core) : (s.setCore c x).agenda = s.agenda := rfl
@[simp] theorem State.setCore_pick (s : State) (c : CoreId) (x : Core) : (s.setCore c x).pick = s.pick := rfl
@[simp] theorem State.setCore_curCore (s : State) (c : CoreId) (x : Core) : (s.setCore c x).curCore = s.curCore := rfl
@[simp] theorem State.setCore_curCtx (s : State) (c : CoreId) (x : Core) : (s.setCore c x).curCtx = s.curCtx := rfl
@[simp] theorem State.setCore_nextId (s : State) (c : CoreId) (x : Core) : (s.setCore c x).nextId = s.nextId := rfl
@[simp] theorem State.setCore_away (s : State) (c : CoreId) (x : Core) : (s.setCore c x).away = s.away := rfl
@[simp] theorem State.setCore_saves (s : State) (c : CoreId) (x : Core) : (s.setCore c x).saves = s.saves := rfl
@[simp] theorem State.setCore_owed (s : State) (c : CoreId) (x : Core) : (s.setCore c x).owed = s.owed := rfl
@[simp] theorem State.setCore_clusters (s : State) (c : CoreId) (x : Core) : (s.setCore c x).clusters = s.clusters := rfl
@[simp] theorem State.setCore_dies (s : State) (c : CoreId) (x : Core) : (s.setCore c x).dies = s.dies := rfl
@[simp] theorem State.setCore_sectors (s : State) (c : CoreId) (x : Core) : (s.setCore c x).sectors = s.sectors := rfl
@[simp] theorem State.setCore_tenants (s : State) (c : CoreId) (x : Core) : (s.setCore c x).tenants = s.tenants := rfl
@[simp] theorem State.setCore_mem (s : State) (c : CoreId) (x : Core) : (s.setCore c x).mem = s.mem := rfl
@[simp] theorem State.setCore_stack (s : State) (c : CoreId) (x : Core) : (s.setCore c x).stack = s.stack := rfl
@[simp] theorem State.setCore_cipher (s : State) (c : CoreId) (x : Core) : (s.setCore c x).cipher = s.cipher := rfl
@[simp] theorem State.setCore_dirty (s : State) (c : CoreId) (x : Core) : (s.setCore c x).dirty = s.dirty := rfl
@[simp] theorem State.setCore_hostMem (s : State) (c : CoreId) (x : Core) : (s.setCore c x).hostMem = s.hostMem := rfl
@[simp] theorem State.setCore_hostDirty (s : State) (c : CoreId) (x : Core) : (s.setCore c x).hostDirty = s.hostDirty := rfl
@[simp] theorem State.setCore_grans (s : State) (c : CoreId) (x : Core) : (s.setCore c x).grans = s.grans := rfl
@[simp] theorem State.setCore_poison (s : State) (c : CoreId) (x : Core) : (s.setCore c x).poison = s.poison := rfl
@[simp] theorem State.setCore_stackPoison (s : State) (c : CoreId) (x : Core) : (s.setCore c x).stackPoison = s.stackPoison := rfl
@[simp] theorem State.setCore_net (s : State) (c : CoreId) (x : Core) : (s.setCore c x).net = s.net := rfl
@[simp] theorem State.setCore_replies (s : State) (c : CoreId) (x : Core) : (s.setCore c x).replies = s.replies := rfl
@[simp] theorem State.setCore_time (s : State) (c : CoreId) (x : Core) : (s.setCore c x).time = s.time := rfl
@[simp] theorem State.setCore_timeFrac (s : State) (c : CoreId) (x : Core) : (s.setCore c x).timeFrac = s.timeFrac := rfl
@[simp] theorem State.setCore_svc (s : State) (c : CoreId) (x : Core) : (s.setCore c x).svc = s.svc := rfl
@[simp] theorem State.setCore_keyOwner (s : State) (c : CoreId) (x : Core) : (s.setCore c x).keyOwner = s.keyOwner := rfl
@[simp] theorem State.setCore_keys (s : State) (c : CoreId) (x : Core) : (s.setCore c x).keys = s.keys := rfl
@[simp] theorem State.setCore_kslot (s : State) (c : CoreId) (x : Core) : (s.setCore c x).kslot = s.kslot := rfl
@[simp] theorem State.setCore_kcmd (s : State) (c : CoreId) (x : Core) : (s.setCore c x).kcmd = s.kcmd := rfl
@[simp] theorem State.setCore_keyReg (s : State) (c : CoreId) (x : Core) : (s.setCore c x).keyReg = s.keyReg := rfl
@[simp] theorem State.setCore_modnum (s : State) (c : CoreId) (x : Core) : (s.setCore c x).modnum = s.modnum := rfl
@[simp] theorem State.setCore_lstat (s : State) (c : CoreId) (x : Core) : (s.setCore c x).lstat = s.lstat := rfl
@[simp] theorem State.setCore_log (s : State) (c : CoreId) (x : Core) : (s.setCore c x).log = s.log := rfl
@[simp] theorem State.setCore_logHead (s : State) (c : CoreId) (x : Core) : (s.setCore c x).logHead = s.logHead := rfl
@[simp] theorem State.setCore_logOvr (s : State) (c : CoreId) (x : Core) : (s.setCore c x).logOvr = s.logOvr := rfl
@[simp] theorem State.setCore_msix (s : State) (c : CoreId) (x : Core) : (s.setCore c x).msix = s.msix := rfl
@[simp] theorem State.setCore_msixTable (s : State) (c : CoreId) (x : Core) : (s.setCore c x).msixTable = s.msixTable := rfl
@[simp] theorem State.setCore_msixPend (s : State) (c : CoreId) (x : Core) : (s.setCore c x).msixPend = s.msixPend := rfl
@[simp] theorem State.setCore_msixOut (s : State) (c : CoreId) (x : Core) : (s.setCore c x).msixOut = s.msixOut := rfl
@[simp] theorem State.setCore_hdm (s : State) (c : CoreId) (x : Core) : (s.setCore c x).hdm = s.hdm := rfl
@[simp] theorem State.setCore_scaleOut (s : State) (c : CoreId) (x : Core) : (s.setCore c x).scaleOut = s.scaleOut := rfl
@[simp] theorem State.setCore_tagTable (s : State) (c : CoreId) (x : Core) : (s.setCore c x).tagTable = s.tagTable := rfl
@[simp] theorem State.setCore_priOff (s : State) (c : CoreId) (x : Core) : (s.setCore c x).priOff = s.priOff := rfl
@[simp] theorem State.setCore_priSent (s : State) (c : CoreId) (x : Core) : (s.setCore c x).priSent = s.priSent := rfl
@[simp] theorem State.setCore_invWait (s : State) (c : CoreId) (x : Core) : (s.setCore c x).invWait = s.invWait := rfl
@[simp] theorem State.setCore_invDone (s : State) (c : CoreId) (x : Core) : (s.setCore c x).invDone = s.invDone := rfl
@[simp] theorem State.setCore_linkUp (s : State) (c : CoreId) (x : Core) : (s.setCore c x).linkUp = s.linkUp := rfl
@[simp] theorem State.setCore_linkDownAt (s : State) (c : CoreId) (x : Core) : (s.setCore c x).linkDownAt = s.linkDownAt := rfl
@[simp] theorem State.setCore_retention (s : State) (c : CoreId) (x : Core) : (s.setCore c x).retention = s.retention := rfl
@[simp] theorem State.setCore_heldHost (s : State) (c : CoreId) (x : Core) : (s.setCore c x).heldHost = s.heldHost := rfl
@[simp] theorem State.setCore_linksDown (s : State) (c : CoreId) (x : Core) : (s.setCore c x).linksDown = s.linksDown := rfl
@[simp] theorem State.setCore_removed (s : State) (c : CoreId) (x : Core) : (s.setCore c x).removed = s.removed := rfl
@[simp] theorem State.setCore_keyLoad (s : State) (c : CoreId) (x : Core) : (s.setCore c x).keyLoad = s.keyLoad := rfl
@[simp] theorem State.setCore_spdmOut (s : State) (c : CoreId) (x : Core) : (s.setCore c x).spdmOut = s.spdmOut := rfl
@[simp] theorem State.setCore_loads (s : State) (c : CoreId) (x : Core) : (s.setCore c x).loads = s.loads := rfl
@[simp] theorem State.setCore_flrWait (s : State) (c : CoreId) (x : Core) : (s.setCore c x).flrWait = s.flrWait := rfl
@[simp] theorem State.setCore_hostErrors (s : State) (c : CoreId) (x : Core) : (s.setCore c x).hostErrors = s.hostErrors := rfl
@[simp] theorem State.setCore_banks (s : State) (c : CoreId) (x : Core) : (s.setCore c x).banks = s.banks := rfl

/-! ## State.setCtx -/

@[simp] theorem State.setCtx_agenda (s : State) (c : CoreId) (n : CtxNum) (x : Ctx) : (s.setCtx c n x).agenda = s.agenda := rfl
@[simp] theorem State.setCtx_pick (s : State) (c : CoreId) (n : CtxNum) (x : Ctx) : (s.setCtx c n x).pick = s.pick := rfl
@[simp] theorem State.setCtx_curCore (s : State) (c : CoreId) (n : CtxNum) (x : Ctx) : (s.setCtx c n x).curCore = s.curCore := rfl
@[simp] theorem State.setCtx_curCtx (s : State) (c : CoreId) (n : CtxNum) (x : Ctx) : (s.setCtx c n x).curCtx = s.curCtx := rfl
@[simp] theorem State.setCtx_nextId (s : State) (c : CoreId) (n : CtxNum) (x : Ctx) : (s.setCtx c n x).nextId = s.nextId := rfl
@[simp] theorem State.setCtx_away (s : State) (c : CoreId) (n : CtxNum) (x : Ctx) : (s.setCtx c n x).away = s.away := rfl
@[simp] theorem State.setCtx_saves (s : State) (c : CoreId) (n : CtxNum) (x : Ctx) : (s.setCtx c n x).saves = s.saves := rfl
@[simp] theorem State.setCtx_owed (s : State) (c : CoreId) (n : CtxNum) (x : Ctx) : (s.setCtx c n x).owed = s.owed := rfl
@[simp] theorem State.setCtx_clusters (s : State) (c : CoreId) (n : CtxNum) (x : Ctx) : (s.setCtx c n x).clusters = s.clusters := rfl
@[simp] theorem State.setCtx_dies (s : State) (c : CoreId) (n : CtxNum) (x : Ctx) : (s.setCtx c n x).dies = s.dies := rfl
@[simp] theorem State.setCtx_sectors (s : State) (c : CoreId) (n : CtxNum) (x : Ctx) : (s.setCtx c n x).sectors = s.sectors := rfl
@[simp] theorem State.setCtx_tenants (s : State) (c : CoreId) (n : CtxNum) (x : Ctx) : (s.setCtx c n x).tenants = s.tenants := rfl
@[simp] theorem State.setCtx_mem (s : State) (c : CoreId) (n : CtxNum) (x : Ctx) : (s.setCtx c n x).mem = s.mem := rfl
@[simp] theorem State.setCtx_stack (s : State) (c : CoreId) (n : CtxNum) (x : Ctx) : (s.setCtx c n x).stack = s.stack := rfl
@[simp] theorem State.setCtx_cipher (s : State) (c : CoreId) (n : CtxNum) (x : Ctx) : (s.setCtx c n x).cipher = s.cipher := rfl
@[simp] theorem State.setCtx_dirty (s : State) (c : CoreId) (n : CtxNum) (x : Ctx) : (s.setCtx c n x).dirty = s.dirty := rfl
@[simp] theorem State.setCtx_hostMem (s : State) (c : CoreId) (n : CtxNum) (x : Ctx) : (s.setCtx c n x).hostMem = s.hostMem := rfl
@[simp] theorem State.setCtx_hostDirty (s : State) (c : CoreId) (n : CtxNum) (x : Ctx) : (s.setCtx c n x).hostDirty = s.hostDirty := rfl
@[simp] theorem State.setCtx_grans (s : State) (c : CoreId) (n : CtxNum) (x : Ctx) : (s.setCtx c n x).grans = s.grans := rfl
@[simp] theorem State.setCtx_poison (s : State) (c : CoreId) (n : CtxNum) (x : Ctx) : (s.setCtx c n x).poison = s.poison := rfl
@[simp] theorem State.setCtx_stackPoison (s : State) (c : CoreId) (n : CtxNum) (x : Ctx) : (s.setCtx c n x).stackPoison = s.stackPoison := rfl
@[simp] theorem State.setCtx_net (s : State) (c : CoreId) (n : CtxNum) (x : Ctx) : (s.setCtx c n x).net = s.net := rfl
@[simp] theorem State.setCtx_replies (s : State) (c : CoreId) (n : CtxNum) (x : Ctx) : (s.setCtx c n x).replies = s.replies := rfl
@[simp] theorem State.setCtx_time (s : State) (c : CoreId) (n : CtxNum) (x : Ctx) : (s.setCtx c n x).time = s.time := rfl
@[simp] theorem State.setCtx_timeFrac (s : State) (c : CoreId) (n : CtxNum) (x : Ctx) : (s.setCtx c n x).timeFrac = s.timeFrac := rfl
@[simp] theorem State.setCtx_svc (s : State) (c : CoreId) (n : CtxNum) (x : Ctx) : (s.setCtx c n x).svc = s.svc := rfl
@[simp] theorem State.setCtx_keyOwner (s : State) (c : CoreId) (n : CtxNum) (x : Ctx) : (s.setCtx c n x).keyOwner = s.keyOwner := rfl
@[simp] theorem State.setCtx_keys (s : State) (c : CoreId) (n : CtxNum) (x : Ctx) : (s.setCtx c n x).keys = s.keys := rfl
@[simp] theorem State.setCtx_kslot (s : State) (c : CoreId) (n : CtxNum) (x : Ctx) : (s.setCtx c n x).kslot = s.kslot := rfl
@[simp] theorem State.setCtx_kcmd (s : State) (c : CoreId) (n : CtxNum) (x : Ctx) : (s.setCtx c n x).kcmd = s.kcmd := rfl
@[simp] theorem State.setCtx_keyReg (s : State) (c : CoreId) (n : CtxNum) (x : Ctx) : (s.setCtx c n x).keyReg = s.keyReg := rfl
@[simp] theorem State.setCtx_modnum (s : State) (c : CoreId) (n : CtxNum) (x : Ctx) : (s.setCtx c n x).modnum = s.modnum := rfl
@[simp] theorem State.setCtx_lstat (s : State) (c : CoreId) (n : CtxNum) (x : Ctx) : (s.setCtx c n x).lstat = s.lstat := rfl
@[simp] theorem State.setCtx_log (s : State) (c : CoreId) (n : CtxNum) (x : Ctx) : (s.setCtx c n x).log = s.log := rfl
@[simp] theorem State.setCtx_logHead (s : State) (c : CoreId) (n : CtxNum) (x : Ctx) : (s.setCtx c n x).logHead = s.logHead := rfl
@[simp] theorem State.setCtx_logOvr (s : State) (c : CoreId) (n : CtxNum) (x : Ctx) : (s.setCtx c n x).logOvr = s.logOvr := rfl
@[simp] theorem State.setCtx_msix (s : State) (c : CoreId) (n : CtxNum) (x : Ctx) : (s.setCtx c n x).msix = s.msix := rfl
@[simp] theorem State.setCtx_msixTable (s : State) (c : CoreId) (n : CtxNum) (x : Ctx) : (s.setCtx c n x).msixTable = s.msixTable := rfl
@[simp] theorem State.setCtx_msixPend (s : State) (c : CoreId) (n : CtxNum) (x : Ctx) : (s.setCtx c n x).msixPend = s.msixPend := rfl
@[simp] theorem State.setCtx_msixOut (s : State) (c : CoreId) (n : CtxNum) (x : Ctx) : (s.setCtx c n x).msixOut = s.msixOut := rfl
@[simp] theorem State.setCtx_hdm (s : State) (c : CoreId) (n : CtxNum) (x : Ctx) : (s.setCtx c n x).hdm = s.hdm := rfl
@[simp] theorem State.setCtx_scaleOut (s : State) (c : CoreId) (n : CtxNum) (x : Ctx) : (s.setCtx c n x).scaleOut = s.scaleOut := rfl
@[simp] theorem State.setCtx_tagTable (s : State) (c : CoreId) (n : CtxNum) (x : Ctx) : (s.setCtx c n x).tagTable = s.tagTable := rfl
@[simp] theorem State.setCtx_priOff (s : State) (c : CoreId) (n : CtxNum) (x : Ctx) : (s.setCtx c n x).priOff = s.priOff := rfl
@[simp] theorem State.setCtx_priSent (s : State) (c : CoreId) (n : CtxNum) (x : Ctx) : (s.setCtx c n x).priSent = s.priSent := rfl
@[simp] theorem State.setCtx_invWait (s : State) (c : CoreId) (n : CtxNum) (x : Ctx) : (s.setCtx c n x).invWait = s.invWait := rfl
@[simp] theorem State.setCtx_invDone (s : State) (c : CoreId) (n : CtxNum) (x : Ctx) : (s.setCtx c n x).invDone = s.invDone := rfl
@[simp] theorem State.setCtx_linkUp (s : State) (c : CoreId) (n : CtxNum) (x : Ctx) : (s.setCtx c n x).linkUp = s.linkUp := rfl
@[simp] theorem State.setCtx_linkDownAt (s : State) (c : CoreId) (n : CtxNum) (x : Ctx) : (s.setCtx c n x).linkDownAt = s.linkDownAt := rfl
@[simp] theorem State.setCtx_retention (s : State) (c : CoreId) (n : CtxNum) (x : Ctx) : (s.setCtx c n x).retention = s.retention := rfl
@[simp] theorem State.setCtx_heldHost (s : State) (c : CoreId) (n : CtxNum) (x : Ctx) : (s.setCtx c n x).heldHost = s.heldHost := rfl
@[simp] theorem State.setCtx_linksDown (s : State) (c : CoreId) (n : CtxNum) (x : Ctx) : (s.setCtx c n x).linksDown = s.linksDown := rfl
@[simp] theorem State.setCtx_removed (s : State) (c : CoreId) (n : CtxNum) (x : Ctx) : (s.setCtx c n x).removed = s.removed := rfl
@[simp] theorem State.setCtx_keyLoad (s : State) (c : CoreId) (n : CtxNum) (x : Ctx) : (s.setCtx c n x).keyLoad = s.keyLoad := rfl
@[simp] theorem State.setCtx_spdmOut (s : State) (c : CoreId) (n : CtxNum) (x : Ctx) : (s.setCtx c n x).spdmOut = s.spdmOut := rfl
@[simp] theorem State.setCtx_loads (s : State) (c : CoreId) (n : CtxNum) (x : Ctx) : (s.setCtx c n x).loads = s.loads := rfl
@[simp] theorem State.setCtx_flrWait (s : State) (c : CoreId) (n : CtxNum) (x : Ctx) : (s.setCtx c n x).flrWait = s.flrWait := rfl
@[simp] theorem State.setCtx_hostErrors (s : State) (c : CoreId) (n : CtxNum) (x : Ctx) : (s.setCtx c n x).hostErrors = s.hostErrors := rfl
@[simp] theorem State.setCtx_banks (s : State) (c : CoreId) (n : CtxNum) (x : Ctx) : (s.setCtx c n x).banks = s.banks := rfl

/-! ## State.setMyCore -/

@[simp] theorem State.setMyCore_agenda (s : State) (x : Core) : (s.setMyCore x).agenda = s.agenda := rfl
@[simp] theorem State.setMyCore_pick (s : State) (x : Core) : (s.setMyCore x).pick = s.pick := rfl
@[simp] theorem State.setMyCore_curCore (s : State) (x : Core) : (s.setMyCore x).curCore = s.curCore := rfl
@[simp] theorem State.setMyCore_curCtx (s : State) (x : Core) : (s.setMyCore x).curCtx = s.curCtx := rfl
@[simp] theorem State.setMyCore_nextId (s : State) (x : Core) : (s.setMyCore x).nextId = s.nextId := rfl
@[simp] theorem State.setMyCore_away (s : State) (x : Core) : (s.setMyCore x).away = s.away := rfl
@[simp] theorem State.setMyCore_saves (s : State) (x : Core) : (s.setMyCore x).saves = s.saves := rfl
@[simp] theorem State.setMyCore_owed (s : State) (x : Core) : (s.setMyCore x).owed = s.owed := rfl
@[simp] theorem State.setMyCore_clusters (s : State) (x : Core) : (s.setMyCore x).clusters = s.clusters := rfl
@[simp] theorem State.setMyCore_dies (s : State) (x : Core) : (s.setMyCore x).dies = s.dies := rfl
@[simp] theorem State.setMyCore_sectors (s : State) (x : Core) : (s.setMyCore x).sectors = s.sectors := rfl
@[simp] theorem State.setMyCore_tenants (s : State) (x : Core) : (s.setMyCore x).tenants = s.tenants := rfl
@[simp] theorem State.setMyCore_mem (s : State) (x : Core) : (s.setMyCore x).mem = s.mem := rfl
@[simp] theorem State.setMyCore_stack (s : State) (x : Core) : (s.setMyCore x).stack = s.stack := rfl
@[simp] theorem State.setMyCore_cipher (s : State) (x : Core) : (s.setMyCore x).cipher = s.cipher := rfl
@[simp] theorem State.setMyCore_dirty (s : State) (x : Core) : (s.setMyCore x).dirty = s.dirty := rfl
@[simp] theorem State.setMyCore_hostMem (s : State) (x : Core) : (s.setMyCore x).hostMem = s.hostMem := rfl
@[simp] theorem State.setMyCore_hostDirty (s : State) (x : Core) : (s.setMyCore x).hostDirty = s.hostDirty := rfl
@[simp] theorem State.setMyCore_grans (s : State) (x : Core) : (s.setMyCore x).grans = s.grans := rfl
@[simp] theorem State.setMyCore_poison (s : State) (x : Core) : (s.setMyCore x).poison = s.poison := rfl
@[simp] theorem State.setMyCore_stackPoison (s : State) (x : Core) : (s.setMyCore x).stackPoison = s.stackPoison := rfl
@[simp] theorem State.setMyCore_net (s : State) (x : Core) : (s.setMyCore x).net = s.net := rfl
@[simp] theorem State.setMyCore_replies (s : State) (x : Core) : (s.setMyCore x).replies = s.replies := rfl
@[simp] theorem State.setMyCore_time (s : State) (x : Core) : (s.setMyCore x).time = s.time := rfl
@[simp] theorem State.setMyCore_timeFrac (s : State) (x : Core) : (s.setMyCore x).timeFrac = s.timeFrac := rfl
@[simp] theorem State.setMyCore_svc (s : State) (x : Core) : (s.setMyCore x).svc = s.svc := rfl
@[simp] theorem State.setMyCore_keyOwner (s : State) (x : Core) : (s.setMyCore x).keyOwner = s.keyOwner := rfl
@[simp] theorem State.setMyCore_keys (s : State) (x : Core) : (s.setMyCore x).keys = s.keys := rfl
@[simp] theorem State.setMyCore_kslot (s : State) (x : Core) : (s.setMyCore x).kslot = s.kslot := rfl
@[simp] theorem State.setMyCore_kcmd (s : State) (x : Core) : (s.setMyCore x).kcmd = s.kcmd := rfl
@[simp] theorem State.setMyCore_keyReg (s : State) (x : Core) : (s.setMyCore x).keyReg = s.keyReg := rfl
@[simp] theorem State.setMyCore_modnum (s : State) (x : Core) : (s.setMyCore x).modnum = s.modnum := rfl
@[simp] theorem State.setMyCore_lstat (s : State) (x : Core) : (s.setMyCore x).lstat = s.lstat := rfl
@[simp] theorem State.setMyCore_log (s : State) (x : Core) : (s.setMyCore x).log = s.log := rfl
@[simp] theorem State.setMyCore_logHead (s : State) (x : Core) : (s.setMyCore x).logHead = s.logHead := rfl
@[simp] theorem State.setMyCore_logOvr (s : State) (x : Core) : (s.setMyCore x).logOvr = s.logOvr := rfl
@[simp] theorem State.setMyCore_msix (s : State) (x : Core) : (s.setMyCore x).msix = s.msix := rfl
@[simp] theorem State.setMyCore_msixTable (s : State) (x : Core) : (s.setMyCore x).msixTable = s.msixTable := rfl
@[simp] theorem State.setMyCore_msixPend (s : State) (x : Core) : (s.setMyCore x).msixPend = s.msixPend := rfl
@[simp] theorem State.setMyCore_msixOut (s : State) (x : Core) : (s.setMyCore x).msixOut = s.msixOut := rfl
@[simp] theorem State.setMyCore_hdm (s : State) (x : Core) : (s.setMyCore x).hdm = s.hdm := rfl
@[simp] theorem State.setMyCore_scaleOut (s : State) (x : Core) : (s.setMyCore x).scaleOut = s.scaleOut := rfl
@[simp] theorem State.setMyCore_tagTable (s : State) (x : Core) : (s.setMyCore x).tagTable = s.tagTable := rfl
@[simp] theorem State.setMyCore_priOff (s : State) (x : Core) : (s.setMyCore x).priOff = s.priOff := rfl
@[simp] theorem State.setMyCore_priSent (s : State) (x : Core) : (s.setMyCore x).priSent = s.priSent := rfl
@[simp] theorem State.setMyCore_invWait (s : State) (x : Core) : (s.setMyCore x).invWait = s.invWait := rfl
@[simp] theorem State.setMyCore_invDone (s : State) (x : Core) : (s.setMyCore x).invDone = s.invDone := rfl
@[simp] theorem State.setMyCore_linkUp (s : State) (x : Core) : (s.setMyCore x).linkUp = s.linkUp := rfl
@[simp] theorem State.setMyCore_linkDownAt (s : State) (x : Core) : (s.setMyCore x).linkDownAt = s.linkDownAt := rfl
@[simp] theorem State.setMyCore_retention (s : State) (x : Core) : (s.setMyCore x).retention = s.retention := rfl
@[simp] theorem State.setMyCore_heldHost (s : State) (x : Core) : (s.setMyCore x).heldHost = s.heldHost := rfl
@[simp] theorem State.setMyCore_linksDown (s : State) (x : Core) : (s.setMyCore x).linksDown = s.linksDown := rfl
@[simp] theorem State.setMyCore_removed (s : State) (x : Core) : (s.setMyCore x).removed = s.removed := rfl
@[simp] theorem State.setMyCore_keyLoad (s : State) (x : Core) : (s.setMyCore x).keyLoad = s.keyLoad := rfl
@[simp] theorem State.setMyCore_spdmOut (s : State) (x : Core) : (s.setMyCore x).spdmOut = s.spdmOut := rfl
@[simp] theorem State.setMyCore_loads (s : State) (x : Core) : (s.setMyCore x).loads = s.loads := rfl
@[simp] theorem State.setMyCore_flrWait (s : State) (x : Core) : (s.setMyCore x).flrWait = s.flrWait := rfl
@[simp] theorem State.setMyCore_hostErrors (s : State) (x : Core) : (s.setMyCore x).hostErrors = s.hostErrors := rfl
@[simp] theorem State.setMyCore_banks (s : State) (x : Core) : (s.setMyCore x).banks = s.banks := rfl

/-! ## State.setMe -/

@[simp] theorem State.setMe_agenda (s : State) (x : Ctx) : (s.setMe x).agenda = s.agenda := rfl
@[simp] theorem State.setMe_pick (s : State) (x : Ctx) : (s.setMe x).pick = s.pick := rfl
@[simp] theorem State.setMe_curCore (s : State) (x : Ctx) : (s.setMe x).curCore = s.curCore := rfl
@[simp] theorem State.setMe_curCtx (s : State) (x : Ctx) : (s.setMe x).curCtx = s.curCtx := rfl
@[simp] theorem State.setMe_nextId (s : State) (x : Ctx) : (s.setMe x).nextId = s.nextId := rfl
@[simp] theorem State.setMe_away (s : State) (x : Ctx) : (s.setMe x).away = s.away := rfl
@[simp] theorem State.setMe_saves (s : State) (x : Ctx) : (s.setMe x).saves = s.saves := rfl
@[simp] theorem State.setMe_owed (s : State) (x : Ctx) : (s.setMe x).owed = s.owed := rfl
@[simp] theorem State.setMe_clusters (s : State) (x : Ctx) : (s.setMe x).clusters = s.clusters := rfl
@[simp] theorem State.setMe_dies (s : State) (x : Ctx) : (s.setMe x).dies = s.dies := rfl
@[simp] theorem State.setMe_sectors (s : State) (x : Ctx) : (s.setMe x).sectors = s.sectors := rfl
@[simp] theorem State.setMe_tenants (s : State) (x : Ctx) : (s.setMe x).tenants = s.tenants := rfl
@[simp] theorem State.setMe_mem (s : State) (x : Ctx) : (s.setMe x).mem = s.mem := rfl
@[simp] theorem State.setMe_stack (s : State) (x : Ctx) : (s.setMe x).stack = s.stack := rfl
@[simp] theorem State.setMe_cipher (s : State) (x : Ctx) : (s.setMe x).cipher = s.cipher := rfl
@[simp] theorem State.setMe_dirty (s : State) (x : Ctx) : (s.setMe x).dirty = s.dirty := rfl
@[simp] theorem State.setMe_hostMem (s : State) (x : Ctx) : (s.setMe x).hostMem = s.hostMem := rfl
@[simp] theorem State.setMe_hostDirty (s : State) (x : Ctx) : (s.setMe x).hostDirty = s.hostDirty := rfl
@[simp] theorem State.setMe_grans (s : State) (x : Ctx) : (s.setMe x).grans = s.grans := rfl
@[simp] theorem State.setMe_poison (s : State) (x : Ctx) : (s.setMe x).poison = s.poison := rfl
@[simp] theorem State.setMe_stackPoison (s : State) (x : Ctx) : (s.setMe x).stackPoison = s.stackPoison := rfl
@[simp] theorem State.setMe_net (s : State) (x : Ctx) : (s.setMe x).net = s.net := rfl
@[simp] theorem State.setMe_replies (s : State) (x : Ctx) : (s.setMe x).replies = s.replies := rfl
@[simp] theorem State.setMe_time (s : State) (x : Ctx) : (s.setMe x).time = s.time := rfl
@[simp] theorem State.setMe_timeFrac (s : State) (x : Ctx) : (s.setMe x).timeFrac = s.timeFrac := rfl
@[simp] theorem State.setMe_svc (s : State) (x : Ctx) : (s.setMe x).svc = s.svc := rfl
@[simp] theorem State.setMe_keyOwner (s : State) (x : Ctx) : (s.setMe x).keyOwner = s.keyOwner := rfl
@[simp] theorem State.setMe_keys (s : State) (x : Ctx) : (s.setMe x).keys = s.keys := rfl
@[simp] theorem State.setMe_kslot (s : State) (x : Ctx) : (s.setMe x).kslot = s.kslot := rfl
@[simp] theorem State.setMe_kcmd (s : State) (x : Ctx) : (s.setMe x).kcmd = s.kcmd := rfl
@[simp] theorem State.setMe_keyReg (s : State) (x : Ctx) : (s.setMe x).keyReg = s.keyReg := rfl
@[simp] theorem State.setMe_modnum (s : State) (x : Ctx) : (s.setMe x).modnum = s.modnum := rfl
@[simp] theorem State.setMe_lstat (s : State) (x : Ctx) : (s.setMe x).lstat = s.lstat := rfl
@[simp] theorem State.setMe_log (s : State) (x : Ctx) : (s.setMe x).log = s.log := rfl
@[simp] theorem State.setMe_logHead (s : State) (x : Ctx) : (s.setMe x).logHead = s.logHead := rfl
@[simp] theorem State.setMe_logOvr (s : State) (x : Ctx) : (s.setMe x).logOvr = s.logOvr := rfl
@[simp] theorem State.setMe_msix (s : State) (x : Ctx) : (s.setMe x).msix = s.msix := rfl
@[simp] theorem State.setMe_msixTable (s : State) (x : Ctx) : (s.setMe x).msixTable = s.msixTable := rfl
@[simp] theorem State.setMe_msixPend (s : State) (x : Ctx) : (s.setMe x).msixPend = s.msixPend := rfl
@[simp] theorem State.setMe_msixOut (s : State) (x : Ctx) : (s.setMe x).msixOut = s.msixOut := rfl
@[simp] theorem State.setMe_hdm (s : State) (x : Ctx) : (s.setMe x).hdm = s.hdm := rfl
@[simp] theorem State.setMe_scaleOut (s : State) (x : Ctx) : (s.setMe x).scaleOut = s.scaleOut := rfl
@[simp] theorem State.setMe_tagTable (s : State) (x : Ctx) : (s.setMe x).tagTable = s.tagTable := rfl
@[simp] theorem State.setMe_priOff (s : State) (x : Ctx) : (s.setMe x).priOff = s.priOff := rfl
@[simp] theorem State.setMe_priSent (s : State) (x : Ctx) : (s.setMe x).priSent = s.priSent := rfl
@[simp] theorem State.setMe_invWait (s : State) (x : Ctx) : (s.setMe x).invWait = s.invWait := rfl
@[simp] theorem State.setMe_invDone (s : State) (x : Ctx) : (s.setMe x).invDone = s.invDone := rfl
@[simp] theorem State.setMe_linkUp (s : State) (x : Ctx) : (s.setMe x).linkUp = s.linkUp := rfl
@[simp] theorem State.setMe_linkDownAt (s : State) (x : Ctx) : (s.setMe x).linkDownAt = s.linkDownAt := rfl
@[simp] theorem State.setMe_retention (s : State) (x : Ctx) : (s.setMe x).retention = s.retention := rfl
@[simp] theorem State.setMe_heldHost (s : State) (x : Ctx) : (s.setMe x).heldHost = s.heldHost := rfl
@[simp] theorem State.setMe_linksDown (s : State) (x : Ctx) : (s.setMe x).linksDown = s.linksDown := rfl
@[simp] theorem State.setMe_removed (s : State) (x : Ctx) : (s.setMe x).removed = s.removed := rfl
@[simp] theorem State.setMe_keyLoad (s : State) (x : Ctx) : (s.setMe x).keyLoad = s.keyLoad := rfl
@[simp] theorem State.setMe_spdmOut (s : State) (x : Ctx) : (s.setMe x).spdmOut = s.spdmOut := rfl
@[simp] theorem State.setMe_loads (s : State) (x : Ctx) : (s.setMe x).loads = s.loads := rfl
@[simp] theorem State.setMe_flrWait (s : State) (x : Ctx) : (s.setMe x).flrWait = s.flrWait := rfl
@[simp] theorem State.setMe_hostErrors (s : State) (x : Ctx) : (s.setMe x).hostErrors = s.hostErrors := rfl
@[simp] theorem State.setMe_banks (s : State) (x : Ctx) : (s.setMe x).banks = s.banks := rfl

/-! ## State.setCluster -/

@[simp] theorem State.setCluster_agenda (s : State) (c : ClusterId) (x : Cluster) : (s.setCluster c x).agenda = s.agenda := rfl
@[simp] theorem State.setCluster_pick (s : State) (c : ClusterId) (x : Cluster) : (s.setCluster c x).pick = s.pick := rfl
@[simp] theorem State.setCluster_curCore (s : State) (c : ClusterId) (x : Cluster) : (s.setCluster c x).curCore = s.curCore := rfl
@[simp] theorem State.setCluster_curCtx (s : State) (c : ClusterId) (x : Cluster) : (s.setCluster c x).curCtx = s.curCtx := rfl
@[simp] theorem State.setCluster_nextId (s : State) (c : ClusterId) (x : Cluster) : (s.setCluster c x).nextId = s.nextId := rfl
@[simp] theorem State.setCluster_cores (s : State) (c : ClusterId) (x : Cluster) : (s.setCluster c x).cores = s.cores := rfl
@[simp] theorem State.setCluster_away (s : State) (c : ClusterId) (x : Cluster) : (s.setCluster c x).away = s.away := rfl
@[simp] theorem State.setCluster_saves (s : State) (c : ClusterId) (x : Cluster) : (s.setCluster c x).saves = s.saves := rfl
@[simp] theorem State.setCluster_owed (s : State) (c : ClusterId) (x : Cluster) : (s.setCluster c x).owed = s.owed := rfl
@[simp] theorem State.setCluster_dies (s : State) (c : ClusterId) (x : Cluster) : (s.setCluster c x).dies = s.dies := rfl
@[simp] theorem State.setCluster_sectors (s : State) (c : ClusterId) (x : Cluster) : (s.setCluster c x).sectors = s.sectors := rfl
@[simp] theorem State.setCluster_tenants (s : State) (c : ClusterId) (x : Cluster) : (s.setCluster c x).tenants = s.tenants := rfl
@[simp] theorem State.setCluster_mem (s : State) (c : ClusterId) (x : Cluster) : (s.setCluster c x).mem = s.mem := rfl
@[simp] theorem State.setCluster_stack (s : State) (c : ClusterId) (x : Cluster) : (s.setCluster c x).stack = s.stack := rfl
@[simp] theorem State.setCluster_cipher (s : State) (c : ClusterId) (x : Cluster) : (s.setCluster c x).cipher = s.cipher := rfl
@[simp] theorem State.setCluster_dirty (s : State) (c : ClusterId) (x : Cluster) : (s.setCluster c x).dirty = s.dirty := rfl
@[simp] theorem State.setCluster_hostMem (s : State) (c : ClusterId) (x : Cluster) : (s.setCluster c x).hostMem = s.hostMem := rfl
@[simp] theorem State.setCluster_hostDirty (s : State) (c : ClusterId) (x : Cluster) : (s.setCluster c x).hostDirty = s.hostDirty := rfl
@[simp] theorem State.setCluster_grans (s : State) (c : ClusterId) (x : Cluster) : (s.setCluster c x).grans = s.grans := rfl
@[simp] theorem State.setCluster_poison (s : State) (c : ClusterId) (x : Cluster) : (s.setCluster c x).poison = s.poison := rfl
@[simp] theorem State.setCluster_stackPoison (s : State) (c : ClusterId) (x : Cluster) : (s.setCluster c x).stackPoison = s.stackPoison := rfl
@[simp] theorem State.setCluster_net (s : State) (c : ClusterId) (x : Cluster) : (s.setCluster c x).net = s.net := rfl
@[simp] theorem State.setCluster_replies (s : State) (c : ClusterId) (x : Cluster) : (s.setCluster c x).replies = s.replies := rfl
@[simp] theorem State.setCluster_time (s : State) (c : ClusterId) (x : Cluster) : (s.setCluster c x).time = s.time := rfl
@[simp] theorem State.setCluster_timeFrac (s : State) (c : ClusterId) (x : Cluster) : (s.setCluster c x).timeFrac = s.timeFrac := rfl
@[simp] theorem State.setCluster_svc (s : State) (c : ClusterId) (x : Cluster) : (s.setCluster c x).svc = s.svc := rfl
@[simp] theorem State.setCluster_keyOwner (s : State) (c : ClusterId) (x : Cluster) : (s.setCluster c x).keyOwner = s.keyOwner := rfl
@[simp] theorem State.setCluster_keys (s : State) (c : ClusterId) (x : Cluster) : (s.setCluster c x).keys = s.keys := rfl
@[simp] theorem State.setCluster_kslot (s : State) (c : ClusterId) (x : Cluster) : (s.setCluster c x).kslot = s.kslot := rfl
@[simp] theorem State.setCluster_kcmd (s : State) (c : ClusterId) (x : Cluster) : (s.setCluster c x).kcmd = s.kcmd := rfl
@[simp] theorem State.setCluster_keyReg (s : State) (c : ClusterId) (x : Cluster) : (s.setCluster c x).keyReg = s.keyReg := rfl
@[simp] theorem State.setCluster_modnum (s : State) (c : ClusterId) (x : Cluster) : (s.setCluster c x).modnum = s.modnum := rfl
@[simp] theorem State.setCluster_lstat (s : State) (c : ClusterId) (x : Cluster) : (s.setCluster c x).lstat = s.lstat := rfl
@[simp] theorem State.setCluster_log (s : State) (c : ClusterId) (x : Cluster) : (s.setCluster c x).log = s.log := rfl
@[simp] theorem State.setCluster_logHead (s : State) (c : ClusterId) (x : Cluster) : (s.setCluster c x).logHead = s.logHead := rfl
@[simp] theorem State.setCluster_logOvr (s : State) (c : ClusterId) (x : Cluster) : (s.setCluster c x).logOvr = s.logOvr := rfl
@[simp] theorem State.setCluster_msix (s : State) (c : ClusterId) (x : Cluster) : (s.setCluster c x).msix = s.msix := rfl
@[simp] theorem State.setCluster_msixTable (s : State) (c : ClusterId) (x : Cluster) : (s.setCluster c x).msixTable = s.msixTable := rfl
@[simp] theorem State.setCluster_msixPend (s : State) (c : ClusterId) (x : Cluster) : (s.setCluster c x).msixPend = s.msixPend := rfl
@[simp] theorem State.setCluster_msixOut (s : State) (c : ClusterId) (x : Cluster) : (s.setCluster c x).msixOut = s.msixOut := rfl
@[simp] theorem State.setCluster_hdm (s : State) (c : ClusterId) (x : Cluster) : (s.setCluster c x).hdm = s.hdm := rfl
@[simp] theorem State.setCluster_scaleOut (s : State) (c : ClusterId) (x : Cluster) : (s.setCluster c x).scaleOut = s.scaleOut := rfl
@[simp] theorem State.setCluster_tagTable (s : State) (c : ClusterId) (x : Cluster) : (s.setCluster c x).tagTable = s.tagTable := rfl
@[simp] theorem State.setCluster_priOff (s : State) (c : ClusterId) (x : Cluster) : (s.setCluster c x).priOff = s.priOff := rfl
@[simp] theorem State.setCluster_priSent (s : State) (c : ClusterId) (x : Cluster) : (s.setCluster c x).priSent = s.priSent := rfl
@[simp] theorem State.setCluster_invWait (s : State) (c : ClusterId) (x : Cluster) : (s.setCluster c x).invWait = s.invWait := rfl
@[simp] theorem State.setCluster_invDone (s : State) (c : ClusterId) (x : Cluster) : (s.setCluster c x).invDone = s.invDone := rfl
@[simp] theorem State.setCluster_linkUp (s : State) (c : ClusterId) (x : Cluster) : (s.setCluster c x).linkUp = s.linkUp := rfl
@[simp] theorem State.setCluster_linkDownAt (s : State) (c : ClusterId) (x : Cluster) : (s.setCluster c x).linkDownAt = s.linkDownAt := rfl
@[simp] theorem State.setCluster_retention (s : State) (c : ClusterId) (x : Cluster) : (s.setCluster c x).retention = s.retention := rfl
@[simp] theorem State.setCluster_heldHost (s : State) (c : ClusterId) (x : Cluster) : (s.setCluster c x).heldHost = s.heldHost := rfl
@[simp] theorem State.setCluster_linksDown (s : State) (c : ClusterId) (x : Cluster) : (s.setCluster c x).linksDown = s.linksDown := rfl
@[simp] theorem State.setCluster_removed (s : State) (c : ClusterId) (x : Cluster) : (s.setCluster c x).removed = s.removed := rfl
@[simp] theorem State.setCluster_keyLoad (s : State) (c : ClusterId) (x : Cluster) : (s.setCluster c x).keyLoad = s.keyLoad := rfl
@[simp] theorem State.setCluster_spdmOut (s : State) (c : ClusterId) (x : Cluster) : (s.setCluster c x).spdmOut = s.spdmOut := rfl
@[simp] theorem State.setCluster_loads (s : State) (c : ClusterId) (x : Cluster) : (s.setCluster c x).loads = s.loads := rfl
@[simp] theorem State.setCluster_flrWait (s : State) (c : ClusterId) (x : Cluster) : (s.setCluster c x).flrWait = s.flrWait := rfl
@[simp] theorem State.setCluster_hostErrors (s : State) (c : ClusterId) (x : Cluster) : (s.setCluster c x).hostErrors = s.hostErrors := rfl
@[simp] theorem State.setCluster_banks (s : State) (c : ClusterId) (x : Cluster) : (s.setCluster c x).banks = s.banks := rfl

/-! ## State.setDie -/

@[simp] theorem State.setDie_agenda (s : State) (d : Die) (x : DieState) : (s.setDie d x).agenda = s.agenda := rfl
@[simp] theorem State.setDie_pick (s : State) (d : Die) (x : DieState) : (s.setDie d x).pick = s.pick := rfl
@[simp] theorem State.setDie_curCore (s : State) (d : Die) (x : DieState) : (s.setDie d x).curCore = s.curCore := rfl
@[simp] theorem State.setDie_curCtx (s : State) (d : Die) (x : DieState) : (s.setDie d x).curCtx = s.curCtx := rfl
@[simp] theorem State.setDie_nextId (s : State) (d : Die) (x : DieState) : (s.setDie d x).nextId = s.nextId := rfl
@[simp] theorem State.setDie_cores (s : State) (d : Die) (x : DieState) : (s.setDie d x).cores = s.cores := rfl
@[simp] theorem State.setDie_away (s : State) (d : Die) (x : DieState) : (s.setDie d x).away = s.away := rfl
@[simp] theorem State.setDie_saves (s : State) (d : Die) (x : DieState) : (s.setDie d x).saves = s.saves := rfl
@[simp] theorem State.setDie_owed (s : State) (d : Die) (x : DieState) : (s.setDie d x).owed = s.owed := rfl
@[simp] theorem State.setDie_clusters (s : State) (d : Die) (x : DieState) : (s.setDie d x).clusters = s.clusters := rfl
@[simp] theorem State.setDie_sectors (s : State) (d : Die) (x : DieState) : (s.setDie d x).sectors = s.sectors := rfl
@[simp] theorem State.setDie_tenants (s : State) (d : Die) (x : DieState) : (s.setDie d x).tenants = s.tenants := rfl
@[simp] theorem State.setDie_mem (s : State) (d : Die) (x : DieState) : (s.setDie d x).mem = s.mem := rfl
@[simp] theorem State.setDie_stack (s : State) (d : Die) (x : DieState) : (s.setDie d x).stack = s.stack := rfl
@[simp] theorem State.setDie_cipher (s : State) (d : Die) (x : DieState) : (s.setDie d x).cipher = s.cipher := rfl
@[simp] theorem State.setDie_dirty (s : State) (d : Die) (x : DieState) : (s.setDie d x).dirty = s.dirty := rfl
@[simp] theorem State.setDie_hostMem (s : State) (d : Die) (x : DieState) : (s.setDie d x).hostMem = s.hostMem := rfl
@[simp] theorem State.setDie_hostDirty (s : State) (d : Die) (x : DieState) : (s.setDie d x).hostDirty = s.hostDirty := rfl
@[simp] theorem State.setDie_grans (s : State) (d : Die) (x : DieState) : (s.setDie d x).grans = s.grans := rfl
@[simp] theorem State.setDie_poison (s : State) (d : Die) (x : DieState) : (s.setDie d x).poison = s.poison := rfl
@[simp] theorem State.setDie_stackPoison (s : State) (d : Die) (x : DieState) : (s.setDie d x).stackPoison = s.stackPoison := rfl
@[simp] theorem State.setDie_net (s : State) (d : Die) (x : DieState) : (s.setDie d x).net = s.net := rfl
@[simp] theorem State.setDie_replies (s : State) (d : Die) (x : DieState) : (s.setDie d x).replies = s.replies := rfl
@[simp] theorem State.setDie_time (s : State) (d : Die) (x : DieState) : (s.setDie d x).time = s.time := rfl
@[simp] theorem State.setDie_timeFrac (s : State) (d : Die) (x : DieState) : (s.setDie d x).timeFrac = s.timeFrac := rfl
@[simp] theorem State.setDie_svc (s : State) (d : Die) (x : DieState) : (s.setDie d x).svc = s.svc := rfl
@[simp] theorem State.setDie_keyOwner (s : State) (d : Die) (x : DieState) : (s.setDie d x).keyOwner = s.keyOwner := rfl
@[simp] theorem State.setDie_keys (s : State) (d : Die) (x : DieState) : (s.setDie d x).keys = s.keys := rfl
@[simp] theorem State.setDie_kslot (s : State) (d : Die) (x : DieState) : (s.setDie d x).kslot = s.kslot := rfl
@[simp] theorem State.setDie_kcmd (s : State) (d : Die) (x : DieState) : (s.setDie d x).kcmd = s.kcmd := rfl
@[simp] theorem State.setDie_keyReg (s : State) (d : Die) (x : DieState) : (s.setDie d x).keyReg = s.keyReg := rfl
@[simp] theorem State.setDie_modnum (s : State) (d : Die) (x : DieState) : (s.setDie d x).modnum = s.modnum := rfl
@[simp] theorem State.setDie_lstat (s : State) (d : Die) (x : DieState) : (s.setDie d x).lstat = s.lstat := rfl
@[simp] theorem State.setDie_log (s : State) (d : Die) (x : DieState) : (s.setDie d x).log = s.log := rfl
@[simp] theorem State.setDie_logHead (s : State) (d : Die) (x : DieState) : (s.setDie d x).logHead = s.logHead := rfl
@[simp] theorem State.setDie_logOvr (s : State) (d : Die) (x : DieState) : (s.setDie d x).logOvr = s.logOvr := rfl
@[simp] theorem State.setDie_msix (s : State) (d : Die) (x : DieState) : (s.setDie d x).msix = s.msix := rfl
@[simp] theorem State.setDie_msixTable (s : State) (d : Die) (x : DieState) : (s.setDie d x).msixTable = s.msixTable := rfl
@[simp] theorem State.setDie_msixPend (s : State) (d : Die) (x : DieState) : (s.setDie d x).msixPend = s.msixPend := rfl
@[simp] theorem State.setDie_msixOut (s : State) (d : Die) (x : DieState) : (s.setDie d x).msixOut = s.msixOut := rfl
@[simp] theorem State.setDie_hdm (s : State) (d : Die) (x : DieState) : (s.setDie d x).hdm = s.hdm := rfl
@[simp] theorem State.setDie_scaleOut (s : State) (d : Die) (x : DieState) : (s.setDie d x).scaleOut = s.scaleOut := rfl
@[simp] theorem State.setDie_tagTable (s : State) (d : Die) (x : DieState) : (s.setDie d x).tagTable = s.tagTable := rfl
@[simp] theorem State.setDie_priOff (s : State) (d : Die) (x : DieState) : (s.setDie d x).priOff = s.priOff := rfl
@[simp] theorem State.setDie_priSent (s : State) (d : Die) (x : DieState) : (s.setDie d x).priSent = s.priSent := rfl
@[simp] theorem State.setDie_invWait (s : State) (d : Die) (x : DieState) : (s.setDie d x).invWait = s.invWait := rfl
@[simp] theorem State.setDie_invDone (s : State) (d : Die) (x : DieState) : (s.setDie d x).invDone = s.invDone := rfl
@[simp] theorem State.setDie_linkUp (s : State) (d : Die) (x : DieState) : (s.setDie d x).linkUp = s.linkUp := rfl
@[simp] theorem State.setDie_linkDownAt (s : State) (d : Die) (x : DieState) : (s.setDie d x).linkDownAt = s.linkDownAt := rfl
@[simp] theorem State.setDie_retention (s : State) (d : Die) (x : DieState) : (s.setDie d x).retention = s.retention := rfl
@[simp] theorem State.setDie_heldHost (s : State) (d : Die) (x : DieState) : (s.setDie d x).heldHost = s.heldHost := rfl
@[simp] theorem State.setDie_linksDown (s : State) (d : Die) (x : DieState) : (s.setDie d x).linksDown = s.linksDown := rfl
@[simp] theorem State.setDie_removed (s : State) (d : Die) (x : DieState) : (s.setDie d x).removed = s.removed := rfl
@[simp] theorem State.setDie_keyLoad (s : State) (d : Die) (x : DieState) : (s.setDie d x).keyLoad = s.keyLoad := rfl
@[simp] theorem State.setDie_spdmOut (s : State) (d : Die) (x : DieState) : (s.setDie d x).spdmOut = s.spdmOut := rfl
@[simp] theorem State.setDie_loads (s : State) (d : Die) (x : DieState) : (s.setDie d x).loads = s.loads := rfl
@[simp] theorem State.setDie_flrWait (s : State) (d : Die) (x : DieState) : (s.setDie d x).flrWait = s.flrWait := rfl
@[simp] theorem State.setDie_hostErrors (s : State) (d : Die) (x : DieState) : (s.setDie d x).hostErrors = s.hostErrors := rfl
@[simp] theorem State.setDie_banks (s : State) (d : Die) (x : DieState) : (s.setDie d x).banks = s.banks := rfl

/-! ## State.setSector -/

@[simp] theorem State.setSector_agenda (s : State) (d : Die) (x : Sector) : (s.setSector d x).agenda = s.agenda := rfl
@[simp] theorem State.setSector_pick (s : State) (d : Die) (x : Sector) : (s.setSector d x).pick = s.pick := rfl
@[simp] theorem State.setSector_curCore (s : State) (d : Die) (x : Sector) : (s.setSector d x).curCore = s.curCore := rfl
@[simp] theorem State.setSector_curCtx (s : State) (d : Die) (x : Sector) : (s.setSector d x).curCtx = s.curCtx := rfl
@[simp] theorem State.setSector_nextId (s : State) (d : Die) (x : Sector) : (s.setSector d x).nextId = s.nextId := rfl
@[simp] theorem State.setSector_cores (s : State) (d : Die) (x : Sector) : (s.setSector d x).cores = s.cores := rfl
@[simp] theorem State.setSector_away (s : State) (d : Die) (x : Sector) : (s.setSector d x).away = s.away := rfl
@[simp] theorem State.setSector_saves (s : State) (d : Die) (x : Sector) : (s.setSector d x).saves = s.saves := rfl
@[simp] theorem State.setSector_owed (s : State) (d : Die) (x : Sector) : (s.setSector d x).owed = s.owed := rfl
@[simp] theorem State.setSector_clusters (s : State) (d : Die) (x : Sector) : (s.setSector d x).clusters = s.clusters := rfl
@[simp] theorem State.setSector_dies (s : State) (d : Die) (x : Sector) : (s.setSector d x).dies = s.dies := rfl
@[simp] theorem State.setSector_tenants (s : State) (d : Die) (x : Sector) : (s.setSector d x).tenants = s.tenants := rfl
@[simp] theorem State.setSector_mem (s : State) (d : Die) (x : Sector) : (s.setSector d x).mem = s.mem := rfl
@[simp] theorem State.setSector_stack (s : State) (d : Die) (x : Sector) : (s.setSector d x).stack = s.stack := rfl
@[simp] theorem State.setSector_cipher (s : State) (d : Die) (x : Sector) : (s.setSector d x).cipher = s.cipher := rfl
@[simp] theorem State.setSector_dirty (s : State) (d : Die) (x : Sector) : (s.setSector d x).dirty = s.dirty := rfl
@[simp] theorem State.setSector_hostMem (s : State) (d : Die) (x : Sector) : (s.setSector d x).hostMem = s.hostMem := rfl
@[simp] theorem State.setSector_hostDirty (s : State) (d : Die) (x : Sector) : (s.setSector d x).hostDirty = s.hostDirty := rfl
@[simp] theorem State.setSector_grans (s : State) (d : Die) (x : Sector) : (s.setSector d x).grans = s.grans := rfl
@[simp] theorem State.setSector_poison (s : State) (d : Die) (x : Sector) : (s.setSector d x).poison = s.poison := rfl
@[simp] theorem State.setSector_stackPoison (s : State) (d : Die) (x : Sector) : (s.setSector d x).stackPoison = s.stackPoison := rfl
@[simp] theorem State.setSector_net (s : State) (d : Die) (x : Sector) : (s.setSector d x).net = s.net := rfl
@[simp] theorem State.setSector_replies (s : State) (d : Die) (x : Sector) : (s.setSector d x).replies = s.replies := rfl
@[simp] theorem State.setSector_time (s : State) (d : Die) (x : Sector) : (s.setSector d x).time = s.time := rfl
@[simp] theorem State.setSector_timeFrac (s : State) (d : Die) (x : Sector) : (s.setSector d x).timeFrac = s.timeFrac := rfl
@[simp] theorem State.setSector_svc (s : State) (d : Die) (x : Sector) : (s.setSector d x).svc = s.svc := rfl
@[simp] theorem State.setSector_keyOwner (s : State) (d : Die) (x : Sector) : (s.setSector d x).keyOwner = s.keyOwner := rfl
@[simp] theorem State.setSector_keys (s : State) (d : Die) (x : Sector) : (s.setSector d x).keys = s.keys := rfl
@[simp] theorem State.setSector_kslot (s : State) (d : Die) (x : Sector) : (s.setSector d x).kslot = s.kslot := rfl
@[simp] theorem State.setSector_kcmd (s : State) (d : Die) (x : Sector) : (s.setSector d x).kcmd = s.kcmd := rfl
@[simp] theorem State.setSector_keyReg (s : State) (d : Die) (x : Sector) : (s.setSector d x).keyReg = s.keyReg := rfl
@[simp] theorem State.setSector_modnum (s : State) (d : Die) (x : Sector) : (s.setSector d x).modnum = s.modnum := rfl
@[simp] theorem State.setSector_lstat (s : State) (d : Die) (x : Sector) : (s.setSector d x).lstat = s.lstat := rfl
@[simp] theorem State.setSector_log (s : State) (d : Die) (x : Sector) : (s.setSector d x).log = s.log := rfl
@[simp] theorem State.setSector_logHead (s : State) (d : Die) (x : Sector) : (s.setSector d x).logHead = s.logHead := rfl
@[simp] theorem State.setSector_logOvr (s : State) (d : Die) (x : Sector) : (s.setSector d x).logOvr = s.logOvr := rfl
@[simp] theorem State.setSector_msix (s : State) (d : Die) (x : Sector) : (s.setSector d x).msix = s.msix := rfl
@[simp] theorem State.setSector_msixTable (s : State) (d : Die) (x : Sector) : (s.setSector d x).msixTable = s.msixTable := rfl
@[simp] theorem State.setSector_msixPend (s : State) (d : Die) (x : Sector) : (s.setSector d x).msixPend = s.msixPend := rfl
@[simp] theorem State.setSector_msixOut (s : State) (d : Die) (x : Sector) : (s.setSector d x).msixOut = s.msixOut := rfl
@[simp] theorem State.setSector_hdm (s : State) (d : Die) (x : Sector) : (s.setSector d x).hdm = s.hdm := rfl
@[simp] theorem State.setSector_scaleOut (s : State) (d : Die) (x : Sector) : (s.setSector d x).scaleOut = s.scaleOut := rfl
@[simp] theorem State.setSector_tagTable (s : State) (d : Die) (x : Sector) : (s.setSector d x).tagTable = s.tagTable := rfl
@[simp] theorem State.setSector_priOff (s : State) (d : Die) (x : Sector) : (s.setSector d x).priOff = s.priOff := rfl
@[simp] theorem State.setSector_priSent (s : State) (d : Die) (x : Sector) : (s.setSector d x).priSent = s.priSent := rfl
@[simp] theorem State.setSector_invWait (s : State) (d : Die) (x : Sector) : (s.setSector d x).invWait = s.invWait := rfl
@[simp] theorem State.setSector_invDone (s : State) (d : Die) (x : Sector) : (s.setSector d x).invDone = s.invDone := rfl
@[simp] theorem State.setSector_linkUp (s : State) (d : Die) (x : Sector) : (s.setSector d x).linkUp = s.linkUp := rfl
@[simp] theorem State.setSector_linkDownAt (s : State) (d : Die) (x : Sector) : (s.setSector d x).linkDownAt = s.linkDownAt := rfl
@[simp] theorem State.setSector_retention (s : State) (d : Die) (x : Sector) : (s.setSector d x).retention = s.retention := rfl
@[simp] theorem State.setSector_heldHost (s : State) (d : Die) (x : Sector) : (s.setSector d x).heldHost = s.heldHost := rfl
@[simp] theorem State.setSector_linksDown (s : State) (d : Die) (x : Sector) : (s.setSector d x).linksDown = s.linksDown := rfl
@[simp] theorem State.setSector_removed (s : State) (d : Die) (x : Sector) : (s.setSector d x).removed = s.removed := rfl
@[simp] theorem State.setSector_keyLoad (s : State) (d : Die) (x : Sector) : (s.setSector d x).keyLoad = s.keyLoad := rfl
@[simp] theorem State.setSector_spdmOut (s : State) (d : Die) (x : Sector) : (s.setSector d x).spdmOut = s.spdmOut := rfl
@[simp] theorem State.setSector_loads (s : State) (d : Die) (x : Sector) : (s.setSector d x).loads = s.loads := rfl
@[simp] theorem State.setSector_flrWait (s : State) (d : Die) (x : Sector) : (s.setSector d x).flrWait = s.flrWait := rfl
@[simp] theorem State.setSector_hostErrors (s : State) (d : Die) (x : Sector) : (s.setSector d x).hostErrors = s.hostErrors := rfl
@[simp] theorem State.setSector_banks (s : State) (d : Die) (x : Sector) : (s.setSector d x).banks = s.banks := rfl

/-! ## State.setTenantSt -/

@[simp] theorem State.setTenantSt_agenda (s : State) (t : Tenant) (x : TenantState) : (s.setTenantSt t x).agenda = s.agenda := rfl
@[simp] theorem State.setTenantSt_pick (s : State) (t : Tenant) (x : TenantState) : (s.setTenantSt t x).pick = s.pick := rfl
@[simp] theorem State.setTenantSt_curCore (s : State) (t : Tenant) (x : TenantState) : (s.setTenantSt t x).curCore = s.curCore := rfl
@[simp] theorem State.setTenantSt_curCtx (s : State) (t : Tenant) (x : TenantState) : (s.setTenantSt t x).curCtx = s.curCtx := rfl
@[simp] theorem State.setTenantSt_nextId (s : State) (t : Tenant) (x : TenantState) : (s.setTenantSt t x).nextId = s.nextId := rfl
@[simp] theorem State.setTenantSt_cores (s : State) (t : Tenant) (x : TenantState) : (s.setTenantSt t x).cores = s.cores := rfl
@[simp] theorem State.setTenantSt_away (s : State) (t : Tenant) (x : TenantState) : (s.setTenantSt t x).away = s.away := rfl
@[simp] theorem State.setTenantSt_saves (s : State) (t : Tenant) (x : TenantState) : (s.setTenantSt t x).saves = s.saves := rfl
@[simp] theorem State.setTenantSt_owed (s : State) (t : Tenant) (x : TenantState) : (s.setTenantSt t x).owed = s.owed := rfl
@[simp] theorem State.setTenantSt_clusters (s : State) (t : Tenant) (x : TenantState) : (s.setTenantSt t x).clusters = s.clusters := rfl
@[simp] theorem State.setTenantSt_dies (s : State) (t : Tenant) (x : TenantState) : (s.setTenantSt t x).dies = s.dies := rfl
@[simp] theorem State.setTenantSt_sectors (s : State) (t : Tenant) (x : TenantState) : (s.setTenantSt t x).sectors = s.sectors := rfl
@[simp] theorem State.setTenantSt_mem (s : State) (t : Tenant) (x : TenantState) : (s.setTenantSt t x).mem = s.mem := rfl
@[simp] theorem State.setTenantSt_stack (s : State) (t : Tenant) (x : TenantState) : (s.setTenantSt t x).stack = s.stack := rfl
@[simp] theorem State.setTenantSt_cipher (s : State) (t : Tenant) (x : TenantState) : (s.setTenantSt t x).cipher = s.cipher := rfl
@[simp] theorem State.setTenantSt_dirty (s : State) (t : Tenant) (x : TenantState) : (s.setTenantSt t x).dirty = s.dirty := rfl
@[simp] theorem State.setTenantSt_hostMem (s : State) (t : Tenant) (x : TenantState) : (s.setTenantSt t x).hostMem = s.hostMem := rfl
@[simp] theorem State.setTenantSt_hostDirty (s : State) (t : Tenant) (x : TenantState) : (s.setTenantSt t x).hostDirty = s.hostDirty := rfl
@[simp] theorem State.setTenantSt_grans (s : State) (t : Tenant) (x : TenantState) : (s.setTenantSt t x).grans = s.grans := rfl
@[simp] theorem State.setTenantSt_poison (s : State) (t : Tenant) (x : TenantState) : (s.setTenantSt t x).poison = s.poison := rfl
@[simp] theorem State.setTenantSt_stackPoison (s : State) (t : Tenant) (x : TenantState) : (s.setTenantSt t x).stackPoison = s.stackPoison := rfl
@[simp] theorem State.setTenantSt_net (s : State) (t : Tenant) (x : TenantState) : (s.setTenantSt t x).net = s.net := rfl
@[simp] theorem State.setTenantSt_replies (s : State) (t : Tenant) (x : TenantState) : (s.setTenantSt t x).replies = s.replies := rfl
@[simp] theorem State.setTenantSt_time (s : State) (t : Tenant) (x : TenantState) : (s.setTenantSt t x).time = s.time := rfl
@[simp] theorem State.setTenantSt_timeFrac (s : State) (t : Tenant) (x : TenantState) : (s.setTenantSt t x).timeFrac = s.timeFrac := rfl
@[simp] theorem State.setTenantSt_svc (s : State) (t : Tenant) (x : TenantState) : (s.setTenantSt t x).svc = s.svc := rfl
@[simp] theorem State.setTenantSt_keyOwner (s : State) (t : Tenant) (x : TenantState) : (s.setTenantSt t x).keyOwner = s.keyOwner := rfl
@[simp] theorem State.setTenantSt_keys (s : State) (t : Tenant) (x : TenantState) : (s.setTenantSt t x).keys = s.keys := rfl
@[simp] theorem State.setTenantSt_kslot (s : State) (t : Tenant) (x : TenantState) : (s.setTenantSt t x).kslot = s.kslot := rfl
@[simp] theorem State.setTenantSt_kcmd (s : State) (t : Tenant) (x : TenantState) : (s.setTenantSt t x).kcmd = s.kcmd := rfl
@[simp] theorem State.setTenantSt_keyReg (s : State) (t : Tenant) (x : TenantState) : (s.setTenantSt t x).keyReg = s.keyReg := rfl
@[simp] theorem State.setTenantSt_modnum (s : State) (t : Tenant) (x : TenantState) : (s.setTenantSt t x).modnum = s.modnum := rfl
@[simp] theorem State.setTenantSt_lstat (s : State) (t : Tenant) (x : TenantState) : (s.setTenantSt t x).lstat = s.lstat := rfl
@[simp] theorem State.setTenantSt_log (s : State) (t : Tenant) (x : TenantState) : (s.setTenantSt t x).log = s.log := rfl
@[simp] theorem State.setTenantSt_logHead (s : State) (t : Tenant) (x : TenantState) : (s.setTenantSt t x).logHead = s.logHead := rfl
@[simp] theorem State.setTenantSt_logOvr (s : State) (t : Tenant) (x : TenantState) : (s.setTenantSt t x).logOvr = s.logOvr := rfl
@[simp] theorem State.setTenantSt_msix (s : State) (t : Tenant) (x : TenantState) : (s.setTenantSt t x).msix = s.msix := rfl
@[simp] theorem State.setTenantSt_msixTable (s : State) (t : Tenant) (x : TenantState) : (s.setTenantSt t x).msixTable = s.msixTable := rfl
@[simp] theorem State.setTenantSt_msixPend (s : State) (t : Tenant) (x : TenantState) : (s.setTenantSt t x).msixPend = s.msixPend := rfl
@[simp] theorem State.setTenantSt_msixOut (s : State) (t : Tenant) (x : TenantState) : (s.setTenantSt t x).msixOut = s.msixOut := rfl
@[simp] theorem State.setTenantSt_hdm (s : State) (t : Tenant) (x : TenantState) : (s.setTenantSt t x).hdm = s.hdm := rfl
@[simp] theorem State.setTenantSt_scaleOut (s : State) (t : Tenant) (x : TenantState) : (s.setTenantSt t x).scaleOut = s.scaleOut := rfl
@[simp] theorem State.setTenantSt_tagTable (s : State) (t : Tenant) (x : TenantState) : (s.setTenantSt t x).tagTable = s.tagTable := rfl
@[simp] theorem State.setTenantSt_priOff (s : State) (t : Tenant) (x : TenantState) : (s.setTenantSt t x).priOff = s.priOff := rfl
@[simp] theorem State.setTenantSt_priSent (s : State) (t : Tenant) (x : TenantState) : (s.setTenantSt t x).priSent = s.priSent := rfl
@[simp] theorem State.setTenantSt_invWait (s : State) (t : Tenant) (x : TenantState) : (s.setTenantSt t x).invWait = s.invWait := rfl
@[simp] theorem State.setTenantSt_invDone (s : State) (t : Tenant) (x : TenantState) : (s.setTenantSt t x).invDone = s.invDone := rfl
@[simp] theorem State.setTenantSt_linkUp (s : State) (t : Tenant) (x : TenantState) : (s.setTenantSt t x).linkUp = s.linkUp := rfl
@[simp] theorem State.setTenantSt_linkDownAt (s : State) (t : Tenant) (x : TenantState) : (s.setTenantSt t x).linkDownAt = s.linkDownAt := rfl
@[simp] theorem State.setTenantSt_retention (s : State) (t : Tenant) (x : TenantState) : (s.setTenantSt t x).retention = s.retention := rfl
@[simp] theorem State.setTenantSt_heldHost (s : State) (t : Tenant) (x : TenantState) : (s.setTenantSt t x).heldHost = s.heldHost := rfl
@[simp] theorem State.setTenantSt_linksDown (s : State) (t : Tenant) (x : TenantState) : (s.setTenantSt t x).linksDown = s.linksDown := rfl
@[simp] theorem State.setTenantSt_removed (s : State) (t : Tenant) (x : TenantState) : (s.setTenantSt t x).removed = s.removed := rfl
@[simp] theorem State.setTenantSt_keyLoad (s : State) (t : Tenant) (x : TenantState) : (s.setTenantSt t x).keyLoad = s.keyLoad := rfl
@[simp] theorem State.setTenantSt_spdmOut (s : State) (t : Tenant) (x : TenantState) : (s.setTenantSt t x).spdmOut = s.spdmOut := rfl
@[simp] theorem State.setTenantSt_loads (s : State) (t : Tenant) (x : TenantState) : (s.setTenantSt t x).loads = s.loads := rfl
@[simp] theorem State.setTenantSt_flrWait (s : State) (t : Tenant) (x : TenantState) : (s.setTenantSt t x).flrWait = s.flrWait := rfl
@[simp] theorem State.setTenantSt_hostErrors (s : State) (t : Tenant) (x : TenantState) : (s.setTenantSt t x).hostErrors = s.hostErrors := rfl
@[simp] theorem State.setTenantSt_banks (s : State) (t : Tenant) (x : TenantState) : (s.setTenantSt t x).banks = s.banks := rfl

/-! ## Core.setCtx -/

@[simp] theorem Core.setCtx_mem (k : Core) (n : CtxNum) (x : Ctx) : (k.setCtx n x).mem = k.mem := rfl
@[simp] theorem Core.setCtx_poison (k : Core) (n : CtxNum) (x : Ctx) : (k.setCtx n x).poison = k.poison := rfl
@[simp] theorem Core.setCtx_acc (k : Core) (n : CtxNum) (x : Ctx) : (k.setCtx n x).acc = k.acc := rfl
@[simp] theorem Core.setCtx_accPoison (k : Core) (n : CtxNum) (x : Ctx) : (k.setCtx n x).accPoison = k.accPoison := rfl
@[simp] theorem Core.setCtx_mxOvf (k : Core) (n : CtxNum) (x : Ctx) : (k.setCtx n x).mxOvf = k.mxOvf := rfl
@[simp] theorem Core.setCtx_mxNan (k : Core) (n : CtxNum) (x : Ctx) : (k.setCtx n x).mxNan = k.mxNan := rfl
@[simp] theorem Core.setCtx_mxNar (k : Core) (n : CtxNum) (x : Ctx) : (k.setCtx n x).mxNar = k.mxNar := rfl
@[simp] theorem Core.setCtx_engine (k : Core) (n : CtxNum) (x : Ctx) : (k.setCtx n x).engine = k.engine := rfl
@[simp] theorem Core.setCtx_engWait (k : Core) (n : CtxNum) (x : Ctx) : (k.setCtx n x).engWait = k.engWait := rfl
@[simp] theorem Core.setCtx_foldPort (k : Core) (n : CtxNum) (x : Ctx) : (k.setCtx n x).foldPort = k.foldPort := rfl
@[simp] theorem Core.setCtx_foldWait (k : Core) (n : CtxNum) (x : Ctx) : (k.setCtx n x).foldWait = k.foldWait := rfl
@[simp] theorem Core.setCtx_gemvs (k : Core) (n : CtxNum) (x : Ctx) : (k.setCtx n x).gemvs = k.gemvs := rfl
@[simp] theorem Core.setCtx_ops (k : Core) (n : CtxNum) (x : Ctx) : (k.setCtx n x).ops = k.ops := rfl
@[simp] theorem Core.setCtx_copyWait (k : Core) (n : CtxNum) (x : Ctx) : (k.setCtx n x).copyWait = k.copyWait := rfl
@[simp] theorem Core.setCtx_rings (k : Core) (n : CtxNum) (x : Ctx) : (k.setCtx n x).rings = k.rings := rfl
@[simp] theorem Core.setCtx_cuts (k : Core) (n : CtxNum) (x : Ctx) : (k.setCtx n x).cuts = k.cuts := rfl
@[simp] theorem Core.setCtx_sp (k : Core) (n : CtxNum) (x : Ctx) : (k.setCtx n x).sp = k.sp := rfl
@[simp] theorem Core.setCtx_dom (k : Core) (n : CtxNum) (x : Ctx) : (k.setCtx n x).dom = k.dom := rfl
@[simp] theorem Core.setCtx_ep (k : Core) (n : CtxNum) (x : Ctx) : (k.setCtx n x).ep = k.ep := rfl
@[simp] theorem Core.setCtx_arrival (k : Core) (n : CtxNum) (x : Ctx) : (k.setCtx n x).arrival = k.arrival := rfl
@[simp] theorem Core.setCtx_barX (k : Core) (n : CtxNum) (x : Ctx) : (k.setCtx n x).barX = k.barX := rfl
@[simp] theorem Core.setCtx_leaving (k : Core) (n : CtxNum) (x : Ctx) : (k.setCtx n x).leaving = k.leaving := rfl
@[simp] theorem Core.setCtx_exch (k : Core) (n : CtxNum) (x : Ctx) : (k.setCtx n x).exch = k.exch := rfl
@[simp] theorem Core.setCtx_exchLeft (k : Core) (n : CtxNum) (x : Ctx) : (k.setCtx n x).exchLeft = k.exchLeft := rfl
@[simp] theorem Core.setCtx_exchNext (k : Core) (n : CtxNum) (x : Ctx) : (k.setCtx n x).exchNext = k.exchNext := rfl
@[simp] theorem Core.setCtx_evec (k : Core) (n : CtxNum) (x : Ctx) : (k.setCtx n x).evec = k.evec := rfl
@[simp] theorem Core.setCtx_evmask (k : Core) (n : CtxNum) (x : Ctx) : (k.setCtx n x).evmask = k.evmask := rfl
@[simp] theorem Core.setCtx_orph (k : Core) (n : CtxNum) (x : Ctx) : (k.setCtx n x).orph = k.orph := rfl
@[simp] theorem Core.setCtx_hflt (k : Core) (n : CtxNum) (x : Ctx) : (k.setCtx n x).hflt = k.hflt := rfl
@[simp] theorem Core.setCtx_handling (k : Core) (n : CtxNum) (x : Ctx) : (k.setCtx n x).handling = k.handling := rfl
@[simp] theorem Core.setCtx_hqueue (k : Core) (n : CtxNum) (x : Ctx) : (k.setCtx n x).hqueue = k.hqueue := rfl
@[simp] theorem Core.setCtx_msgs (k : Core) (n : CtxNum) (x : Ctx) : (k.setCtx n x).msgs = k.msgs := rfl
@[simp] theorem Core.setCtx_journal (k : Core) (n : CtxNum) (x : Ctx) : (k.setCtx n x).journal = k.journal := rfl
@[simp] theorem Core.setCtx_stage (k : Core) (n : CtxNum) (x : Ctx) : (k.setCtx n x).stage = k.stage := rfl
@[simp] theorem Core.setCtx_asked (k : Core) (n : CtxNum) (x : Ctx) : (k.setCtx n x).asked = k.asked := rfl
@[simp] theorem Core.setCtx_tlb (k : Core) (n : CtxNum) (x : Ctx) : (k.setCtx n x).tlb = k.tlb := rfl
@[simp] theorem Core.setCtx_hostTlb (k : Core) (n : CtxNum) (x : Ctx) : (k.setCtx n x).hostTlb = k.hostTlb := rfl
@[simp] theorem Core.setCtx_ibuf (k : Core) (n : CtxNum) (x : Ctx) : (k.setCtx n x).ibuf = k.ibuf := rfl
@[simp] theorem Core.setCtx_l1 (k : Core) (n : CtxNum) (x : Ctx) : (k.setCtx n x).l1 = k.l1 := rfl
@[simp] theorem Core.setCtx_syncs (k : Core) (n : CtxNum) (x : Ctx) : (k.setCtx n x).syncs = k.syncs := rfl
@[simp] theorem Core.setCtx_lastCtx (k : Core) (n : CtxNum) (x : Ctx) : (k.setCtx n x).lastCtx = k.lastCtx := rfl
@[simp] theorem Core.setCtx_issued (k : Core) (n : CtxNum) (x : Ctx) : (k.setCtx n x).issued = k.issued := rfl
@[simp] theorem Core.setCtx_tried (k : Core) (n : CtxNum) (x : Ctx) : (k.setCtx n x).tried = k.tried := rfl
@[simp] theorem Core.setCtx_passed (k : Core) (n : CtxNum) (x : Ctx) : (k.setCtx n x).passed = k.passed := rfl
@[simp] theorem Core.setCtx_spent (k : Core) (n : CtxNum) (x : Ctx) : (k.setCtx n x).spent = k.spent := rfl
@[simp] theorem Core.setCtx_barFirst (k : Core) (n : CtxNum) (x : Ctx) : (k.setCtx n x).barFirst = k.barFirst := rfl
@[simp] theorem Core.setCtx_msgHeard (k : Core) (n : CtxNum) (x : Ctx) : (k.setCtx n x).msgHeard = k.msgHeard := rfl

/-! ## Core.setRing -/

@[simp] theorem Core.setRing_ctxs (k : Core) (r : BitVec 4) (x : Ring) : (k.setRing r x).ctxs = k.ctxs := rfl
@[simp] theorem Core.setRing_mem (k : Core) (r : BitVec 4) (x : Ring) : (k.setRing r x).mem = k.mem := rfl
@[simp] theorem Core.setRing_poison (k : Core) (r : BitVec 4) (x : Ring) : (k.setRing r x).poison = k.poison := rfl
@[simp] theorem Core.setRing_acc (k : Core) (r : BitVec 4) (x : Ring) : (k.setRing r x).acc = k.acc := rfl
@[simp] theorem Core.setRing_accPoison (k : Core) (r : BitVec 4) (x : Ring) : (k.setRing r x).accPoison = k.accPoison := rfl
@[simp] theorem Core.setRing_mxOvf (k : Core) (r : BitVec 4) (x : Ring) : (k.setRing r x).mxOvf = k.mxOvf := rfl
@[simp] theorem Core.setRing_mxNan (k : Core) (r : BitVec 4) (x : Ring) : (k.setRing r x).mxNan = k.mxNan := rfl
@[simp] theorem Core.setRing_mxNar (k : Core) (r : BitVec 4) (x : Ring) : (k.setRing r x).mxNar = k.mxNar := rfl
@[simp] theorem Core.setRing_engine (k : Core) (r : BitVec 4) (x : Ring) : (k.setRing r x).engine = k.engine := rfl
@[simp] theorem Core.setRing_engWait (k : Core) (r : BitVec 4) (x : Ring) : (k.setRing r x).engWait = k.engWait := rfl
@[simp] theorem Core.setRing_foldPort (k : Core) (r : BitVec 4) (x : Ring) : (k.setRing r x).foldPort = k.foldPort := rfl
@[simp] theorem Core.setRing_foldWait (k : Core) (r : BitVec 4) (x : Ring) : (k.setRing r x).foldWait = k.foldWait := rfl
@[simp] theorem Core.setRing_gemvs (k : Core) (r : BitVec 4) (x : Ring) : (k.setRing r x).gemvs = k.gemvs := rfl
@[simp] theorem Core.setRing_ops (k : Core) (r : BitVec 4) (x : Ring) : (k.setRing r x).ops = k.ops := rfl
@[simp] theorem Core.setRing_copyWait (k : Core) (r : BitVec 4) (x : Ring) : (k.setRing r x).copyWait = k.copyWait := rfl
@[simp] theorem Core.setRing_cuts (k : Core) (r : BitVec 4) (x : Ring) : (k.setRing r x).cuts = k.cuts := rfl
@[simp] theorem Core.setRing_sp (k : Core) (r : BitVec 4) (x : Ring) : (k.setRing r x).sp = k.sp := rfl
@[simp] theorem Core.setRing_dom (k : Core) (r : BitVec 4) (x : Ring) : (k.setRing r x).dom = k.dom := rfl
@[simp] theorem Core.setRing_ep (k : Core) (r : BitVec 4) (x : Ring) : (k.setRing r x).ep = k.ep := rfl
@[simp] theorem Core.setRing_arrival (k : Core) (r : BitVec 4) (x : Ring) : (k.setRing r x).arrival = k.arrival := rfl
@[simp] theorem Core.setRing_barX (k : Core) (r : BitVec 4) (x : Ring) : (k.setRing r x).barX = k.barX := rfl
@[simp] theorem Core.setRing_leaving (k : Core) (r : BitVec 4) (x : Ring) : (k.setRing r x).leaving = k.leaving := rfl
@[simp] theorem Core.setRing_exch (k : Core) (r : BitVec 4) (x : Ring) : (k.setRing r x).exch = k.exch := rfl
@[simp] theorem Core.setRing_exchLeft (k : Core) (r : BitVec 4) (x : Ring) : (k.setRing r x).exchLeft = k.exchLeft := rfl
@[simp] theorem Core.setRing_exchNext (k : Core) (r : BitVec 4) (x : Ring) : (k.setRing r x).exchNext = k.exchNext := rfl
@[simp] theorem Core.setRing_evec (k : Core) (r : BitVec 4) (x : Ring) : (k.setRing r x).evec = k.evec := rfl
@[simp] theorem Core.setRing_evmask (k : Core) (r : BitVec 4) (x : Ring) : (k.setRing r x).evmask = k.evmask := rfl
@[simp] theorem Core.setRing_orph (k : Core) (r : BitVec 4) (x : Ring) : (k.setRing r x).orph = k.orph := rfl
@[simp] theorem Core.setRing_hflt (k : Core) (r : BitVec 4) (x : Ring) : (k.setRing r x).hflt = k.hflt := rfl
@[simp] theorem Core.setRing_handling (k : Core) (r : BitVec 4) (x : Ring) : (k.setRing r x).handling = k.handling := rfl
@[simp] theorem Core.setRing_hqueue (k : Core) (r : BitVec 4) (x : Ring) : (k.setRing r x).hqueue = k.hqueue := rfl
@[simp] theorem Core.setRing_msgs (k : Core) (r : BitVec 4) (x : Ring) : (k.setRing r x).msgs = k.msgs := rfl
@[simp] theorem Core.setRing_journal (k : Core) (r : BitVec 4) (x : Ring) : (k.setRing r x).journal = k.journal := rfl
@[simp] theorem Core.setRing_stage (k : Core) (r : BitVec 4) (x : Ring) : (k.setRing r x).stage = k.stage := rfl
@[simp] theorem Core.setRing_asked (k : Core) (r : BitVec 4) (x : Ring) : (k.setRing r x).asked = k.asked := rfl
@[simp] theorem Core.setRing_tlb (k : Core) (r : BitVec 4) (x : Ring) : (k.setRing r x).tlb = k.tlb := rfl
@[simp] theorem Core.setRing_hostTlb (k : Core) (r : BitVec 4) (x : Ring) : (k.setRing r x).hostTlb = k.hostTlb := rfl
@[simp] theorem Core.setRing_ibuf (k : Core) (r : BitVec 4) (x : Ring) : (k.setRing r x).ibuf = k.ibuf := rfl
@[simp] theorem Core.setRing_l1 (k : Core) (r : BitVec 4) (x : Ring) : (k.setRing r x).l1 = k.l1 := rfl
@[simp] theorem Core.setRing_syncs (k : Core) (r : BitVec 4) (x : Ring) : (k.setRing r x).syncs = k.syncs := rfl
@[simp] theorem Core.setRing_lastCtx (k : Core) (r : BitVec 4) (x : Ring) : (k.setRing r x).lastCtx = k.lastCtx := rfl
@[simp] theorem Core.setRing_issued (k : Core) (r : BitVec 4) (x : Ring) : (k.setRing r x).issued = k.issued := rfl
@[simp] theorem Core.setRing_tried (k : Core) (r : BitVec 4) (x : Ring) : (k.setRing r x).tried = k.tried := rfl
@[simp] theorem Core.setRing_passed (k : Core) (r : BitVec 4) (x : Ring) : (k.setRing r x).passed = k.passed := rfl
@[simp] theorem Core.setRing_spent (k : Core) (r : BitVec 4) (x : Ring) : (k.setRing r x).spent = k.spent := rfl
@[simp] theorem Core.setRing_barFirst (k : Core) (r : BitVec 4) (x : Ring) : (k.setRing r x).barFirst = k.barFirst := rfl
@[simp] theorem Core.setRing_msgHeard (k : Core) (r : BitVec 4) (x : Ring) : (k.setRing r x).msgHeard = k.msgHeard := rfl

/-! ## Core.setJentry -/

@[simp] theorem Core.setJentry_ctxs (k : Core) (e : Nat) (x : JEntry) : (k.setJentry e x).ctxs = k.ctxs := rfl
@[simp] theorem Core.setJentry_mem (k : Core) (e : Nat) (x : JEntry) : (k.setJentry e x).mem = k.mem := rfl
@[simp] theorem Core.setJentry_poison (k : Core) (e : Nat) (x : JEntry) : (k.setJentry e x).poison = k.poison := rfl
@[simp] theorem Core.setJentry_acc (k : Core) (e : Nat) (x : JEntry) : (k.setJentry e x).acc = k.acc := rfl
@[simp] theorem Core.setJentry_accPoison (k : Core) (e : Nat) (x : JEntry) : (k.setJentry e x).accPoison = k.accPoison := rfl
@[simp] theorem Core.setJentry_mxOvf (k : Core) (e : Nat) (x : JEntry) : (k.setJentry e x).mxOvf = k.mxOvf := rfl
@[simp] theorem Core.setJentry_mxNan (k : Core) (e : Nat) (x : JEntry) : (k.setJentry e x).mxNan = k.mxNan := rfl
@[simp] theorem Core.setJentry_mxNar (k : Core) (e : Nat) (x : JEntry) : (k.setJentry e x).mxNar = k.mxNar := rfl
@[simp] theorem Core.setJentry_engine (k : Core) (e : Nat) (x : JEntry) : (k.setJentry e x).engine = k.engine := rfl
@[simp] theorem Core.setJentry_engWait (k : Core) (e : Nat) (x : JEntry) : (k.setJentry e x).engWait = k.engWait := rfl
@[simp] theorem Core.setJentry_foldPort (k : Core) (e : Nat) (x : JEntry) : (k.setJentry e x).foldPort = k.foldPort := rfl
@[simp] theorem Core.setJentry_foldWait (k : Core) (e : Nat) (x : JEntry) : (k.setJentry e x).foldWait = k.foldWait := rfl
@[simp] theorem Core.setJentry_gemvs (k : Core) (e : Nat) (x : JEntry) : (k.setJentry e x).gemvs = k.gemvs := rfl
@[simp] theorem Core.setJentry_ops (k : Core) (e : Nat) (x : JEntry) : (k.setJentry e x).ops = k.ops := rfl
@[simp] theorem Core.setJentry_copyWait (k : Core) (e : Nat) (x : JEntry) : (k.setJentry e x).copyWait = k.copyWait := rfl
@[simp] theorem Core.setJentry_rings (k : Core) (e : Nat) (x : JEntry) : (k.setJentry e x).rings = k.rings := rfl
@[simp] theorem Core.setJentry_cuts (k : Core) (e : Nat) (x : JEntry) : (k.setJentry e x).cuts = k.cuts := rfl
@[simp] theorem Core.setJentry_sp (k : Core) (e : Nat) (x : JEntry) : (k.setJentry e x).sp = k.sp := rfl
@[simp] theorem Core.setJentry_dom (k : Core) (e : Nat) (x : JEntry) : (k.setJentry e x).dom = k.dom := rfl
@[simp] theorem Core.setJentry_ep (k : Core) (e : Nat) (x : JEntry) : (k.setJentry e x).ep = k.ep := rfl
@[simp] theorem Core.setJentry_arrival (k : Core) (e : Nat) (x : JEntry) : (k.setJentry e x).arrival = k.arrival := rfl
@[simp] theorem Core.setJentry_barX (k : Core) (e : Nat) (x : JEntry) : (k.setJentry e x).barX = k.barX := rfl
@[simp] theorem Core.setJentry_leaving (k : Core) (e : Nat) (x : JEntry) : (k.setJentry e x).leaving = k.leaving := rfl
@[simp] theorem Core.setJentry_exch (k : Core) (e : Nat) (x : JEntry) : (k.setJentry e x).exch = k.exch := rfl
@[simp] theorem Core.setJentry_exchLeft (k : Core) (e : Nat) (x : JEntry) : (k.setJentry e x).exchLeft = k.exchLeft := rfl
@[simp] theorem Core.setJentry_exchNext (k : Core) (e : Nat) (x : JEntry) : (k.setJentry e x).exchNext = k.exchNext := rfl
@[simp] theorem Core.setJentry_evec (k : Core) (e : Nat) (x : JEntry) : (k.setJentry e x).evec = k.evec := rfl
@[simp] theorem Core.setJentry_evmask (k : Core) (e : Nat) (x : JEntry) : (k.setJentry e x).evmask = k.evmask := rfl
@[simp] theorem Core.setJentry_orph (k : Core) (e : Nat) (x : JEntry) : (k.setJentry e x).orph = k.orph := rfl
@[simp] theorem Core.setJentry_hflt (k : Core) (e : Nat) (x : JEntry) : (k.setJentry e x).hflt = k.hflt := rfl
@[simp] theorem Core.setJentry_handling (k : Core) (e : Nat) (x : JEntry) : (k.setJentry e x).handling = k.handling := rfl
@[simp] theorem Core.setJentry_hqueue (k : Core) (e : Nat) (x : JEntry) : (k.setJentry e x).hqueue = k.hqueue := rfl
@[simp] theorem Core.setJentry_msgs (k : Core) (e : Nat) (x : JEntry) : (k.setJentry e x).msgs = k.msgs := rfl
@[simp] theorem Core.setJentry_stage (k : Core) (e : Nat) (x : JEntry) : (k.setJentry e x).stage = k.stage := rfl
@[simp] theorem Core.setJentry_asked (k : Core) (e : Nat) (x : JEntry) : (k.setJentry e x).asked = k.asked := rfl
@[simp] theorem Core.setJentry_tlb (k : Core) (e : Nat) (x : JEntry) : (k.setJentry e x).tlb = k.tlb := rfl
@[simp] theorem Core.setJentry_hostTlb (k : Core) (e : Nat) (x : JEntry) : (k.setJentry e x).hostTlb = k.hostTlb := rfl
@[simp] theorem Core.setJentry_ibuf (k : Core) (e : Nat) (x : JEntry) : (k.setJentry e x).ibuf = k.ibuf := rfl
@[simp] theorem Core.setJentry_l1 (k : Core) (e : Nat) (x : JEntry) : (k.setJentry e x).l1 = k.l1 := rfl
@[simp] theorem Core.setJentry_syncs (k : Core) (e : Nat) (x : JEntry) : (k.setJentry e x).syncs = k.syncs := rfl
@[simp] theorem Core.setJentry_lastCtx (k : Core) (e : Nat) (x : JEntry) : (k.setJentry e x).lastCtx = k.lastCtx := rfl
@[simp] theorem Core.setJentry_issued (k : Core) (e : Nat) (x : JEntry) : (k.setJentry e x).issued = k.issued := rfl
@[simp] theorem Core.setJentry_tried (k : Core) (e : Nat) (x : JEntry) : (k.setJentry e x).tried = k.tried := rfl
@[simp] theorem Core.setJentry_passed (k : Core) (e : Nat) (x : JEntry) : (k.setJentry e x).passed = k.passed := rfl
@[simp] theorem Core.setJentry_spent (k : Core) (e : Nat) (x : JEntry) : (k.setJentry e x).spent = k.spent := rfl
@[simp] theorem Core.setJentry_barFirst (k : Core) (e : Nat) (x : JEntry) : (k.setJentry e x).barFirst = k.barFirst := rfl
@[simp] theorem Core.setJentry_msgHeard (k : Core) (e : Nat) (x : JEntry) : (k.setJentry e x).msgHeard = k.msgHeard := rfl

/-! ## Ctx.setS -/

@[simp] theorem Ctx.setS_run (c : Ctx) (r : BitVec 6) (x : Word) : (c.setS r x).run = c.run := by unfold Ctx.setS; split <;> rfl
@[simp] theorem Ctx.setS_inc (c : Ctx) (r : BitVec 6) (x : Word) : (c.setS r x).inc = c.inc := by unfold Ctx.setS; split <;> rfl
@[simp] theorem Ctx.setS_pc (c : Ctx) (r : BitVec 6) (x : Word) : (c.setS r x).pc = c.pc := by unfold Ctx.setS; split <;> rfl
@[simp] theorem Ctx.setS_v (c : Ctx) (r : BitVec 6) (x : Word) : (c.setS r x).v = c.v := by unfold Ctx.setS; split <;> rfl
@[simp] theorem Ctx.setS_k (c : Ctx) (r : BitVec 6) (x : Word) : (c.setS r x).k = c.k := by unfold Ctx.setS; split <;> rfl
@[simp] theorem Ctx.setS_events (c : Ctx) (r : BitVec 6) (x : Word) : (c.setS r x).events = c.events := by unfold Ctx.setS; split <;> rfl
@[simp] theorem Ctx.setS_evTables (c : Ctx) (r : BitVec 6) (x : Word) : (c.setS r x).evTables = c.evTables := by unfold Ctx.setS; split <;> rfl
@[simp] theorem Ctx.setS_link (c : Ctx) (r : BitVec 6) (x : Word) : (c.setS r x).link = c.link := by unfold Ctx.setS; split <;> rfl
@[simp] theorem Ctx.setS_linkSpilled (c : Ctx) (r : BitVec 6) (x : Word) : (c.setS r x).linkSpilled = c.linkSpilled := by unfold Ctx.setS; split <;> rfl
@[simp] theorem Ctx.setS_linkCap (c : Ctx) (r : BitVec 6) (x : Word) : (c.setS r x).linkCap = c.linkCap := by unfold Ctx.setS; split <;> rfl
@[simp] theorem Ctx.setS_linkBase (c : Ctx) (r : BitVec 6) (x : Word) : (c.setS r x).linkBase = c.linkBase := by unfold Ctx.setS; split <;> rfl
@[simp] theorem Ctx.setS_dt (c : Ctx) (r : BitVec 6) (x : Word) : (c.setS r x).dt = c.dt := by unfold Ctx.setS; split <;> rfl
@[simp] theorem Ctx.setS_flags (c : Ctx) (r : BitVec 6) (x : Word) : (c.setS r x).flags = c.flags := by unfold Ctx.setS; split <;> rfl
@[simp] theorem Ctx.setS_amax (c : Ctx) (r : BitVec 6) (x : Word) : (c.setS r x).amax = c.amax := by unfold Ctx.setS; split <;> rfl
@[simp] theorem Ctx.setS_scale (c : Ctx) (r : BitVec 6) (x : Word) : (c.setS r x).scale = c.scale := by unfold Ctx.setS; split <;> rfl
@[simp] theorem Ctx.setS_wdogCount (c : Ctx) (r : BitVec 6) (x : Word) : (c.setS r x).wdogCount = c.wdogCount := by unfold Ctx.setS; split <;> rfl
@[simp] theorem Ctx.setS_wdogLimit (c : Ctx) (r : BitVec 6) (x : Word) : (c.setS r x).wdogLimit = c.wdogLimit := by unfold Ctx.setS; split <;> rfl
@[simp] theorem Ctx.setS_foldbud (c : Ctx) (r : BitVec 6) (x : Word) : (c.setS r x).foldbud = c.foldbud := by unfold Ctx.setS; split <;> rfl
@[simp] theorem Ctx.setS_foldst (c : Ctx) (r : BitVec 6) (x : Word) : (c.setS r x).foldst = c.foldst := by unfold Ctx.setS; split <;> rfl
@[simp] theorem Ctx.setS_foldpc (c : Ctx) (r : BitVec 6) (x : Word) : (c.setS r x).foldpc = c.foldpc := by unfold Ctx.setS; split <;> rfl
@[simp] theorem Ctx.setS_cause (c : Ctx) (r : BitVec 6) (x : Word) : (c.setS r x).cause = c.cause := by unfold Ctx.setS; split <;> rfl
@[simp] theorem Ctx.setS_epc (c : Ctx) (r : BitVec 6) (x : Word) : (c.setS r x).epc = c.epc := by unfold Ctx.setS; split <;> rfl
@[simp] theorem Ctx.setS_einfo (c : Ctx) (r : BitVec 6) (x : Word) : (c.setS r x).einfo = c.einfo := by unfold Ctx.setS; split <;> rfl
@[simp] theorem Ctx.setS_jrnl (c : Ctx) (r : BitVec 6) (x : Word) : (c.setS r x).jrnl = c.jrnl := by unfold Ctx.setS; split <;> rfl
@[simp] theorem Ctx.setS_mmOvf (c : Ctx) (r : BitVec 6) (x : Word) : (c.setS r x).mmOvf = c.mmOvf := by unfold Ctx.setS; split <;> rfl
@[simp] theorem Ctx.setS_mmOff (c : Ctx) (r : BitVec 6) (x : Word) : (c.setS r x).mmOff = c.mmOff := by unfold Ctx.setS; split <;> rfl
@[simp] theorem Ctx.setS_dzt (c : Ctx) (r : BitVec 6) (x : Word) : (c.setS r x).dzt = c.dzt := by unfold Ctx.setS; split <;> rfl
@[simp] theorem Ctx.setS_rc (c : Ctx) (r : BitVec 6) (x : Word) : (c.setS r x).rc = c.rc := by unfold Ctx.setS; split <;> rfl
@[simp] theorem Ctx.setS_acq (c : Ctx) (r : BitVec 6) (x : Word) : (c.setS r x).acq = c.acq := by unfold Ctx.setS; split <;> rfl
@[simp] theorem Ctx.setS_batch (c : Ctx) (r : BitVec 6) (x : Word) : (c.setS r x).batch = c.batch := by unfold Ctx.setS; split <;> rfl
@[simp] theorem Ctx.setS_sealed (c : Ctx) (r : BitVec 6) (x : Word) : (c.setS r x).sealed = c.sealed := by unfold Ctx.setS; split <;> rfl
@[simp] theorem Ctx.setS_callSeq (c : Ctx) (r : BitVec 6) (x : Word) : (c.setS r x).callSeq = c.callSeq := by unfold Ctx.setS; split <;> rfl
@[simp] theorem Ctx.setS_strongPrev (c : Ctx) (r : BitVec 6) (x : Word) : (c.setS r x).strongPrev = c.strongPrev := by unfold Ctx.setS; split <;> rfl
@[simp] theorem Ctx.setS_calls (c : Ctx) (r : BitVec 6) (x : Word) : (c.setS r x).calls = c.calls := by unfold Ctx.setS; split <;> rfl
@[simp] theorem Ctx.setS_joinVal (c : Ctx) (r : BitVec 6) (x : Word) : (c.setS r x).joinVal = c.joinVal := by unfold Ctx.setS; split <;> rfl
@[simp] theorem Ctx.setS_lineage (c : Ctx) (r : BitVec 6) (x : Word) : (c.setS r x).lineage = c.lineage := by unfold Ctx.setS; split <;> rfl
@[simp] theorem Ctx.setS_gemvLast (c : Ctx) (r : BitVec 6) (x : Word) : (c.setS r x).gemvLast = c.gemvLast := by unfold Ctx.setS; split <;> rfl
@[simp] theorem Ctx.setS_resid (c : Ctx) (r : BitVec 6) (x : Word) : (c.setS r x).resid = c.resid := by unfold Ctx.setS; split <;> rfl
@[simp] theorem Ctx.setS_epcWritten (c : Ctx) (r : BitVec 6) (x : Word) : (c.setS r x).epcWritten = c.epcWritten := by unfold Ctx.setS; split <;> rfl
@[simp] theorem Ctx.setS_fline (c : Ctx) (r : BitVec 6) (x : Word) : (c.setS r x).fline = c.fline := by unfold Ctx.setS; split <;> rfl
@[simp] theorem Ctx.setS_pageWait (c : Ctx) (r : BitVec 6) (x : Word) : (c.setS r x).pageWait = c.pageWait := by unfold Ctx.setS; split <;> rfl
@[simp] theorem Ctx.setS_reports (c : Ctx) (r : BitVec 6) (x : Word) : (c.setS r x).reports = c.reports := by unfold Ctx.setS; split <;> rfl
@[simp] theorem Ctx.setS_pend (c : Ctx) (r : BitVec 6) (x : Word) : (c.setS r x).pend = c.pend := by unfold Ctx.setS; split <;> rfl
@[simp] theorem Ctx.setS_nextIssue (c : Ctx) (r : BitVec 6) (x : Word) : (c.setS r x).nextIssue = c.nextIssue := by unfold Ctx.setS; split <;> rfl
@[simp] theorem Ctx.setS_ready (c : Ctx) (r : BitVec 6) (x : Word) : (c.setS r x).ready = c.ready := by unfold Ctx.setS; split <;> rfl
@[simp] theorem Ctx.setS_passOver (c : Ctx) (r : BitVec 6) (x : Word) : (c.setS r x).passOver = c.passOver := by unfold Ctx.setS; split <;> rfl
@[simp] theorem Ctx.setS_stopped (c : Ctx) (r : BitVec 6) (x : Word) : (c.setS r x).stopped = c.stopped := by unfold Ctx.setS; split <;> rfl
@[simp] theorem Ctx.setS_sent (c : Ctx) (r : BitVec 6) (x : Word) : (c.setS r x).sent = c.sent := by unfold Ctx.setS; split <;> rfl
@[simp] theorem Ctx.setS_callPin (c : Ctx) (r : BitVec 6) (x : Word) : (c.setS r x).callPin = c.callPin := by unfold Ctx.setS; split <;> rfl
@[simp] theorem Ctx.setS_replyAt (c : Ctx) (r : BitVec 6) (x : Word) : (c.setS r x).replyAt = c.replyAt := by unfold Ctx.setS; split <;> rfl
@[simp] theorem Ctx.setS_replyAfter (c : Ctx) (r : BitVec 6) (x : Word) : (c.setS r x).replyAfter = c.replyAfter := by unfold Ctx.setS; split <;> rfl
@[simp] theorem Ctx.setS_forwarding (c : Ctx) (r : BitVec 6) (x : Word) : (c.setS r x).forwarding = c.forwarding := by unfold Ctx.setS; split <;> rfl
@[simp] theorem Ctx.setS_heldSignals (c : Ctx) (r : BitVec 6) (x : Word) : (c.setS r x).heldSignals = c.heldSignals := by unfold Ctx.setS; split <;> rfl
@[simp] theorem Ctx.setS_spillRels (c : Ctx) (r : BitVec 6) (x : Word) : (c.setS r x).spillRels = c.spillRels := by unfold Ctx.setS; split <;> rfl

/-! ## Ctx.setK -/

@[simp] theorem Ctx.setK_run (c : Ctx) (r : BitVec 3) (x : Bool) : (c.setK r x).run = c.run := by unfold Ctx.setK; split <;> rfl
@[simp] theorem Ctx.setK_inc (c : Ctx) (r : BitVec 3) (x : Bool) : (c.setK r x).inc = c.inc := by unfold Ctx.setK; split <;> rfl
@[simp] theorem Ctx.setK_pc (c : Ctx) (r : BitVec 3) (x : Bool) : (c.setK r x).pc = c.pc := by unfold Ctx.setK; split <;> rfl
@[simp] theorem Ctx.setK_s (c : Ctx) (r : BitVec 3) (x : Bool) : (c.setK r x).s = c.s := by unfold Ctx.setK; split <;> rfl
@[simp] theorem Ctx.setK_v (c : Ctx) (r : BitVec 3) (x : Bool) : (c.setK r x).v = c.v := by unfold Ctx.setK; split <;> rfl
@[simp] theorem Ctx.setK_events (c : Ctx) (r : BitVec 3) (x : Bool) : (c.setK r x).events = c.events := by unfold Ctx.setK; split <;> rfl
@[simp] theorem Ctx.setK_evTables (c : Ctx) (r : BitVec 3) (x : Bool) : (c.setK r x).evTables = c.evTables := by unfold Ctx.setK; split <;> rfl
@[simp] theorem Ctx.setK_link (c : Ctx) (r : BitVec 3) (x : Bool) : (c.setK r x).link = c.link := by unfold Ctx.setK; split <;> rfl
@[simp] theorem Ctx.setK_linkSpilled (c : Ctx) (r : BitVec 3) (x : Bool) : (c.setK r x).linkSpilled = c.linkSpilled := by unfold Ctx.setK; split <;> rfl
@[simp] theorem Ctx.setK_linkCap (c : Ctx) (r : BitVec 3) (x : Bool) : (c.setK r x).linkCap = c.linkCap := by unfold Ctx.setK; split <;> rfl
@[simp] theorem Ctx.setK_linkBase (c : Ctx) (r : BitVec 3) (x : Bool) : (c.setK r x).linkBase = c.linkBase := by unfold Ctx.setK; split <;> rfl
@[simp] theorem Ctx.setK_dt (c : Ctx) (r : BitVec 3) (x : Bool) : (c.setK r x).dt = c.dt := by unfold Ctx.setK; split <;> rfl
@[simp] theorem Ctx.setK_flags (c : Ctx) (r : BitVec 3) (x : Bool) : (c.setK r x).flags = c.flags := by unfold Ctx.setK; split <;> rfl
@[simp] theorem Ctx.setK_amax (c : Ctx) (r : BitVec 3) (x : Bool) : (c.setK r x).amax = c.amax := by unfold Ctx.setK; split <;> rfl
@[simp] theorem Ctx.setK_scale (c : Ctx) (r : BitVec 3) (x : Bool) : (c.setK r x).scale = c.scale := by unfold Ctx.setK; split <;> rfl
@[simp] theorem Ctx.setK_wdogCount (c : Ctx) (r : BitVec 3) (x : Bool) : (c.setK r x).wdogCount = c.wdogCount := by unfold Ctx.setK; split <;> rfl
@[simp] theorem Ctx.setK_wdogLimit (c : Ctx) (r : BitVec 3) (x : Bool) : (c.setK r x).wdogLimit = c.wdogLimit := by unfold Ctx.setK; split <;> rfl
@[simp] theorem Ctx.setK_foldbud (c : Ctx) (r : BitVec 3) (x : Bool) : (c.setK r x).foldbud = c.foldbud := by unfold Ctx.setK; split <;> rfl
@[simp] theorem Ctx.setK_foldst (c : Ctx) (r : BitVec 3) (x : Bool) : (c.setK r x).foldst = c.foldst := by unfold Ctx.setK; split <;> rfl
@[simp] theorem Ctx.setK_foldpc (c : Ctx) (r : BitVec 3) (x : Bool) : (c.setK r x).foldpc = c.foldpc := by unfold Ctx.setK; split <;> rfl
@[simp] theorem Ctx.setK_cause (c : Ctx) (r : BitVec 3) (x : Bool) : (c.setK r x).cause = c.cause := by unfold Ctx.setK; split <;> rfl
@[simp] theorem Ctx.setK_epc (c : Ctx) (r : BitVec 3) (x : Bool) : (c.setK r x).epc = c.epc := by unfold Ctx.setK; split <;> rfl
@[simp] theorem Ctx.setK_einfo (c : Ctx) (r : BitVec 3) (x : Bool) : (c.setK r x).einfo = c.einfo := by unfold Ctx.setK; split <;> rfl
@[simp] theorem Ctx.setK_jrnl (c : Ctx) (r : BitVec 3) (x : Bool) : (c.setK r x).jrnl = c.jrnl := by unfold Ctx.setK; split <;> rfl
@[simp] theorem Ctx.setK_mmOvf (c : Ctx) (r : BitVec 3) (x : Bool) : (c.setK r x).mmOvf = c.mmOvf := by unfold Ctx.setK; split <;> rfl
@[simp] theorem Ctx.setK_mmOff (c : Ctx) (r : BitVec 3) (x : Bool) : (c.setK r x).mmOff = c.mmOff := by unfold Ctx.setK; split <;> rfl
@[simp] theorem Ctx.setK_dzt (c : Ctx) (r : BitVec 3) (x : Bool) : (c.setK r x).dzt = c.dzt := by unfold Ctx.setK; split <;> rfl
@[simp] theorem Ctx.setK_rc (c : Ctx) (r : BitVec 3) (x : Bool) : (c.setK r x).rc = c.rc := by unfold Ctx.setK; split <;> rfl
@[simp] theorem Ctx.setK_acq (c : Ctx) (r : BitVec 3) (x : Bool) : (c.setK r x).acq = c.acq := by unfold Ctx.setK; split <;> rfl
@[simp] theorem Ctx.setK_batch (c : Ctx) (r : BitVec 3) (x : Bool) : (c.setK r x).batch = c.batch := by unfold Ctx.setK; split <;> rfl
@[simp] theorem Ctx.setK_sealed (c : Ctx) (r : BitVec 3) (x : Bool) : (c.setK r x).sealed = c.sealed := by unfold Ctx.setK; split <;> rfl
@[simp] theorem Ctx.setK_callSeq (c : Ctx) (r : BitVec 3) (x : Bool) : (c.setK r x).callSeq = c.callSeq := by unfold Ctx.setK; split <;> rfl
@[simp] theorem Ctx.setK_strongPrev (c : Ctx) (r : BitVec 3) (x : Bool) : (c.setK r x).strongPrev = c.strongPrev := by unfold Ctx.setK; split <;> rfl
@[simp] theorem Ctx.setK_calls (c : Ctx) (r : BitVec 3) (x : Bool) : (c.setK r x).calls = c.calls := by unfold Ctx.setK; split <;> rfl
@[simp] theorem Ctx.setK_joinVal (c : Ctx) (r : BitVec 3) (x : Bool) : (c.setK r x).joinVal = c.joinVal := by unfold Ctx.setK; split <;> rfl
@[simp] theorem Ctx.setK_lineage (c : Ctx) (r : BitVec 3) (x : Bool) : (c.setK r x).lineage = c.lineage := by unfold Ctx.setK; split <;> rfl
@[simp] theorem Ctx.setK_gemvLast (c : Ctx) (r : BitVec 3) (x : Bool) : (c.setK r x).gemvLast = c.gemvLast := by unfold Ctx.setK; split <;> rfl
@[simp] theorem Ctx.setK_resid (c : Ctx) (r : BitVec 3) (x : Bool) : (c.setK r x).resid = c.resid := by unfold Ctx.setK; split <;> rfl
@[simp] theorem Ctx.setK_epcWritten (c : Ctx) (r : BitVec 3) (x : Bool) : (c.setK r x).epcWritten = c.epcWritten := by unfold Ctx.setK; split <;> rfl
@[simp] theorem Ctx.setK_fline (c : Ctx) (r : BitVec 3) (x : Bool) : (c.setK r x).fline = c.fline := by unfold Ctx.setK; split <;> rfl
@[simp] theorem Ctx.setK_pageWait (c : Ctx) (r : BitVec 3) (x : Bool) : (c.setK r x).pageWait = c.pageWait := by unfold Ctx.setK; split <;> rfl
@[simp] theorem Ctx.setK_reports (c : Ctx) (r : BitVec 3) (x : Bool) : (c.setK r x).reports = c.reports := by unfold Ctx.setK; split <;> rfl
@[simp] theorem Ctx.setK_pend (c : Ctx) (r : BitVec 3) (x : Bool) : (c.setK r x).pend = c.pend := by unfold Ctx.setK; split <;> rfl
@[simp] theorem Ctx.setK_nextIssue (c : Ctx) (r : BitVec 3) (x : Bool) : (c.setK r x).nextIssue = c.nextIssue := by unfold Ctx.setK; split <;> rfl
@[simp] theorem Ctx.setK_ready (c : Ctx) (r : BitVec 3) (x : Bool) : (c.setK r x).ready = c.ready := by unfold Ctx.setK; split <;> rfl
@[simp] theorem Ctx.setK_passOver (c : Ctx) (r : BitVec 3) (x : Bool) : (c.setK r x).passOver = c.passOver := by unfold Ctx.setK; split <;> rfl
@[simp] theorem Ctx.setK_stopped (c : Ctx) (r : BitVec 3) (x : Bool) : (c.setK r x).stopped = c.stopped := by unfold Ctx.setK; split <;> rfl
@[simp] theorem Ctx.setK_sent (c : Ctx) (r : BitVec 3) (x : Bool) : (c.setK r x).sent = c.sent := by unfold Ctx.setK; split <;> rfl
@[simp] theorem Ctx.setK_callPin (c : Ctx) (r : BitVec 3) (x : Bool) : (c.setK r x).callPin = c.callPin := by unfold Ctx.setK; split <;> rfl
@[simp] theorem Ctx.setK_replyAt (c : Ctx) (r : BitVec 3) (x : Bool) : (c.setK r x).replyAt = c.replyAt := by unfold Ctx.setK; split <;> rfl
@[simp] theorem Ctx.setK_replyAfter (c : Ctx) (r : BitVec 3) (x : Bool) : (c.setK r x).replyAfter = c.replyAfter := by unfold Ctx.setK; split <;> rfl
@[simp] theorem Ctx.setK_forwarding (c : Ctx) (r : BitVec 3) (x : Bool) : (c.setK r x).forwarding = c.forwarding := by unfold Ctx.setK; split <;> rfl
@[simp] theorem Ctx.setK_heldSignals (c : Ctx) (r : BitVec 3) (x : Bool) : (c.setK r x).heldSignals = c.heldSignals := by unfold Ctx.setK; split <;> rfl
@[simp] theorem Ctx.setK_spillRels (c : Ctx) (r : BitVec 3) (x : Bool) : (c.setK r x).spillRels = c.spillRels := by unfold Ctx.setK; split <;> rfl

/-! ## Ctx.setV -/

@[simp] theorem Ctx.setV_run (c : Ctx) (r : BitVec 5) (x : VVal) : (c.setV r x).run = c.run := rfl
@[simp] theorem Ctx.setV_inc (c : Ctx) (r : BitVec 5) (x : VVal) : (c.setV r x).inc = c.inc := rfl
@[simp] theorem Ctx.setV_pc (c : Ctx) (r : BitVec 5) (x : VVal) : (c.setV r x).pc = c.pc := rfl
@[simp] theorem Ctx.setV_s (c : Ctx) (r : BitVec 5) (x : VVal) : (c.setV r x).s = c.s := rfl
@[simp] theorem Ctx.setV_k (c : Ctx) (r : BitVec 5) (x : VVal) : (c.setV r x).k = c.k := rfl
@[simp] theorem Ctx.setV_events (c : Ctx) (r : BitVec 5) (x : VVal) : (c.setV r x).events = c.events := rfl
@[simp] theorem Ctx.setV_evTables (c : Ctx) (r : BitVec 5) (x : VVal) : (c.setV r x).evTables = c.evTables := rfl
@[simp] theorem Ctx.setV_link (c : Ctx) (r : BitVec 5) (x : VVal) : (c.setV r x).link = c.link := rfl
@[simp] theorem Ctx.setV_linkSpilled (c : Ctx) (r : BitVec 5) (x : VVal) : (c.setV r x).linkSpilled = c.linkSpilled := rfl
@[simp] theorem Ctx.setV_linkCap (c : Ctx) (r : BitVec 5) (x : VVal) : (c.setV r x).linkCap = c.linkCap := rfl
@[simp] theorem Ctx.setV_linkBase (c : Ctx) (r : BitVec 5) (x : VVal) : (c.setV r x).linkBase = c.linkBase := rfl
@[simp] theorem Ctx.setV_dt (c : Ctx) (r : BitVec 5) (x : VVal) : (c.setV r x).dt = c.dt := rfl
@[simp] theorem Ctx.setV_flags (c : Ctx) (r : BitVec 5) (x : VVal) : (c.setV r x).flags = c.flags := rfl
@[simp] theorem Ctx.setV_amax (c : Ctx) (r : BitVec 5) (x : VVal) : (c.setV r x).amax = c.amax := rfl
@[simp] theorem Ctx.setV_scale (c : Ctx) (r : BitVec 5) (x : VVal) : (c.setV r x).scale = c.scale := rfl
@[simp] theorem Ctx.setV_wdogCount (c : Ctx) (r : BitVec 5) (x : VVal) : (c.setV r x).wdogCount = c.wdogCount := rfl
@[simp] theorem Ctx.setV_wdogLimit (c : Ctx) (r : BitVec 5) (x : VVal) : (c.setV r x).wdogLimit = c.wdogLimit := rfl
@[simp] theorem Ctx.setV_foldbud (c : Ctx) (r : BitVec 5) (x : VVal) : (c.setV r x).foldbud = c.foldbud := rfl
@[simp] theorem Ctx.setV_foldst (c : Ctx) (r : BitVec 5) (x : VVal) : (c.setV r x).foldst = c.foldst := rfl
@[simp] theorem Ctx.setV_foldpc (c : Ctx) (r : BitVec 5) (x : VVal) : (c.setV r x).foldpc = c.foldpc := rfl
@[simp] theorem Ctx.setV_cause (c : Ctx) (r : BitVec 5) (x : VVal) : (c.setV r x).cause = c.cause := rfl
@[simp] theorem Ctx.setV_epc (c : Ctx) (r : BitVec 5) (x : VVal) : (c.setV r x).epc = c.epc := rfl
@[simp] theorem Ctx.setV_einfo (c : Ctx) (r : BitVec 5) (x : VVal) : (c.setV r x).einfo = c.einfo := rfl
@[simp] theorem Ctx.setV_jrnl (c : Ctx) (r : BitVec 5) (x : VVal) : (c.setV r x).jrnl = c.jrnl := rfl
@[simp] theorem Ctx.setV_mmOvf (c : Ctx) (r : BitVec 5) (x : VVal) : (c.setV r x).mmOvf = c.mmOvf := rfl
@[simp] theorem Ctx.setV_mmOff (c : Ctx) (r : BitVec 5) (x : VVal) : (c.setV r x).mmOff = c.mmOff := rfl
@[simp] theorem Ctx.setV_dzt (c : Ctx) (r : BitVec 5) (x : VVal) : (c.setV r x).dzt = c.dzt := rfl
@[simp] theorem Ctx.setV_rc (c : Ctx) (r : BitVec 5) (x : VVal) : (c.setV r x).rc = c.rc := rfl
@[simp] theorem Ctx.setV_acq (c : Ctx) (r : BitVec 5) (x : VVal) : (c.setV r x).acq = c.acq := rfl
@[simp] theorem Ctx.setV_batch (c : Ctx) (r : BitVec 5) (x : VVal) : (c.setV r x).batch = c.batch := rfl
@[simp] theorem Ctx.setV_sealed (c : Ctx) (r : BitVec 5) (x : VVal) : (c.setV r x).sealed = c.sealed := rfl
@[simp] theorem Ctx.setV_callSeq (c : Ctx) (r : BitVec 5) (x : VVal) : (c.setV r x).callSeq = c.callSeq := rfl
@[simp] theorem Ctx.setV_strongPrev (c : Ctx) (r : BitVec 5) (x : VVal) : (c.setV r x).strongPrev = c.strongPrev := rfl
@[simp] theorem Ctx.setV_calls (c : Ctx) (r : BitVec 5) (x : VVal) : (c.setV r x).calls = c.calls := rfl
@[simp] theorem Ctx.setV_joinVal (c : Ctx) (r : BitVec 5) (x : VVal) : (c.setV r x).joinVal = c.joinVal := rfl
@[simp] theorem Ctx.setV_lineage (c : Ctx) (r : BitVec 5) (x : VVal) : (c.setV r x).lineage = c.lineage := rfl
@[simp] theorem Ctx.setV_gemvLast (c : Ctx) (r : BitVec 5) (x : VVal) : (c.setV r x).gemvLast = c.gemvLast := rfl
@[simp] theorem Ctx.setV_resid (c : Ctx) (r : BitVec 5) (x : VVal) : (c.setV r x).resid = c.resid := rfl
@[simp] theorem Ctx.setV_epcWritten (c : Ctx) (r : BitVec 5) (x : VVal) : (c.setV r x).epcWritten = c.epcWritten := rfl
@[simp] theorem Ctx.setV_fline (c : Ctx) (r : BitVec 5) (x : VVal) : (c.setV r x).fline = c.fline := rfl
@[simp] theorem Ctx.setV_pageWait (c : Ctx) (r : BitVec 5) (x : VVal) : (c.setV r x).pageWait = c.pageWait := rfl
@[simp] theorem Ctx.setV_reports (c : Ctx) (r : BitVec 5) (x : VVal) : (c.setV r x).reports = c.reports := rfl
@[simp] theorem Ctx.setV_pend (c : Ctx) (r : BitVec 5) (x : VVal) : (c.setV r x).pend = c.pend := rfl
@[simp] theorem Ctx.setV_nextIssue (c : Ctx) (r : BitVec 5) (x : VVal) : (c.setV r x).nextIssue = c.nextIssue := rfl
@[simp] theorem Ctx.setV_ready (c : Ctx) (r : BitVec 5) (x : VVal) : (c.setV r x).ready = c.ready := rfl
@[simp] theorem Ctx.setV_passOver (c : Ctx) (r : BitVec 5) (x : VVal) : (c.setV r x).passOver = c.passOver := rfl
@[simp] theorem Ctx.setV_stopped (c : Ctx) (r : BitVec 5) (x : VVal) : (c.setV r x).stopped = c.stopped := rfl
@[simp] theorem Ctx.setV_sent (c : Ctx) (r : BitVec 5) (x : VVal) : (c.setV r x).sent = c.sent := rfl
@[simp] theorem Ctx.setV_callPin (c : Ctx) (r : BitVec 5) (x : VVal) : (c.setV r x).callPin = c.callPin := rfl
@[simp] theorem Ctx.setV_replyAt (c : Ctx) (r : BitVec 5) (x : VVal) : (c.setV r x).replyAt = c.replyAt := rfl
@[simp] theorem Ctx.setV_replyAfter (c : Ctx) (r : BitVec 5) (x : VVal) : (c.setV r x).replyAfter = c.replyAfter := rfl
@[simp] theorem Ctx.setV_forwarding (c : Ctx) (r : BitVec 5) (x : VVal) : (c.setV r x).forwarding = c.forwarding := rfl
@[simp] theorem Ctx.setV_heldSignals (c : Ctx) (r : BitVec 5) (x : VVal) : (c.setV r x).heldSignals = c.heldSignals := rfl
@[simp] theorem Ctx.setV_spillRels (c : Ctx) (r : BitVec 5) (x : VVal) : (c.setV r x).spillRels = c.spillRels := rfl

/-! ## Reading a part after writing a part -/

theorem toNat_ne {w : Nat} {a b : BitVec w} (h : a ≠ b) : a.toNat ≠ b.toNat := fun e => h (BitVec.eq_of_toNat_eq e)

@[simp] theorem State.core_setCore (s : State) (c : CoreId) (x : Core) : (s.setCore c x).core c = x := by
  simp [State.core, State.setCore]
@[simp] theorem State.core_setCore_other (s : State) {c d : CoreId} (x : Core) (h : d ≠ c) :
    (s.setCore c x).core d = s.core d := by
  simp [State.core, State.setCore, toNat_ne h]
@[simp] theorem Core.ctx_setCtx (k : Core) (n : CtxNum) (x : Ctx) : (k.setCtx n x).ctx n = x := by
  simp [Core.ctx, Core.setCtx]
@[simp] theorem Core.ctx_setCtx_other (k : Core) {n m : CtxNum} (x : Ctx) (h : m ≠ n) : (k.setCtx n x).ctx m = k.ctx m := by
  simp [Core.ctx, Core.setCtx, toNat_ne h]
@[simp] theorem Core.ring_setRing (k : Core) (r : BitVec 4) (x : Ring) : (k.setRing r x).ring r = x := by
  simp [Core.ring, Core.setRing]
@[simp] theorem Core.ring_setRing_other (k : Core) {r q : BitVec 4} (x : Ring) (h : q ≠ r) :
    (k.setRing r x).ring q = k.ring q := by
  simp [Core.ring, Core.setRing, toNat_ne h]
@[simp] theorem Core.jentry_setJentry (k : Core) (e : Nat) (x : JEntry) : (k.setJentry e x).jentry e = x := by
  simp [Core.jentry, Core.setJentry]
@[simp] theorem Core.jentry_setJentry_other (k : Core) {e f : Nat} (x : JEntry) (h : f ≠ e) :
    (k.setJentry e x).jentry f = k.jentry f := by
  simp [Core.jentry, Core.setJentry, h]
@[simp] theorem State.cluster_setCluster (s : State) (c : ClusterId) (x : Cluster) : (s.setCluster c x).cluster c = x := by
  simp [State.cluster, State.setCluster]
@[simp] theorem State.die_setDie (s : State) (d : Die) (x : DieState) : (s.setDie d x).die d = x := by
  simp [State.die, State.setDie]
@[simp] theorem State.sector_setSector (s : State) (d : Die) (x : Sector) : (s.setSector d x).sector d = x := by
  simp [State.sector, State.setSector]
@[simp] theorem State.tenantSt_setTenantSt (s : State) (t : Tenant) (x : TenantState) :
    (s.setTenantSt t x).tenantSt t = x := by
  simp [State.tenantSt, State.setTenantSt]

@[simp] theorem State.core_setCtx (s : State) (c : CoreId) (n : CtxNum) (x : Ctx) :
    (s.setCtx c n x).core c = (s.core c).setCtx n x := by simp [State.setCtx]
@[simp] theorem State.core_setCtx_other (s : State) {c d : CoreId} (n : CtxNum) (x : Ctx) (h : d ≠ c) :
    (s.setCtx c n x).core d = s.core d := by simp [State.setCtx, h]
@[simp] theorem State.ctx_setCtx (s : State) (c : CoreId) (n : CtxNum) (x : Ctx) : (s.setCtx c n x).ctx c n = x := by
  simp [State.ctx]
theorem State.ctx_setCtx_other (s : State) {c d : CoreId} {n m : CtxNum} (x : Ctx) (h : d ≠ c ∨ m ≠ n) :
    (s.setCtx c n x).ctx d m = s.ctx d m := by
  by_cases hd : d = c
  · subst hd
    rcases h with h | h
    · exact absurd rfl h
    · simp [State.ctx, h]
  · simp [State.ctx, hd]

@[simp] theorem State.me_setMe (s : State) (x : Ctx) : (s.setMe x).me = x := by simp [State.me, State.setMe]
@[simp] theorem State.myCore_setMyCore (s : State) (x : Core) : (s.setMyCore x).myCore = x := by
  simp [State.myCore, State.setMyCore]
@[simp] theorem State.myCore_setMe (s : State) (x : Ctx) : (s.setMe x).myCore = s.myCore.setCtx s.curCtx x := by
  simp [State.myCore, State.setMe]
@[simp] theorem State.me_setMyCore (s : State) (x : Core) : (s.setMyCore x).me = x.ctx s.curCtx := by
  simp [State.me, State.ctx, State.setMyCore]
theorem State.me_eq (s : State) : s.me = s.myCore.ctx s.curCtx := rfl

/-! ## A second write of one part replaces the first -/

@[simp] theorem Core.setCtx_setCtx (k : Core) (n : CtxNum) (x y : Ctx) : (k.setCtx n x).setCtx n y = k.setCtx n y := by
  simp [Core.setCtx]
@[simp] theorem State.setCore_setCore (s : State) (c : CoreId) (x y : Core) : (s.setCore c x).setCore c y = s.setCore c y := by
  simp [State.setCore]
@[simp] theorem State.setMe_setMe (s : State) (x y : Ctx) : (s.setMe x).setMe y = s.setMe y := by
  simp [State.setMe, State.setCtx]
@[simp] theorem State.setMyCore_setMyCore (s : State) (x y : Core) : (s.setMyCore x).setMyCore y = s.setMyCore y := by
  simp [State.setMyCore]
@[simp] theorem State.setMe_setMyCore (s : State) (x : Core) (y : Ctx) :
    (s.setMyCore x).setMe y = s.setMyCore (x.setCtx s.curCtx y) := by
  simp [State.setMyCore, State.setMe, State.setCtx]
@[simp] theorem State.setMyCore_setMe (s : State) (x : Ctx) (y : Core) : (s.setMe x).setMyCore y = s.setMyCore y := by
  simp [State.setMyCore, State.setMe, State.setCtx]
@[simp] theorem State.cycleAt_setCore (s : State) (c d : CoreId) (x : Core) : (s.setCore c x).cycleAt d = s.cycleAt d := rfl
@[simp] theorem State.cycleAt_setCtx (s : State) (c d : CoreId) (n : CtxNum) (x : Ctx) :
    (s.setCtx c n x).cycleAt d = s.cycleAt d := rfl
@[simp] theorem State.now_setMe (s : State) (x : Ctx) : (s.setMe x).now = s.now := rfl
@[simp] theorem State.now_setMyCore (s : State) (x : Core) : (s.setMyCore x).now = s.now := rfl
@[simp] theorem State.tenantOf_setCore (s : State) (c d : CoreId) (x : Core) : (s.setCore c x).tenantOf d = s.tenantOf d := rfl
@[simp] theorem State.tenantOf_setCtx (s : State) (c d : CoreId) (n : CtxNum) (x : Ctx) :
    (s.setCtx c n x).tenantOf d = s.tenantOf d := rfl
@[simp] theorem State.myTenant_setMe (s : State) (x : Ctx) : (s.setMe x).myTenant = s.myTenant := rfl
@[simp] theorem State.myTenant_setMyCore (s : State) (x : Core) : (s.setMyCore x).myTenant = s.myTenant := rfl

/-! ## Registers -/

/-- s0 reads zero (R12). -/
@[simp] theorem Ctx.getS_zero (c : Ctx) : c.getS 0 = 0 := rfl
/-- A write to s0 is discarded. -/
@[simp] theorem Ctx.setS_zero (c : Ctx) (x : Word) : c.setS 0 x = c := rfl
/-- k0 reads one. -/
@[simp] theorem Ctx.getK_zero (c : Ctx) : c.getK 0 = true := rfl
@[simp] theorem Ctx.setK_zero (c : Ctx) (x : Bool) : c.setK 0 x = c := rfl

@[simp] theorem Ctx.getS_setS (c : Ctx) {r : BitVec 6} (x : Word) (h : r ≠ 0) : (c.setS r x).getS r = x := by
  unfold Ctx.getS Ctx.setS
  rw [if_neg h, if_neg h]; exact sparseGet_assign_same ..
@[simp] theorem Ctx.getS_setS_other (c : Ctx) {r q : BitVec 6} (x : Word) (h : q ≠ r) : (c.setS r x).getS q = c.getS q := by
  unfold Ctx.getS Ctx.setS
  split_ifs <;> first | rfl | exact sparseGet_assign_other _ _ _ (toNat_ne h)
@[simp] theorem Ctx.getV_setV (c : Ctx) (r : BitVec 5) (x : VVal) : (c.setV r x).getV r = x := by
  simp [Ctx.getV, Ctx.setV]
@[simp] theorem Ctx.getV_setV_other (c : Ctx) {r q : BitVec 5} (x : VVal) (h : q ≠ r) : (c.setV r x).getV q = c.getV q := by
  simp [Ctx.getV, Ctx.setV, toNat_ne h]
@[simp] theorem Ctx.getK_setK (c : Ctx) {r : BitVec 3} (x : Bool) (h : r ≠ 0) : (c.setK r x).getK r = x := by
  unfold Ctx.getK Ctx.setK
  rw [if_neg h, if_neg h]
  show BitVec.getLsbD (if x then c.k ||| (1#8 <<< r.toNat) else c.k &&& ~~~(1#8 <<< r.toNat)) r.toNat = x
  generalize c.k = k; clear h
  revert r x k; decide +kernel
@[simp] theorem Ctx.getK_setK_other (c : Ctx) {r q : BitVec 3} (x : Bool) (h : q ≠ r) : (c.setK r x).getK q = c.getK q := by
  have key : ∀ (r q : BitVec 3) (x : Bool) (k : BitVec 8), q ≠ r →
      BitVec.getLsbD (if x then k ||| (1#8 <<< r.toNat) else k &&& ~~~(1#8 <<< r.toNat)) q.toNat = k.getLsbD q.toNat := by
    decide +kernel
  unfold Ctx.getK Ctx.setK
  split_ifs <;> first | rfl | exact key _ _ true _ h | exact key _ _ false _ h
@[simp] theorem Ctx.getS_setV (c : Ctx) (r : BitVec 5) (x : VVal) (q : BitVec 6) : (c.setV r x).getS q = c.getS q := rfl
@[simp] theorem Ctx.getK_setV (c : Ctx) (r : BitVec 5) (x : VVal) (q : BitVec 3) : (c.setV r x).getK q = c.getK q := rfl
@[simp] theorem Ctx.getV_setS (c : Ctx) (r : BitVec 6) (x : Word) (q : BitVec 5) : (c.setS r x).getV q = c.getV q := by
  simp [Ctx.getV]
@[simp] theorem Ctx.getK_setS (c : Ctx) (r : BitVec 6) (x : Word) (q : BitVec 3) : (c.setS r x).getK q = c.getK q := by
  simp [Ctx.getK]
@[simp] theorem Ctx.getS_setK (c : Ctx) (r : BitVec 3) (x : Bool) (q : BitVec 6) : (c.setK r x).getS q = c.getS q := by
  simp [Ctx.getS]
@[simp] theorem Ctx.getV_setK (c : Ctx) (r : BitVec 3) (x : Bool) (q : BitVec 5) : (c.setK r x).getV q = c.getV q := by
  simp [Ctx.getV]

end Sys2Proof.Machine
end

