-- ==== Sys2Proof/Laws/Issue.lean ====
section
/-! SUPPORT. What the issue of one instruction can do, said once: each end of an instruction's own effect, and what counting
an issue leaves alone (R56, R57, R201, R204). -/

namespace Sys2Proof.Machine

/-! ## Counting -/

/-- Counting an issue changes COUNT of the issuing context alone. -/
theorem countIssue_eq (s : State) : ∃ n, countIssue s = s ∨ countIssue s = s.setMe { s.me with wdogCount := n } := by
  unfold countIssue
  exact ⟨s.me.wdogCount + 1, by simp only []; split_ifs <;> simp⟩

theorem countIssue_cases {P : State → Prop} (s : State) (h0 : P s) (h1 : ∀ n, P (s.setMe { s.me with wdogCount := n })) :
    P (countIssue s) := by
  obtain ⟨n, h | h⟩ := countIssue_eq s <;> rw [h]
  · exact h0
  · exact h1 n

@[simp] theorem countIssue_curCore (s : State) : (countIssue s).curCore = s.curCore := by
  refine countIssue_cases (P := fun t => t.curCore = s.curCore) s rfl fun _ => rfl
@[simp] theorem countIssue_curCtx (s : State) : (countIssue s).curCtx = s.curCtx := by
  refine countIssue_cases (P := fun t => t.curCtx = s.curCtx) s rfl fun _ => rfl
@[simp] theorem countIssue_me_s (s : State) : (countIssue s).me.s = s.me.s := by
  refine countIssue_cases (P := fun t => t.me.s = s.me.s) s rfl fun _ => by simp
@[simp] theorem countIssue_me_v (s : State) : (countIssue s).me.v = s.me.v := by
  refine countIssue_cases (P := fun t => t.me.v = s.me.v) s rfl fun _ => by simp
@[simp] theorem countIssue_me_k (s : State) : (countIssue s).me.k = s.me.k := by
  refine countIssue_cases (P := fun t => t.me.k = s.me.k) s rfl fun _ => by simp
@[simp] theorem countIssue_me_pc (s : State) : (countIssue s).me.pc = s.me.pc := by
  refine countIssue_cases (P := fun t => t.me.pc = s.me.pc) s rfl fun _ => by simp
@[simp] theorem countIssue_me_dzt (s : State) : (countIssue s).me.dzt = s.me.dzt := by
  refine countIssue_cases (P := fun t => t.me.dzt = s.me.dzt) s rfl fun _ => by simp
@[simp] theorem countIssue_me_dt (s : State) : (countIssue s).me.dt = s.me.dt := by
  refine countIssue_cases (P := fun t => t.me.dt = s.me.dt) s rfl fun _ => by simp
@[simp] theorem countIssue_me_scale (s : State) : (countIssue s).me.scale = s.me.scale := by
  refine countIssue_cases (P := fun t => t.me.scale = s.me.scale) s rfl fun _ => by simp
@[simp] theorem countIssue_getS (s : State) (r : BitVec 6) : (countIssue s).me.getS r = s.me.getS r := by simp [Ctx.getS]
@[simp] theorem countIssue_getV (s : State) (r : BitVec 5) : (countIssue s).me.getV r = s.me.getV r := by simp [Ctx.getV]
@[simp] theorem countIssue_getK (s : State) (r : BitVec 3) : (countIssue s).me.getK r = s.me.getK r := by simp [Ctx.getK]
@[simp] theorem countIssue_readS (s : State) (a : SReg) : readS (countIssue s).me a = readS s.me a := by simp [readS]
@[simp] theorem countIssue_readSC (s : State) (a : SCon) : readSC (countIssue s).me a = readSC s.me a := by
  cases a <;> simp [readSC]
@[simp] theorem countIssue_readK (s : State) (a : KReg) : readK (countIssue s).me a = readK s.me a := by simp [readK]
@[simp] theorem countIssue_readV (s : State) (a : VReg) : readV (countIssue s).me a = readV s.me a := by simp [readV]
@[simp] theorem countIssue_readVM (s : State) (a : VSrc) : readVM (countIssue s).me a = readVM s.me a := by simp [readVM]
@[simp] theorem countIssue_mAddress (s : State) (a : Addr) : mAddress (countIssue s).me a = mAddress s.me a := by
  simp [mAddress]

/-! ## The ends of an issue -/

variable {i : Instr} {lat : State → Nat} {body : State → Eff} {s t : State}

theorem issueLat_done (h : Issues i s) (hb : body (countIssue s) = .done t) :
    issueLat i lat body s = .next (retiredAfter i (lat (countIssue s)) s t) := by
  obtain ⟨h1, h2, h3⟩ := h; simp [issueLat, h1, h2, h3, hb, retiredAfter]

theorem issue_done (h : Issues i s) (hb : body (countIssue s) = .done t) : issue i body s = .next (retired i s t) :=
  issueLat_done h hb

theorem issue_goto {pc : Word} (h : Issues i s) (hb : body (countIssue s) = .goto t pc) :
    issue i body s = .next (retiredTo i pc t) := by
  obtain ⟨h1, h2, h3⟩ := h; simp [issue, issueLat, h1, h2, h3, hb, retiredTo]

theorem issue_gone (h : Issues i s) (hb : body (countIssue s) = .gone t) : issue i body s = .next (retireGone t) := by
  obtain ⟨h1, h2, h3⟩ := h; simp [issue, issueLat, h1, h2, h3, hb]

theorem issueLat_trap {c : Cause} {e : Word} (h : Issues i s) (hb : body (countIssue s) = .trap c e) :
    issueLat i lat body s = .next (trapMe (countIssue s) c e) := by
  obtain ⟨h1, h2, h3⟩ := h; simp [issueLat, h1, h2, h3, hb]

theorem issue_trap {c : Cause} {e : Word} (h : Issues i s) (hb : body (countIssue s) = .trap c e) :
    issue i body s = .next (trapMe (countIssue s) c e) := issueLat_trap h hb

theorem issueLat_hold (h : Issues i s) (hb : body (countIssue s) = .hold t) :
    issueLat i lat body s = .next (holdMe (t.setMe { t.me with wdogCount := s.me.wdogCount })) := by
  obtain ⟨h1, h2, h3⟩ := h; simp [issueLat, h1, h2, h3, hb]

/-- An instruction whose guards fail does nothing but retire (R56). -/
theorem issueLat_skip (h1 : exchangeFault i s = none) (h2 : sourcesReady i s.me s.now = true)
    (h3 : guardsPass i.header s.me = false) :
    issueLat i lat body s = .next (advance i.header (s.me.pc + 16) false (countIssue s)) := by
  simp [issueLat, h1, h2, h3]

/-- An instruction that EXCHANGE applies to raises it and does nothing else (R218). -/
theorem issueLat_exchange {code : Word} (h : exchangeFault i s = some code) :
    issueLat i lat body s = .next (trapMe (countIssue s) .exchange code) := by simp [issueLat, h]

/-- An instruction whose sources are not ready is held (R109). -/
theorem issueLat_wait (h1 : exchangeFault i s = none) (h2 : sourcesReady i s.me s.now = false) :
    issueLat i lat body s = .next (holdMe s) := by simp [issueLat, h1, h2]

/-- Every next state of an issue is one of these. -/
theorem issueLat_cases (h : issueLat i lat body s = .next t) :
    (∃ code, exchangeFault i s = some code ∧ t = trapMe (countIssue s) .exchange code) ∨
    (exchangeFault i s = none ∧ sourcesReady i s.me s.now = false ∧ t = holdMe s) ∨
    (exchangeFault i s = none ∧ sourcesReady i s.me s.now = true ∧ guardsPass i.header s.me = false ∧
      t = advance i.header (s.me.pc + 16) false (countIssue s)) ∨
    (Issues i s ∧
      ((∃ u, body (countIssue s) = .done u ∧ t = retiredAfter i (lat (countIssue s)) s u) ∨
       (∃ u pc, body (countIssue s) = .goto u pc ∧ t = retire i (lat (countIssue s)) pc true u) ∨
       (∃ u, body (countIssue s) = .gone u ∧ t = retireGone u) ∨
       (∃ c e, body (countIssue s) = .trap c e ∧ t = trapMe (countIssue s) c e) ∨
       (∃ u c e, body (countIssue s) = .trapWith u c e ∧ t = trapMe u c e) ∨
       (∃ u, body (countIssue s) = .hold u ∧ t = holdMe (u.setMe { u.me with wdogCount := s.me.wdogCount })))) := by
  unfold issueLat at h
  split at h
  · exact .inl ⟨_, ‹_›, by simpa using h.symm⟩
  · next hx =>
    split at h
    · next hs => exact .inr (.inl ⟨hx, by simpa using hs, by simpa using h.symm⟩)
    · next hs =>
      have hs : sourcesReady i s.me s.now = true := by simpa using hs
      simp only [] at h
      split at h
      · next hg =>
        refine .inr (.inr (.inr ⟨⟨hx, hs, hg⟩, ?_⟩))
        split at h <;> simp_all [retiredAfter]
      · next hg => exact .inr (.inr (.inl ⟨hx, hs, by simpa using hg, by simpa using h.symm⟩))

end Sys2Proof.Machine
end

