-- ==== Sys2Proof/Laws/Checks.lean ====
section
/-! SUPPORT. What each shared check and hold lets through, said once: accesses of local memory, releases, reports and
admissions (R276, R293, R326, R371, R381), and that counting an issue changes none of them. -/

namespace Sys2Proof.Machine

variable {s t : State} {a : Word} {n al : Nat}

/-! ## Counting an issue changes no check -/

theorem countIssue_core (s : State) (c : CoreId) (h : c ≠ s.curCore) : (countIssue s).core c = s.core c := by
  refine countIssue_cases (P := fun t => t.core c = s.core c) s rfl fun _ => by simp [State.setMe, State.setCtx, h]

theorem countIssue_field {α : Type} (f : State → α) (h : ∀ (s : State) x, f (s.setMe x) = f s) (s : State) :
    f (countIssue s) = f s := countIssue_cases (P := fun t => f t = f s) s rfl fun _ => h _ _

theorem countIssue_coreField {α : Type} (f : Core → α) (h : ∀ (k : Core) n x, f (k.setCtx n x) = f k) (s : State) :
    f (countIssue s).myCore = f s.myCore := by
  refine countIssue_cases (P := fun t => f t.myCore = f s.myCore) s rfl fun _ => ?_
  simp [State.setMe, State.setCtx, State.myCore, h]

theorem countIssue_ctxField {α : Type} (f : Ctx → α) (h : ∀ (c : Ctx) x, f { c with wdogCount := x } = f c) (s : State) :
    f (countIssue s).me = f s.me := by
  refine countIssue_cases (P := fun t => f t.me = f s.me) s rfl fun _ => by simp [h]

@[simp] theorem countIssue_inc (s : State) : (countIssue s).me.inc = s.me.inc := countIssue_ctxField (·.inc) (fun _ _ => rfl) s
@[simp] theorem countIssue_link (s : State) : (countIssue s).me.link = s.me.link := countIssue_ctxField (·.link) (fun _ _ => rfl) s
@[simp] theorem countIssue_linkSpilled (s : State) : (countIssue s).me.linkSpilled = s.me.linkSpilled :=
  countIssue_ctxField (·.linkSpilled) (fun _ _ => rfl) s
@[simp] theorem countIssue_linkCap (s : State) : (countIssue s).me.linkCap = s.me.linkCap :=
  countIssue_ctxField (·.linkCap) (fun _ _ => rfl) s
@[simp] theorem countIssue_linkBase (s : State) : (countIssue s).me.linkBase = s.me.linkBase :=
  countIssue_ctxField (·.linkBase) (fun _ _ => rfl) s
@[simp] theorem countIssue_resid (s : State) : (countIssue s).me.resid = s.me.resid := countIssue_ctxField (·.resid) (fun _ _ => rfl) s
@[simp] theorem countIssue_reports (s : State) : (countIssue s).me.reports = s.me.reports :=
  countIssue_ctxField (·.reports) (fun _ _ => rfl) s
@[simp] theorem countIssue_pend (s : State) : (countIssue s).me.pend = s.me.pend := countIssue_ctxField (·.pend) (fun _ _ => rfl) s
@[simp] theorem countIssue_rings (s : State) : (countIssue s).myCore.rings = s.myCore.rings :=
  countIssue_coreField (·.rings) (fun _ _ _ => rfl) s
@[simp] theorem countIssue_journal (s : State) : (countIssue s).myCore.journal = s.myCore.journal :=
  countIssue_coreField (·.journal) (fun _ _ _ => rfl) s
@[simp] theorem countIssue_sp (s : State) : (countIssue s).myCore.sp = s.myCore.sp := countIssue_coreField (·.sp) (fun _ _ _ => rfl) s
@[simp] theorem countIssue_coreMem (s : State) : (countIssue s).myCore.mem = s.myCore.mem :=
  countIssue_coreField (·.mem) (fun _ _ _ => rfl) s
@[simp] theorem countIssue_corePoison (s : State) : (countIssue s).myCore.poison = s.myCore.poison :=
  countIssue_coreField (·.poison) (fun _ _ _ => rfl) s
@[simp] theorem countIssue_handling (s : State) : (countIssue s).myCore.handling = s.myCore.handling :=
  countIssue_coreField (·.handling) (fun _ _ _ => rfl) s
@[simp] theorem countIssue_net (s : State) : (countIssue s).net = s.net := countIssue_field (·.net) (fun _ _ => rfl) s
@[simp] theorem countIssue_dies (s : State) : (countIssue s).dies = s.dies := countIssue_field (·.dies) (fun _ _ => rfl) s
@[simp] theorem countIssue_clusters (s : State) : (countIssue s).clusters = s.clusters := countIssue_field (·.clusters) (fun _ _ => rfl) s
@[simp] theorem countIssue_tenants (s : State) : (countIssue s).tenants = s.tenants := countIssue_field (·.tenants) (fun _ _ => rfl) s
@[simp] theorem countIssue_sectors (s : State) : (countIssue s).sectors = s.sectors := countIssue_field (·.sectors) (fun _ _ => rfl) s
@[simp] theorem countIssue_nextId (s : State) : (countIssue s).nextId = s.nextId := countIssue_field (·.nextId) (fun _ _ => rfl) s
@[simp] theorem countIssue_svc (s : State) : (countIssue s).svc = s.svc := countIssue_field (·.svc) (fun _ _ => rfl) s

theorem countIssue_ctx (s : State) (n : CtxNum) (h : n ≠ s.curCtx) : (countIssue s).myCore.ctx n = s.myCore.ctx n := by
  refine countIssue_cases (P := fun t => t.myCore.ctx n = s.myCore.ctx n) s rfl fun _ => ?_
  simp [State.setMe, State.setCtx, State.myCore, h]

@[simp] theorem countIssue_scratch (s : State) : (countIssue s).myCore.scratch = s.myCore.scratch := by simp [Core.scratch]
@[simp] theorem countIssue_myHandle (s : State) : (countIssue s).myHandle = s.myHandle := by
  have h := countIssue_inc s
  simp only [State.me, countIssue_curCore, countIssue_curCtx] at h
  simp only [State.myHandle, State.handle, countIssue_curCore, countIssue_curCtx, h]

theorem ringRefuses_rings {k k' : Core} (h : k.rings = k'.rings) (g : BitVec 28) (x m : Nat) (w : Bool) :
    ringRefuses k g x m w = ringRefuses k' g x m w := by simp [ringRefuses, h]

@[simp] theorem countIssue_localOk (s : State) (w : Bool) : LocalOk (countIssue s) a n al w ↔ LocalOk s a n al w := by
  unfold LocalOk; rw [ringRefuses_rings (countIssue_rings s)]; simp
@[simp] theorem countIssue_localClean (s : State) : LocalClean (countIssue s) a n ↔ LocalClean s a n := by simp [LocalClean]
@[simp] theorem countIssue_localNat (s : State) : localNat (countIssue s) a n = localNat s a n := by simp [localNat]
@[simp] theorem countIssue_journalHolds (s : State) (x : CtxNum) (i : BitVec 8) :
    journalHolds (countIssue s).myCore x i = journalHolds s.myCore x i := by simp [journalHolds]
@[simp] theorem countIssue_journalBusy (s : State) (x : CtxNum) (i : BitVec 8) :
    journalBusy (countIssue s).myCore x i = journalBusy s.myCore x i := by simp [journalBusy]
@[simp] theorem countIssue_reportsSettled (s : State) : reportsSettled (countIssue s) = reportsSettled s := by
  simp [reportsSettled, crossPending]
@[simp] theorem countIssue_mayRelease (s : State) : MayRelease (countIssue s) ↔ MayRelease s := by simp [MayRelease]

/-! ## Local memory -/

/-- An access of LS that `LocalOk` describes goes to local memory at its address. -/
theorem withAccess_local {k : AccKind} {go : State → Place → Eff} (h : LocalOk s a n al (k == .write)) :
    withAccess s a n al k go = go s (.here a.toNat) := by
  obtain ⟨h1, h2, h3, h4⟩ := h
  have h3 : ¬s.myCore.scratch < a.toNat + n := by omega
  simp [withAccess, h1, h2, h3, h4]

theorem cleanBytes_local (h : LocalClean s a n) :
    cleanBytes (s.myCore.readLocal a.toNat n) = (memBytes s.myCore.mem a.toNat n, none) := by
  simpa [cleanBytes, memBytes, Core.readLocal, Function.comp_def, LocalClean] using h

/-- A load of clean local bytes gives them. -/
theorem readBytes_local {hint : BitVec 2} {sync : Bool} {k : State → List Byte → Eff} (h : LocalOk s a n al false)
    (hc : LocalClean s a n) : readBytes a n al hint sync s k = k s (memBytes s.myCore.mem a.toNat n) := by
  rw [readBytes, readPoisoned, withAccess_local (k := .read) h]
  simp [deliver, cleanBytes_local hc]

/-- A store to local memory writes its bytes and nothing else. -/
theorem storeBytes_local {bs : List Byte} {kind : BitVec 3} {j : JEntry} {hint : BitVec 2}
    (h : LocalOk s a bs.length al true) :
    storeBytes a al bs kind j hint s = .done (s.setMyCore (s.myCore.writeLocal a.toNat (good bs))) := by
  rw [storeBytes, withAccess_local (k := .write) h]

/-! ## Purses -/

theorem askPurse_cur {tn : Tenant} {fab : Bool} {d : Die} {w : Ticket} {c : Nat} (h : askPurse s tn fab d w c = .ok t) :
    t.curCore = s.curCore ∧ t.curCtx = s.curCtx := by
  unfold askPurse at h
  dsimp only [] at h
  split_ifs at h <;> cases h <;> exact ⟨rfl, rfl⟩

theorem askItems_cur {tn : Tenant} {fab : Bool} {d : Die} {w : Ticket} {cs : List Nat} {n : Nat}
    (h : askItems tn fab d w n cs s = .ok t) : t.curCore = s.curCore ∧ t.curCtx = s.curCtx := by
  induction cs generalizing s n with
  | nil => simp only [askItems, Except.ok.injEq] at h; subst h; exact ⟨rfl, rfl⟩
  | cons c cs ih =>
    simp only [askItems] at h
    split at h
    · cases h
    · next u hu => exact ⟨(ih h).1.trans (askPurse_cur hu).1, (ih h).2.trans (askPurse_cur hu).2⟩

theorem askBoth_cur {tn : Tenant} {d : Die} {w : Ticket} {m f : Nat} {cs fs : List Nat}
    (h : askBoth tn d w m f cs fs s = .ok t) : t.curCore = s.curCore ∧ t.curCtx = s.curCtx := by
  unfold askBoth at h
  split at h
  · cases h
  · next u hu =>
    split at h
    · cases h
    · next v hv =>
      cases h
      exact ⟨(askItems_cur hv).1.trans (askItems_cur hu).1, (askItems_cur hv).2.trans (askItems_cur hu).2⟩

/-- An admission leaves the issuing context where it is. -/
theorem admitItems_cur {ms fs : List Nat} (h : admitItems s ms fs = .ok t) : t.curCore = s.curCore ∧ t.curCtx = s.curCtx := by
  unfold admitItems at h
  dsimp only [] at h
  split at h
  · cases h
  · next u hu =>
    cases h
    have := askBoth_cur hu
    split
    · exact this
    · exact this

/-- A charge after the fact changes the tenants' tables alone. -/
theorem chargeLinks_eq (s : State) (tn : Tenant) (d : Die) (n b : Nat) : ∃ ts, chargeLinks s tn d n b = { s with tenants := ts } := by
  unfold chargeLinks
  dsimp only []
  split_ifs
  · exact ⟨s.tenants, rfl⟩
  · exact ⟨_, rfl⟩

theorem chargeForwards_eq (s : State) (tn : Tenant) (d dst : Die) (bs : List Nat) :
    ∃ ts, chargeForwards s tn d dst bs = { s with tenants := ts } := by
  unfold chargeForwards
  induction bs generalizing s with
  | nil => exact ⟨s.tenants, rfl⟩
  | cons b bs ih =>
    obtain ⟨ts, h⟩ := chargeLinks_eq s tn d (hops s d dst - 1) b
    obtain ⟨us, hu⟩ := ih { s with tenants := ts }
    rw [List.foldl_cons, h]
    exact ⟨us, hu⟩

/-- The admission of a request to one die: that of its items, and a change of the tenants' tables. -/
theorem admitAll_ok {bs : List Nat} {d : Die} (h : admitAll s bs d = .ok t) :
    ∃ u ts, admitItems s bs (if coreDie s.curCore = d then [] else bs) = .ok u ∧ t = { u with tenants := ts } := by
  unfold admitAll at h
  cases hu : admitItems s bs (if coreDie s.curCore = d then [] else bs) with
  | error e => rw [hu] at h; cases h
  | ok u =>
    rw [hu] at h
    obtain ⟨ts, hts⟩ := chargeForwards_eq u u.myTenant (coreDie u.curCore) d bs
    exact ⟨u, ts, rfl, by rw [← hts]; exact (Except.ok.inj h).symm⟩

theorem admit_cur {bs : List Nat} {d : Die} (h : admitAll s bs d = .ok t) : t.curCore = s.curCore ∧ t.curCtx = s.curCtx := by
  obtain ⟨u, ts, hu, rfl⟩ := admitAll_ok h
  have := admitItems_cur hu
  exact ⟨this.1, this.2⟩

/-! ## Holds -/

theorem withReports_ok {k : State → Eff} (h : reportsSettled s = true) : withReports s k = k s := by simp [withReports, h]

theorem withRelease_ok {k : State → Eff} (h : MayRelease s) : withRelease s k = k s := by
  simp [withRelease, h.1, withReports_ok h.2]

theorem withAdmission_ok {bs : List Nat} {d : Die} {k : State → Eff} (h : Admitted s bs d t) : withAdmission bs d k s = k t := by
  simp [withAdmission, h.1, h.2]

theorem withPacket_ok {bs : List Nat} {d : Die} {sync : Bool} {k : State → Eff} (h : Crosses s bs d sync t) :
    withPacket bs d sync k s = k t := by
  obtain ⟨h1, u, h2, rfl⟩ := h
  obtain ⟨x, hx⟩ := Option.isSome_iff_exists.mp h1
  simp [withPacket, hx, withAdmission_ok h2, (admit_cur h2.2).1]

theorem withPackets_ok {ms fs : List Nat} {ds : List Die} {k : State → Eff} (h : CrossesAll s ms fs ds t) :
    withPackets ms fs ds k s = k t := by
  obtain ⟨h0, h1, u, h2, rfl⟩ := h
  obtain ⟨x, hx⟩ := Option.isSome_iff_exists.mp h1
  have hf : (ds.filter (· != coreDie s.curCore)).any (linkFull s (coreDie s.curCore)) = false := by
    simpa [List.any_eq_false] using h0
  simp [withPackets, hf, hx, h2]

theorem withExchange_ok {d : Die} {sync : Bool} {k : State → Eff} (h : Exchanged s d sync t) : withExchange d sync k s = k t := by
  simp [withExchange, h.1, h.2.1, h.2.2]

theorem withRequest_ok {bs : List Nat} {d : Die} {sync : Bool} {reply : Nat} {k : State → Eff}
    (h : Requested s bs d sync reply t) : withRequest bs d sync reply k s = k t := by
  obtain ⟨h0, h1, u, h2, rfl⟩ := h
  obtain ⟨x, hx⟩ := Option.isSome_iff_exists.mp h1
  simp [withRequest, h0, hx, withAdmission_ok h2, (admit_cur h2.2).1]

theorem withRequests_ok {ms fs : List Nat} {ds : List Die} {reply : Nat} {k : State → Eff}
    (h : RequestedAll s ms fs ds reply t) : withRequests ms fs ds reply k s = k t := by
  obtain ⟨h0, h1, u, h2, rfl⟩ := h
  obtain ⟨x, hx⟩ := Option.isSome_iff_exists.mp h1
  have hu : ds.any (unserved s (coreDie s.curCore)) = false := by
    simpa [List.any_eq_false] using fun d hd => (h0 d hd).1
  have hf : ds.any (linkFull s (coreDie s.curCore)) = false := by
    simpa [List.any_eq_false] using fun d hd => (h0 d hd).2
  simp [withRequests, hu, hf, hx, h2]

end Sys2Proof.Machine
end

