-- ==== Sys2Proof/Laws/Encoding.lean ====
section
/-! SUPPORT. The formats of the encoding: unpacking a packed word gives its fields back, and so do slots and coded fields
(R55, R58, R62 to R67). -/

namespace Sys2Proof

/-- The low part of an appended vector. -/
theorem extract_append_low {m n : Nat} (x : BitVec m) (y : BitVec n) (lo len : Nat) (h : lo + len ≤ n) :
    (x ++ y).extractLsb' lo len = y.extractLsb' lo len := by
  ext i hi
  simp only [BitVec.getElem_extractLsb', BitVec.getLsbD_append]
  rw [if_pos (by omega)]

/-- The high part of an appended vector. -/
theorem extract_append_high {m n : Nat} (x : BitVec m) (y : BitVec n) (lo len : Nat) (h : n ≤ lo) :
    (x ++ y).extractLsb' lo len = x.extractLsb' (lo - n) len := by
  ext i hi
  simp only [BitVec.getElem_extractLsb', BitVec.getLsbD_append]
  rw [if_neg (by omega)]
  congr 1; omega

theorem RawR.unpack_pack (r : RawR) : RawR.unpack r.pack = r := by
  cases r
  simp only [RawR.unpack, RawR.pack, RawR.mk.injEq]
  simp (disch := omega) only [extract_append_low, extract_append_high, BitVec.extractLsb'_eq_self, Nat.sub_self, Nat.reduceSub, and_self]

theorem RawI.unpack_pack (r : RawI) : RawI.unpack r.pack = r := by
  cases r
  simp only [RawI.unpack, RawI.pack, RawI.mk.injEq]
  simp (disch := omega) only [extract_append_low, extract_append_high, BitVec.extractLsb'_eq_self, Nat.sub_self, Nat.reduceSub, and_self]

theorem RawB.unpack_pack (r : RawB) : RawB.unpack r.pack = r := by
  cases r
  simp only [RawB.unpack, RawB.pack, RawB.mk.injEq]
  simp (disch := omega) only [extract_append_low, extract_append_high, BitVec.extractLsb'_eq_self, Nat.sub_self, Nat.reduceSub, and_self]

theorem RawM.unpack_pack (r : RawM) : RawM.unpack r.pack = r := by
  cases r
  simp only [RawM.unpack, RawM.pack, RawM.mk.injEq]
  simp (disch := omega) only [extract_append_low, extract_append_high, BitVec.extractLsb'_eq_self, Nat.sub_self, Nat.reduceSub, and_self]

theorem RawE.unpack_pack (r : RawE) : RawE.unpack r.pack = r := by
  cases r
  simp only [RawE.unpack, RawE.pack, RawE.mk.injEq]
  simp (disch := omega) only [extract_append_low, extract_append_high, BitVec.extractLsb'_eq_self, Nat.sub_self, Nat.reduceSub, and_self]

/-! ## Headers -/

/-- A bit is the field of one bit at its place. -/
theorem getLsbD_field {n : Nat} (x : BitVec n) (i : Nat) : x.getLsbD i = (x.extractLsb' i 1).getLsbD 0 := by simp

theorem Header.unpack_pack (h : Header) (op : BitVec 8) (fn : BitVec 4) : Header.unpack (h.pack op fn) = h := by
  obtain ⟨g0, a, g1, b, hint, dly, y⟩ := h
  simp only [Header.unpack, Header.pack, Header.mk.injEq]
  rw [getLsbD_field _ 15, getLsbD_field _ 19, getLsbD_field _ 28]
  simp (disch := omega) only [extract_append_low, extract_append_high, BitVec.extractLsb'_eq_self, Nat.sub_self, Nat.reduceSub]
  simp

theorem Header.pack_op (h : Header) (op : BitVec 8) (fn : BitVec 4) : (h.pack op fn).extractLsb' 0 8 = op := by
  simp (disch := omega) only [Header.pack, extract_append_low, BitVec.extractLsb'_eq_self]

theorem Header.pack_fn (h : Header) (op : BitVec 8) (fn : BitVec 4) : (h.pack op fn).extractLsb' 8 4 = fn := by
  simp (disch := omega) only [Header.pack, extract_append_low, extract_append_high, BitVec.extractLsb'_eq_self, Nat.sub_self]

/-- No header of an instruction fails check 1 of R70. -/
theorem Header.pack_fault (h : Header) (op : BitVec 8) (fn : BitVec 4) : headerFault (h.pack op fn) = none := by
  simp only [headerFault, List.find?_eq_none, List.mem_cons, List.not_mem_nil, or_false, forall_eq_or_imp, forall_eq]
  rw [getLsbD_field _ 22, getLsbD_field _ 23, getLsbD_field _ 29, getLsbD_field _ 30, getLsbD_field _ 31]
  simp (disch := omega) only [Header.pack, extract_append_low, extract_append_high, Nat.sub_self, Nat.reduceSub]
  simp

/-! ## Slots -/

theorem SReg.ofSlot_slot (a : SReg) : SReg.ofSlot a.slot = a := by
  obtain ⟨r, e⟩ := a; revert r e; decide +kernel
theorem VReg.ofSlot_slot (a : VReg) : VReg.ofSlot a.slot = a := by
  obtain ⟨r, e⟩ := a; revert r e; decide +kernel
theorem KReg.ofSlot_slot (a : KReg) : KReg.ofSlot a.slot = a := by
  obtain ⟨r, e⟩ := a; revert r e; decide +kernel
theorem MReg.ofSlot_slot (a : MReg) : MReg.ofSlot a.slot = a := by
  obtain ⟨r, e⟩ := a; revert r e; decide +kernel
theorem SCon.ofSlot_slot (a : SCon) : SCon.ofSlot a.slot = a := by
  cases a with
  | reg r e => revert r e; decide +kernel
  | con c => revert c; decide +kernel

/-! ## Coded fields -/

theorem Size.ofBits_bits (x : Size) : Size.ofBits x.bits = x := by cases x <;> rfl
theorem Tag.ofBits_bits (x : Tag) : Tag.ofBits x.bits = x := by cases x <;> rfl
theorem Scope.ofBits_bits (x : Scope) : Scope.ofBits x.bits = x := by cases x <;> rfl
theorem Ord.ofBits_bits (x : Ord) : Ord.ofBits x.bits = x := by cases x <;> rfl
theorem AOp.ofBits_bits (x : AOp) : AOp.ofBits x.bits = x := by cases x <;> rfl
theorem FKind.ofBits_bits (x : FKind) : FKind.ofBits x.bits = x := by cases x <;> rfl
theorem Rnd.ofBits_bits (x : Rnd) : Rnd.ofBits x.bits = x := by cases x <;> rfl

end Sys2Proof
end

