-- ==== Sys2Proof/Laws/Ends.lean ====
section
/-! SUPPORT. What the shared operations do, said once: retirement, a hold, a precise trap, and everything that an access, a
release, an admission, a race check and a delivery of bytes can answer (R57, R201, R276, R293, R326, R345, R371, R380, R417). -/

namespace Sys2Proof.Machine

variable {s t : State}

/-! ## Retirement (R57) -/

/-- Retirement changes the issuing core alone. -/
theorem retire_eq (i : Instr) (lat : Nat) (pc : Word) (j : Bool) (s : State) :
    ∃ k, retire i lat pc j s = s.setMyCore k := by
  simp only [retire, advance]
  exact ⟨_, State.setMyCore_setMyCore s _ _⟩

theorem retire_me (i : Instr) (lat : Nat) (pc : Word) (j : Bool) (s : State) :
    (retire i lat pc j s).me =
      let c := setReady i s.now lat s.me
      { c with
        pc := pc, pend := .none, sent := false, nextIssue := s.now + 1 + i.header.dly.toNat
        fline := if j then none else c.fline
        wdogCount := if i.header.yld && !inPhase s.myCore s.curCtx then 0 else c.wdogCount
        passOver := (c.passOver && !s.myCore.passed.contains s.curCtx) || (i.header.yld && !inPhase s.myCore s.curCtx) } := by
  simp [retire, advance, Core.usedSlot, State.me, State.ctx, State.setMyCore, State.setMe, State.setCtx, State.myCore, Core.ctx,
    Core.setCtx, inPhase, State.now, State.cycleAt, State.die]

@[simp] theorem retire_pc (i : Instr) (lat : Nat) (pc : Word) (j : Bool) (s : State) : (retire i lat pc j s).me.pc = pc := by
  rw [retire_me]
@[simp] theorem retire_s (i : Instr) (lat : Nat) (pc : Word) (j : Bool) (s : State) : (retire i lat pc j s).me.s = s.me.s := by
  rw [retire_me]; rfl
@[simp] theorem retire_v (i : Instr) (lat : Nat) (pc : Word) (j : Bool) (s : State) : (retire i lat pc j s).me.v = s.me.v := by
  rw [retire_me]; rfl
@[simp] theorem retire_k (i : Instr) (lat : Nat) (pc : Word) (j : Bool) (s : State) : (retire i lat pc j s).me.k = s.me.k := by
  rw [retire_me]; rfl
@[simp] theorem retire_flags (i : Instr) (lat : Nat) (pc : Word) (j : Bool) (s : State) :
    (retire i lat pc j s).me.flags = s.me.flags := by rw [retire_me]; rfl

/-- Another context of the core stands as before. -/
theorem retire_ctx (i : Instr) (lat : Nat) (pc : Word) (j : Bool) (s : State) {n : CtxNum} (h : n ≠ s.curCtx) :
    (retire i lat pc j s).myCore.ctx n = s.myCore.ctx n := by
  have h' : n.toNat ≠ s.curCtx.toNat := toNat_ne h
  simp [retire, advance, Core.usedSlot, State.setMe, State.setCtx, State.myCore, State.setMyCore, Core.ctx, Core.setCtx, h']

/-- Another core stands as before. -/
theorem retire_core (i : Instr) (lat : Nat) (pc : Word) (j : Bool) (s : State) {c : CoreId} (h : c ≠ s.curCore) :
    (retire i lat pc j s).core c = s.core c := by simp [retire, advance, State.setMe, State.setCtx, State.setMyCore, h]

/-! ## A hold (R201) -/

@[simp] theorem holdMe_me (s : State) : (holdMe s).me = s.me := by
  simp [holdMe, State.me, State.ctx, State.setMyCore, State.myCore, Core.ctx]

theorem holdMe_core (s : State) {c : CoreId} (h : c ≠ s.curCore) : (holdMe s).core c = s.core c := by
  simp [holdMe, State.setMyCore, h]

/-! ## A precise trap (R380, R389) -/

/-- What leaves the purses changes the tenants' tables alone (R372). -/
theorem leavePurses_eq (s : State) (c : CoreId) (n : CtxNum) : ∃ ts, leavePurses s c n = { s with tenants := ts } := by
  simp only [leavePurses, forgetTicket, List.foldl_cons, List.foldl_nil]
  split_ifs <;> exact ⟨_, rfl⟩

theorem takeTrap_eq {core : CoreId} {n : CtxNum} (h : n ≠ 15) (c : Cause) (e pc : Word) (async : Bool) :
    ∃ k ts, takeTrap s core n c e pc async = { s.setCore core k with tenants := ts } := by
  simp only [takeTrap, if_neg h]
  obtain ⟨ts, hts⟩ := leavePurses_eq _ _ _
  exact ⟨_, ts, hts⟩

/-- A trap of a context other than the handler changes the issuing core, and at the purses what its request held there. -/
theorem trapMe_eq (h : s.curCtx ≠ 15) (c : Cause) (e : Word) : ∃ k ts, trapMe s c e = { s.setMyCore k with tenants := ts } := by
  obtain ⟨k, ts, hk⟩ := takeTrap_eq (s := s) (core := s.curCore) h c e s.me.pc false
  rw [trapMe, hk]
  let u : Core := ({ s.setCore s.curCore k with tenants := ts } : State).myCore
  refine ⟨{ u.usedSlot s.curCtx with spent := u.passed }, ts, ?_⟩
  simp only [u, State.setMyCore, State.setCore, sparsePut_put]

/-! ## What the checks answer -/

/-- Every answer of an access: misaligned, beyond the scratchpad, refused by a ring, local, or on a page. -/
theorem withAccess_cases (s : State) (a : Word) (n al : Nat) (k : AccKind) (go : State → Place → Eff) :
    (a.toNat % al ≠ 0 ∧ withAccess s a n al k go = .trap .align a)
    ∨ (a.toNat % al = 0 ∧ isLocal a = true ∧ s.myCore.scratch < a.toNat + n ∧ withAccess s a n al k go = .trap .xlatePerm a)
    ∨ (∃ r, a.toNat % al = 0 ∧ isLocal a = true ∧ a.toNat + n ≤ s.myCore.scratch
        ∧ ringRefuses s.myCore s.myHandle a.toNat n (k == .write) = some r
        ∧ withAccess s a n al k go = .trap .ring (BitVec.ofNat 64 r))
    ∨ (LocalOk s a n al (k == .write) ∧ withAccess s a n al k go = go s (.here a.toNat))
    ∨ (a.toNat % al = 0 ∧ isLocal a = false ∧ withAccess s a n al k go = withPage s a k (fun s p l => go s (.mem p l))) := by
  unfold withAccess LocalOk
  by_cases h1 : a.toNat % al = 0
  · by_cases h2 : isLocal a = true
    · by_cases h3 : s.myCore.scratch < a.toNat + n
      · exact .inr (.inl ⟨h1, h2, h3, by simp [h1, h2, h3]⟩)
      · cases h4 : ringRefuses s.myCore s.myHandle a.toNat n (k == .write) with
        | some r => exact .inr (.inr (.inl ⟨r, h1, h2, by omega, rfl, by simp [h1, h2, h3]⟩))
        | none => exact .inr (.inr (.inr (.inl ⟨⟨h1, h2, by omega, rfl⟩, by simp [h1, h2, h3]⟩)))
    · exact .inr (.inr (.inr (.inr ⟨h1, by simpa using h2, by simp [h1, h2]⟩)))
  · exact .inl ⟨h1, by simp [h1]⟩

theorem withReports_cases (s : State) (k : State → Eff) :
    (reportsSettled s = true ∧ withReports s k = k s) ∨ (reportsSettled s = false ∧ withReports s k = .hold s) := by
  cases h : reportsSettled s <;> simp [withReports, h]

theorem withRelease_cases (s : State) (k : State → Eff) :
    (MayRelease s ∧ withRelease s k = k s) ∨ (¬MayRelease s ∧ withRelease s k = .hold s) := by
  unfold MayRelease withRelease withReports
  cases journalHolds s.myCore s.curCtx s.me.inc <;> cases reportsSettled s <;> simp

theorem withRace_cases (s : State) (a : Word) (gs : List Gran) (w sync : Bool) (h : TillHits) (k : State → Eff) :
    (∃ c, checkGrans s (partyOf s s.curCore s.curCtx) gs w sync h = .error c ∧ withRace s a gs w sync h k = .trap c a)
    ∨ (∃ t, checkGrans s (partyOf s s.curCore s.curCtx) gs w sync h = .ok t ∧ withRace s a gs w sync h k = k t) := by
  cases hc : checkGrans s (partyOf s s.curCore s.curCtx) gs w sync h <;> simp [withRace, hc]

theorem withLsOrder_cases (s : State) (k : State → Eff) :
    (journalBusy s.myCore s.curCtx s.me.inc = false ∧ s.me.reports = [] ∧ withLsOrder s k = k s)
    ∨ ((journalBusy s.myCore s.curCtx s.me.inc = true ∨ s.me.reports ≠ []) ∧ withLsOrder s k = .hold s) := by
  cases h : journalBusy s.myCore s.curCtx s.me.inc <;> cases hr : s.me.reports <;> simp [withLsOrder, h, hr]

/-- Bytes are delivered as they are, or, when one of them is poisoned, as zeros with the report of its address. -/
theorem deliver_cases (s : State) (a : Word) (bs : List PByte) (k : State → List Byte → Eff) :
    (bs.any (·.2) = false ∧ deliver s a bs k = k s (bs.map (·.1)))
    ∨ (bs.any (·.2) = true ∧ ∃ i, deliver s a bs k = k (consumed s (a + BitVec.ofNat 64 i)) (bs.map (fun _ => 0))) := by
  cases h : bs.any (·.2)
  · exact .inl ⟨rfl, by simp [deliver, cleanBytes, h]⟩
  · exact .inr ⟨rfl, (bs.takeWhile (fun b => !b.2)).length, by simp only [deliver, cleanBytes, h, if_true]⟩

end Sys2Proof.Machine
end

