-- ==== Sys2Proof/Laws/Memory.lean ====
section
/-! SUPPORT. Memories: reading after writing, and the canonical form, which every operation that writes a memory of the module
keeps. -/

namespace Sys2Proof.Machine

variable {m : List Host.Cell} {s : State}

/-! ## Reading after writing -/

theorem memByte_memSet (m : List Host.Cell) (a x : Nat) (b : Byte) :
    memByte (memSet m a b) x = if x = a then b else memByte m x := sparseGet_assign 0 b m a x

theorem memByte_memWrite (m : List Host.Cell) (a x : Nat) (bs : List Byte) :
    memByte (memWrite m a bs) x = if a ≤ x ∧ x < a + bs.length then bs.getD (x - a) 0 else memByte m x := by
  induction bs generalizing m a with
  | nil => simp [memWrite]
  | cons b t ih =>
    simp only [memWrite, ih, memByte_memSet, List.length_cons]
    by_cases h : x = a
    · subst h; simp
    · by_cases h' : a + 1 ≤ x ∧ x < a + 1 + t.length
      · obtain ⟨n, hn⟩ : ∃ n, x - a = n + 1 := ⟨x - a - 1, by omega⟩
        have hx : x - (a + 1) = n := by omega
        rw [if_pos h', if_pos (by omega), hn, hx]; simp
      · rw [if_neg h', if_neg h, if_neg (by omega)]

/-- Outside the bytes it writes a write leaves memory alone. -/
theorem memWrite_other {a x : Nat} {bs : List Byte} (h : x < a ∨ a + bs.length ≤ x) :
    memByte (memWrite m a bs) x = memByte m x := by rw [memByte_memWrite, if_neg (by omega)]

/-! ## The canonical form -/

@[simp] theorem memWf_nil : memWf [] = true := rfl

theorem memSet_wf (a : Nat) (b : Byte) (h : memWf m = true) : memWf (memSet m a b) = true := sparseAssign_wf 0 b a h

theorem memWrite_wf (a : Nat) (bs : List Byte) (h : memWf m = true) : memWf (memWrite m a bs) = true := by
  induction bs generalizing m a with
  | nil => exact h
  | cons b t ih => exact ih _ (memSet_wf a b h)

theorem memFilter_wf (p : Host.Cell → Bool) (h : memWf m = true) : memWf (m.filter p) = true := sparseFilter_wf 0 p h

/-- Writing a list of cells one by one keeps the form. -/
theorem memFold_wf (base : Nat) (cells : List Host.Cell) (h : memWf m = true) :
    memWf (cells.foldl (fun m c => memSet m (base + c.1) c.2) m) = true := by
  induction cells generalizing m with
  | nil => exact h
  | cons c t ih => exact ih (memSet_wf _ _ h)

/-- A property of the state that every step of a fold keeps holds after it. -/
theorem foldl_keeps {α β : Type} {P : β → Prop} {f : β → α → β} (hf : ∀ b a, P b → P (f b a)) (l : List α) {b : β} (h : P b) :
    P (l.foldl f b) := by
  induction l generalizing b with
  | nil => exact h
  | cons a t ih => exact ih (hf b a h)

/-- The form depends on the three memories alone. -/
theorem memOk_of_eq {t : State} (h : s.memOk) (h1 : t.mem = s.mem) (h2 : t.stack = s.stack) (h3 : t.hostMem = s.hostMem) :
    t.memOk := by unfold State.memOk at *; rw [h1, h2, h3]; exact h

theorem reset_memOk : State.reset.memOk := ⟨rfl, rfl, rfl⟩

theorem poisonBack_memOk (g : Nat) (h : s.memOk) : (poisonBack s g).memOk := by
  unfold poisonBack
  split_ifs <;> exact h

theorem writeBackHost_memOk (g : Nat) (h : s.memOk) : (writeBackHost s g).memOk := memOk_of_eq h rfl rfl rfl

theorem writeBackFlat_memOk (b : Nat) (h : s.memOk) : (writeBackFlat s b).memOk := by
  refine foldl_keeps (P := State.memOk) (fun s i h => ?_) _ h
  dsimp only []
  split_ifs
  · exact writeBackHost_memOk _ h
  · exact h
  · exact poisonBack_memOk _ h
  · exact ⟨h.1, memWrite_wf _ _ h.2.1, h.2.2⟩
  · exact poisonBack_memOk _ h

theorem clearStack_memOk (p n : Nat) (h : s.memOk) : (clearStack s p n).memOk :=
  ⟨memFilter_wf _ h.1, memFilter_wf _ h.2.1, h.2.2⟩

theorem storeStack_memOk (g : Nat) (bs : List Byte) (h : s.memOk) : (storeStack s g bs).memOk :=
  ⟨h.1, memWrite_wf _ _ h.2.1, h.2.2⟩

theorem placeBytes_memOk (p : Nat) (bs : List Byte) (h : s.memOk) : (placeBytes s p bs).memOk :=
  foldl_keeps (P := State.memOk) (fun _ _ h => storeStack_memOk _ _ h) _ ⟨memWrite_wf _ _ h.1, h.2.1, h.2.2⟩

theorem moveBytes_memOk (a b n : Nat) (h : s.memOk) : (moveBytes s a b n).memOk := by
  unfold moveBytes
  dsimp only []
  split_ifs
  · exact ⟨h.1, h.2.1, memFold_wf _ _ (memFilter_wf _ h.2.2)⟩
  · exact ⟨h.1, h.2.1, memFold_wf _ _ (memFilter_wf _ h.2.2)⟩
  · exact foldl_keeps (P := State.memOk) (fun _ _ h => storeStack_memOk _ _ h) _ ⟨memFold_wf _ _ (memFilter_wf _ h.1), h.2.1, h.2.2⟩
  · exact foldl_keeps (P := State.memOk) (fun _ _ h => storeStack_memOk _ _ h) _ ⟨memFold_wf _ _ (memFilter_wf _ h.1), h.2.1, h.2.2⟩

/-! ## The three memories under setters of other parts -/

@[simp] theorem setCore_memOk (s : State) (c : CoreId) (k : Core) : (s.setCore c k).memOk ↔ s.memOk := Iff.rfl
@[simp] theorem setCtx_memOk (s : State) (c : CoreId) (n : CtxNum) (x : Ctx) : (s.setCtx c n x).memOk ↔ s.memOk := Iff.rfl
@[simp] theorem setMe_memOk (s : State) (x : Ctx) : (s.setMe x).memOk ↔ s.memOk := Iff.rfl
@[simp] theorem setMyCore_memOk (s : State) (k : Core) : (s.setMyCore k).memOk ↔ s.memOk := Iff.rfl
@[simp] theorem setDie_memOk (s : State) (d : Die) (x : DieState) : (s.setDie d x).memOk ↔ s.memOk := Iff.rfl
@[simp] theorem setSector_memOk (s : State) (d : Die) (x : Sector) : (s.setSector d x).memOk ↔ s.memOk := Iff.rfl
@[simp] theorem setCluster_memOk (s : State) (c : ClusterId) (x : Cluster) : (s.setCluster c x).memOk ↔ s.memOk := Iff.rfl
@[simp] theorem setTenantSt_memOk (s : State) (t : Tenant) (x : TenantState) : (s.setTenantSt t x).memOk ↔ s.memOk := Iff.rfl

end Sys2Proof.Machine
end

