-- ==== Sys2Proof/Laws/PerInstr.lean ====
section
/-! SUPPORT. Families of statements with one lemma for each instruction: the header of an instruction's word is its header, and
passes check 1 of R70 (R55, R56). -/

namespace Sys2Proof

/-- Bits 31:0 of a packed word are its header. -/
theorem RawR.pack_hdr (r : RawR) : r.pack.extractLsb' 0 32 = r.hdr := congrArg RawR.hdr (RawR.unpack_pack r)
theorem RawI.pack_hdr (r : RawI) : r.pack.extractLsb' 0 32 = r.hdr := congrArg RawI.hdr (RawI.unpack_pack r)
theorem RawB.pack_hdr (r : RawB) : r.pack.extractLsb' 0 32 = r.hdr := congrArg RawB.hdr (RawB.unpack_pack r)
theorem RawM.pack_hdr (r : RawM) : r.pack.extractLsb' 0 32 = r.hdr := congrArg RawM.hdr (RawM.unpack_pack r)
theorem RawE.pack_hdr (r : RawE) : r.pack.extractLsb' 0 32 = r.hdr := congrArg RawE.hdr (RawE.unpack_pack r)

namespace Laws.HeaderField

/-- The word of an instruction that the opcode map assigns carries its header (R55) and no bit that check 1 of R70 refuses. -/
def Statement (i : Instr) : Prop :=
  (∀ w, i ≠ .unassignedOp w) → ∀ w, encode i = some w → Header.unpack (w.extractLsb' 0 32) = i.header ∧ headerFault (w.extractLsb' 0 32) = none

/-- A word whose low bits are a packed header. -/
theorem of_header {i : Instr} {x : BitVec 128} (he : encode i = some x) (op : BitVec 8) (fn : BitVec 4)
    (hx : x.extractLsb' 0 32 = i.header.pack op fn) : Statement i := by
  intro _ w hw
  obtain rfl : x = w := Option.some.inj (he.symm.trans hw)
  rw [hx]
  exact ⟨Header.unpack_pack _ _ _, Header.pack_fault _ _ _⟩

/-- An event has no word. -/
theorem of_none {i : Instr} (he : encode i = none) : Statement i := by
  intro _ w hw
  simp [he] at hw

theorem nop (h : Header) : Statement (.nop h) := of_header rfl 0x00 0 (RawR.pack_hdr _)
theorem br (h : Header) (off : BitVec 40) : Statement (.br h off) := of_header rfl 0x01 0 (RawB.pack_hdr _)
theorem brl (h : Header) (off : BitVec 40) : Statement (.brl h off) := of_header rfl 0x02 0 (RawB.pack_hdr _)
theorem ret (h : Header) : Statement (.ret h) := of_header rfl 0x03 0 (RawR.pack_hdr _)
theorem jt (h : Header) (i : SReg) (b : SReg) (pad : BitVec 16) (bound : BitVec 22) : Statement (.jt h i b pad bound) := of_header rfl 0x04 0 (RawB.pack_hdr _)
theorem land (h : Header) (pad : BitVec 16) (foldable : Bool) : Statement (.land h pad foldable) := of_header rfl 0x05 0 (RawB.pack_hdr _)
theorem loop (h : Header) (c : SReg) (off : BitVec 40) : Statement (.loop h c off) := of_header rfl 0x06 0 (RawB.pack_hdr _)
theorem trap (h : Header) (imm : Word) : Statement (.trap h imm) := of_header rfl 0x07 0 (RawI.pack_hdr _)
theorem eret (h : Header) : Statement (.eret h) := of_header rfl 0x08 0 (RawR.pack_hdr _)
theorem add (h : Header) (d : SReg) (a : SCon) (b : SCon) : Statement (.add h d a b) := of_header rfl 0x10 0 (RawR.pack_hdr _)
theorem sub (h : Header) (d : SReg) (a : SCon) (b : SCon) : Statement (.sub h d a b) := of_header rfl 0x10 1 (RawR.pack_hdr _)
theorem and (h : Header) (d : SReg) (a : SCon) (b : SCon) : Statement (.and h d a b) := of_header rfl 0x10 2 (RawR.pack_hdr _)
theorem or (h : Header) (d : SReg) (a : SCon) (b : SCon) : Statement (.or h d a b) := of_header rfl 0x10 3 (RawR.pack_hdr _)
theorem xor (h : Header) (d : SReg) (a : SCon) (b : SCon) : Statement (.xor h d a b) := of_header rfl 0x10 4 (RawR.pack_hdr _)
theorem andn (h : Header) (d : SReg) (a : SCon) (b : SCon) : Statement (.andn h d a b) := of_header rfl 0x10 5 (RawR.pack_hdr _)
theorem shl (h : Header) (d : SReg) (a : SCon) (b : SCon) : Statement (.shl h d a b) := of_header rfl 0x10 6 (RawR.pack_hdr _)
theorem shr (h : Header) (d : SReg) (a : SCon) (b : SCon) : Statement (.shr h d a b) := of_header rfl 0x10 7 (RawR.pack_hdr _)
theorem sra (h : Header) (d : SReg) (a : SCon) (b : SCon) : Statement (.sra h d a b) := of_header rfl 0x10 8 (RawR.pack_hdr _)
theorem rol (h : Header) (d : SReg) (a : SCon) (b : SCon) : Statement (.rol h d a b) := of_header rfl 0x10 9 (RawR.pack_hdr _)
theorem min (h : Header) (d : SReg) (a : SCon) (b : SCon) : Statement (.min h d a b) := of_header rfl 0x10 10 (RawR.pack_hdr _)
theorem max (h : Header) (d : SReg) (a : SCon) (b : SCon) : Statement (.max h d a b) := of_header rfl 0x10 11 (RawR.pack_hdr _)
theorem minu (h : Header) (d : SReg) (a : SCon) (b : SCon) : Statement (.minu h d a b) := of_header rfl 0x10 12 (RawR.pack_hdr _)
theorem maxu (h : Header) (d : SReg) (a : SCon) (b : SCon) : Statement (.maxu h d a b) := of_header rfl 0x10 13 (RawR.pack_hdr _)
theorem addImm (h : Header) (d : SReg) (a : SCon) (imm : Word) : Statement (.addImm h d a imm) := of_header rfl 0x11 0 (RawI.pack_hdr _)
theorem subImm (h : Header) (d : SReg) (a : SCon) (imm : Word) : Statement (.subImm h d a imm) := of_header rfl 0x11 1 (RawI.pack_hdr _)
theorem andImm (h : Header) (d : SReg) (a : SCon) (imm : Word) : Statement (.andImm h d a imm) := of_header rfl 0x11 2 (RawI.pack_hdr _)
theorem orImm (h : Header) (d : SReg) (a : SCon) (imm : Word) : Statement (.orImm h d a imm) := of_header rfl 0x11 3 (RawI.pack_hdr _)
theorem xorImm (h : Header) (d : SReg) (a : SCon) (imm : Word) : Statement (.xorImm h d a imm) := of_header rfl 0x11 4 (RawI.pack_hdr _)
theorem andnImm (h : Header) (d : SReg) (a : SCon) (imm : Word) : Statement (.andnImm h d a imm) := of_header rfl 0x11 5 (RawI.pack_hdr _)
theorem shlImm (h : Header) (d : SReg) (a : SCon) (imm : Word) : Statement (.shlImm h d a imm) := of_header rfl 0x11 6 (RawI.pack_hdr _)
theorem shrImm (h : Header) (d : SReg) (a : SCon) (imm : Word) : Statement (.shrImm h d a imm) := of_header rfl 0x11 7 (RawI.pack_hdr _)
theorem sraImm (h : Header) (d : SReg) (a : SCon) (imm : Word) : Statement (.sraImm h d a imm) := of_header rfl 0x11 8 (RawI.pack_hdr _)
theorem rolImm (h : Header) (d : SReg) (a : SCon) (imm : Word) : Statement (.rolImm h d a imm) := of_header rfl 0x11 9 (RawI.pack_hdr _)
theorem minImm (h : Header) (d : SReg) (a : SCon) (imm : Word) : Statement (.minImm h d a imm) := of_header rfl 0x11 10 (RawI.pack_hdr _)
theorem maxImm (h : Header) (d : SReg) (a : SCon) (imm : Word) : Statement (.maxImm h d a imm) := of_header rfl 0x11 11 (RawI.pack_hdr _)
theorem minuImm (h : Header) (d : SReg) (a : SCon) (imm : Word) : Statement (.minuImm h d a imm) := of_header rfl 0x11 12 (RawI.pack_hdr _)
theorem maxuImm (h : Header) (d : SReg) (a : SCon) (imm : Word) : Statement (.maxuImm h d a imm) := of_header rfl 0x11 13 (RawI.pack_hdr _)
theorem mul (h : Header) (d : SReg) (a : SCon) (b : SCon) : Statement (.mul h d a b) := of_header rfl 0x12 0 (RawR.pack_hdr _)
theorem mulh (h : Header) (d : SReg) (a : SCon) (b : SCon) : Statement (.mulh h d a b) := of_header rfl 0x12 1 (RawR.pack_hdr _)
theorem mulhu (h : Header) (d : SReg) (a : SCon) (b : SCon) : Statement (.mulhu h d a b) := of_header rfl 0x12 2 (RawR.pack_hdr _)
theorem div (h : Header) (d : SReg) (a : SCon) (b : SCon) : Statement (.div h d a b) := of_header rfl 0x13 0 (RawR.pack_hdr _)
theorem divu (h : Header) (d : SReg) (a : SCon) (b : SCon) : Statement (.divu h d a b) := of_header rfl 0x13 1 (RawR.pack_hdr _)
theorem rem (h : Header) (d : SReg) (a : SCon) (b : SCon) : Statement (.rem h d a b) := of_header rfl 0x13 2 (RawR.pack_hdr _)
theorem remu (h : Header) (d : SReg) (a : SCon) (b : SCon) : Statement (.remu h d a b) := of_header rfl 0x13 3 (RawR.pack_hdr _)
theorem clz (h : Header) (d : SReg) (a : SCon) : Statement (.clz h d a) := of_header rfl 0x14 0 (RawR.pack_hdr _)
theorem ctz (h : Header) (d : SReg) (a : SCon) : Statement (.ctz h d a) := of_header rfl 0x14 1 (RawR.pack_hdr _)
theorem popc (h : Header) (d : SReg) (a : SCon) : Statement (.popc h d a) := of_header rfl 0x14 2 (RawR.pack_hdr _)
theorem sext (h : Header) (d : SReg) (a : SCon) (w : SCon) : Statement (.sext h d a w) := of_header rfl 0x14 3 (RawR.pack_hdr _)
theorem zext (h : Header) (d : SReg) (a : SCon) (w : SCon) : Statement (.zext h d a w) := of_header rfl 0x14 4 (RawR.pack_hdr _)
theorem bext (h : Header) (d : SReg) (a : SCon) (p : SCon) (len : BitVec 7) : Statement (.bext h d a p len) := of_header rfl 0x14 5 (RawR.pack_hdr _)
theorem bins (h : Header) (d : SReg) (a : SCon) (f : SCon) (p : SCon) (len : BitVec 7) : Statement (.bins h d a f p len) := of_header rfl 0x14 6 (RawR.pack_hdr _)
theorem cmpEq (h : Header) (kt : KReg) (kf : KReg) (a : SCon) (b : SCon) : Statement (.cmpEq h kt kf a b) := of_header rfl 0x15 0 (RawR.pack_hdr _)
theorem cmpNe (h : Header) (kt : KReg) (kf : KReg) (a : SCon) (b : SCon) : Statement (.cmpNe h kt kf a b) := of_header rfl 0x15 1 (RawR.pack_hdr _)
theorem cmpLt (h : Header) (kt : KReg) (kf : KReg) (a : SCon) (b : SCon) : Statement (.cmpLt h kt kf a b) := of_header rfl 0x15 2 (RawR.pack_hdr _)
theorem cmpGe (h : Header) (kt : KReg) (kf : KReg) (a : SCon) (b : SCon) : Statement (.cmpGe h kt kf a b) := of_header rfl 0x15 3 (RawR.pack_hdr _)
theorem cmpLtu (h : Header) (kt : KReg) (kf : KReg) (a : SCon) (b : SCon) : Statement (.cmpLtu h kt kf a b) := of_header rfl 0x15 4 (RawR.pack_hdr _)
theorem cmpGeu (h : Header) (kt : KReg) (kf : KReg) (a : SCon) (b : SCon) : Statement (.cmpGeu h kt kf a b) := of_header rfl 0x15 5 (RawR.pack_hdr _)
theorem cmpEqImm (h : Header) (kt : KReg) (kf : KReg) (a : SCon) (imm : Word) : Statement (.cmpEqImm h kt kf a imm) := of_header rfl 0x16 0 (RawI.pack_hdr _)
theorem cmpNeImm (h : Header) (kt : KReg) (kf : KReg) (a : SCon) (imm : Word) : Statement (.cmpNeImm h kt kf a imm) := of_header rfl 0x16 1 (RawI.pack_hdr _)
theorem cmpLtImm (h : Header) (kt : KReg) (kf : KReg) (a : SCon) (imm : Word) : Statement (.cmpLtImm h kt kf a imm) := of_header rfl 0x16 2 (RawI.pack_hdr _)
theorem cmpGeImm (h : Header) (kt : KReg) (kf : KReg) (a : SCon) (imm : Word) : Statement (.cmpGeImm h kt kf a imm) := of_header rfl 0x16 3 (RawI.pack_hdr _)
theorem cmpLtuImm (h : Header) (kt : KReg) (kf : KReg) (a : SCon) (imm : Word) : Statement (.cmpLtuImm h kt kf a imm) := of_header rfl 0x16 4 (RawI.pack_hdr _)
theorem cmpGeuImm (h : Header) (kt : KReg) (kf : KReg) (a : SCon) (imm : Word) : Statement (.cmpGeuImm h kt kf a imm) := of_header rfl 0x16 5 (RawI.pack_hdr _)
theorem sel (h : Header) (d : SReg) (k : KReg) (a : SCon) (b : SCon) : Statement (.sel h d k a b) := of_header rfl 0x17 0 (RawR.pack_hdr _)
theorem plogAnd (h : Header) (d : KReg) (a : KReg) (b : KReg) : Statement (.plogAnd h d a b) := of_header rfl 0x1D 0 (RawR.pack_hdr _)
theorem plogOr (h : Header) (d : KReg) (a : KReg) (b : KReg) : Statement (.plogOr h d a b) := of_header rfl 0x1D 1 (RawR.pack_hdr _)
theorem plogXor (h : Header) (d : KReg) (a : KReg) (b : KReg) : Statement (.plogXor h d a b) := of_header rfl 0x1D 2 (RawR.pack_hdr _)
theorem plogAndn (h : Header) (d : KReg) (a : KReg) (b : KReg) : Statement (.plogAndn h d a b) := of_header rfl 0x1D 3 (RawR.pack_hdr _)
theorem movi (h : Header) (d : SReg) (imm : Word) : Statement (.movi h d imm) := of_header rfl 0x18 0 (RawI.pack_hdr _)
theorem mov (h : Header) (ops : MovOps) : Statement (.mov h ops) := of_header rfl 0x19 0 (RawR.pack_hdr _)
theorem lea (h : Header) (d : SReg) (ea : Addr) : Statement (.lea h d ea) := of_header rfl 0x1A 0 (RawM.pack_hdr _)
theorem gaddr (h : Header) (d : SReg) (e : SCon) (o : SCon) : Statement (.gaddr h d e o) := of_header rfl 0x1B 0 (RawR.pack_hdr _)
theorem dtset (h : Header) (e : SCon) (x : SReg) : Statement (.dtset h e x) := of_header rfl 0x1C 0 (RawR.pack_hdr _)
theorem fadd (h : Header) (r : SReg) (a : SReg) (b : SReg) (d : Bool) : Statement (.fadd h r a b d) := of_header rfl 0x20 0 (RawR.pack_hdr _)
theorem fsub (h : Header) (r : SReg) (a : SReg) (b : SReg) (d : Bool) : Statement (.fsub h r a b d) := of_header rfl 0x20 1 (RawR.pack_hdr _)
theorem fmul (h : Header) (r : SReg) (a : SReg) (b : SReg) (d : Bool) : Statement (.fmul h r a b d) := of_header rfl 0x20 2 (RawR.pack_hdr _)
theorem fdiv (h : Header) (r : SReg) (a : SReg) (b : SReg) (d : Bool) : Statement (.fdiv h r a b d) := of_header rfl 0x20 3 (RawR.pack_hdr _)
theorem fmin (h : Header) (r : SReg) (a : SReg) (b : SReg) (d : Bool) : Statement (.fmin h r a b d) := of_header rfl 0x20 4 (RawR.pack_hdr _)
theorem fmax (h : Header) (r : SReg) (a : SReg) (b : SReg) (d : Bool) : Statement (.fmax h r a b d) := of_header rfl 0x20 5 (RawR.pack_hdr _)
theorem fsqrt (h : Header) (r : SReg) (a : SReg) (d : Bool) : Statement (.fsqrt h r a d) := of_header rfl 0x20 6 (RawR.pack_hdr _)
theorem fma (h : Header) (r : SReg) (a : SReg) (b : SReg) (c : SReg) (d : Bool) : Statement (.fma h r a b c d) := of_header rfl 0x21 0 (RawR.pack_hdr _)
theorem fms (h : Header) (r : SReg) (a : SReg) (b : SReg) (c : SReg) (d : Bool) : Statement (.fms h r a b c d) := of_header rfl 0x21 1 (RawR.pack_hdr _)
theorem fnma (h : Header) (r : SReg) (a : SReg) (b : SReg) (c : SReg) (d : Bool) : Statement (.fnma h r a b c d) := of_header rfl 0x21 2 (RawR.pack_hdr _)
theorem fcmpEq (h : Header) (kt : KReg) (kf : KReg) (a : SReg) (b : SReg) (d : Bool) : Statement (.fcmpEq h kt kf a b d) := of_header rfl 0x22 0 (RawR.pack_hdr _)
theorem fcmpNe (h : Header) (kt : KReg) (kf : KReg) (a : SReg) (b : SReg) (d : Bool) : Statement (.fcmpNe h kt kf a b d) := of_header rfl 0x22 1 (RawR.pack_hdr _)
theorem fcmpLt (h : Header) (kt : KReg) (kf : KReg) (a : SReg) (b : SReg) (d : Bool) : Statement (.fcmpLt h kt kf a b d) := of_header rfl 0x22 2 (RawR.pack_hdr _)
theorem fcmpGe (h : Header) (kt : KReg) (kf : KReg) (a : SReg) (b : SReg) (d : Bool) : Statement (.fcmpGe h kt kf a b d) := of_header rfl 0x22 3 (RawR.pack_hdr _)
theorem fcmpUn (h : Header) (kt : KReg) (kf : KReg) (a : SReg) (b : SReg) (d : Bool) : Statement (.fcmpUn h kt kf a b d) := of_header rfl 0x22 4 (RawR.pack_hdr _)
theorem fcvt (h : Header) (r : SReg) (a : SReg) (src : FKind) (dst : FKind) (rnd : Rnd) : Statement (.fcvt h r a src dst rnd) := of_header rfl 0x23 0 (RawR.pack_hdr _)
theorem fclass (h : Header) (r : SReg) (a : SReg) (d : Bool) : Statement (.fclass h r a d) := of_header rfl 0x24 0 (RawR.pack_hdr _)
theorem vadd (h : Header) (d : VReg) (a : VSrc) (b : VSrc) : Statement (.vadd h d a b) := of_header rfl 0x30 0 (RawR.pack_hdr _)
theorem vsub (h : Header) (d : VReg) (a : VSrc) (b : VSrc) : Statement (.vsub h d a b) := of_header rfl 0x30 1 (RawR.pack_hdr _)
theorem vmul (h : Header) (d : VReg) (a : VSrc) (b : VSrc) : Statement (.vmul h d a b) := of_header rfl 0x30 2 (RawR.pack_hdr _)
theorem vmin (h : Header) (d : VReg) (a : VSrc) (b : VSrc) : Statement (.vmin h d a b) := of_header rfl 0x30 3 (RawR.pack_hdr _)
theorem vmax (h : Header) (d : VReg) (a : VSrc) (b : VSrc) : Statement (.vmax h d a b) := of_header rfl 0x30 4 (RawR.pack_hdr _)
theorem vand (h : Header) (d : VReg) (a : VSrc) (b : VSrc) : Statement (.vand h d a b) := of_header rfl 0x30 5 (RawR.pack_hdr _)
theorem vor (h : Header) (d : VReg) (a : VSrc) (b : VSrc) : Statement (.vor h d a b) := of_header rfl 0x30 6 (RawR.pack_hdr _)
theorem vxor (h : Header) (d : VReg) (a : VSrc) (b : VSrc) : Statement (.vxor h d a b) := of_header rfl 0x30 7 (RawR.pack_hdr _)
theorem vandn (h : Header) (d : VReg) (a : VSrc) (b : VSrc) : Statement (.vandn h d a b) := of_header rfl 0x30 8 (RawR.pack_hdr _)
theorem vshl (h : Header) (d : VReg) (a : VSrc) (b : VSrc) : Statement (.vshl h d a b) := of_header rfl 0x30 9 (RawR.pack_hdr _)
theorem vshr (h : Header) (d : VReg) (a : VSrc) (b : VSrc) : Statement (.vshr h d a b) := of_header rfl 0x30 10 (RawR.pack_hdr _)
theorem vsra (h : Header) (d : VReg) (a : VSrc) (b : VSrc) : Statement (.vsra h d a b) := of_header rfl 0x30 11 (RawR.pack_hdr _)
theorem vfma (h : Header) (d : VReg) (a : VSrc) (b : VSrc) (c : VReg) : Statement (.vfma h d a b c) := of_header rfl 0x31 0 (RawR.pack_hdr _)
theorem vfms (h : Header) (d : VReg) (a : VSrc) (b : VSrc) (c : VReg) : Statement (.vfms h d a b c) := of_header rfl 0x31 1 (RawR.pack_hdr _)
theorem vfnma (h : Header) (d : VReg) (a : VSrc) (b : VSrc) (c : VReg) : Statement (.vfnma h d a b c) := of_header rfl 0x31 2 (RawR.pack_hdr _)
theorem vcmpEq (h : Header) (d : VReg) (a : VSrc) (b : VSrc) : Statement (.vcmpEq h d a b) := of_header rfl 0x32 0 (RawR.pack_hdr _)
theorem vcmpNe (h : Header) (d : VReg) (a : VSrc) (b : VSrc) : Statement (.vcmpNe h d a b) := of_header rfl 0x32 1 (RawR.pack_hdr _)
theorem vcmpLt (h : Header) (d : VReg) (a : VSrc) (b : VSrc) : Statement (.vcmpLt h d a b) := of_header rfl 0x32 2 (RawR.pack_hdr _)
theorem vcmpGe (h : Header) (d : VReg) (a : VSrc) (b : VSrc) : Statement (.vcmpGe h d a b) := of_header rfl 0x32 3 (RawR.pack_hdr _)
theorem vcmpLtu (h : Header) (d : VReg) (a : VSrc) (b : VSrc) : Statement (.vcmpLtu h d a b) := of_header rfl 0x32 4 (RawR.pack_hdr _)
theorem vcmpGeu (h : Header) (d : VReg) (a : VSrc) (b : VSrc) : Statement (.vcmpGeu h d a b) := of_header rfl 0x32 5 (RawR.pack_hdr _)
theorem vcmpUn (h : Header) (d : VReg) (a : VSrc) (b : VSrc) : Statement (.vcmpUn h d a b) := of_header rfl 0x32 6 (RawR.pack_hdr _)
theorem vsel (h : Header) (d : VReg) (k : VSrc) (a : VSrc) (b : VReg) : Statement (.vsel h d k a b) := of_header rfl 0x33 0 (RawR.pack_hdr _)
theorem vabs (h : Header) (d : VReg) (a : VSrc) : Statement (.vabs h d a) := of_header rfl 0x34 0 (RawR.pack_hdr _)
theorem vneg (h : Header) (d : VReg) (a : VSrc) : Statement (.vneg h d a) := of_header rfl 0x34 1 (RawR.pack_hdr _)
theorem vdot (h : Header) (d : VReg) (a : VSrc) (b : VSrc) (seg : BitVec 3) : Statement (.vdot h d a b seg) := of_header rfl 0x35 0 (RawR.pack_hdr _)
theorem vsum (h : Header) (d : VReg) (a : VSrc) (seg : BitVec 3) : Statement (.vsum h d a seg) := of_header rfl 0x36 0 (RawR.pack_hdr _)
theorem vcvt (h : Header) (d : VReg) (a : VSrc) (t : Tag) (sb : BitVec 8) (ctl : Bool) : Statement (.vcvt h d a t sb ctl) := of_header rfl 0x37 0 (RawR.pack_hdr _)
theorem vtag (h : Header) (d : VReg) (a : VSrc) (t : Tag) : Statement (.vtag h d a t) := of_header rfl 0x38 0 (RawR.pack_hdr _)
theorem vgtag (h : Header) (d : SReg) (a : VSrc) : Statement (.vgtag h d a) := of_header rfl 0x39 0 (RawR.pack_hdr _)
theorem vsplat (h : Header) (d : VReg) (a : SCon) (t : Tag) : Statement (.vsplat h d a t) := of_header rfl 0x3A 0 (RawR.pack_hdr _)
theorem vext (h : Header) (d : SReg) (a : VSrc) (l : SCon) : Statement (.vext h d a l) := of_header rfl 0x3B 0 (RawR.pack_hdr _)
theorem vins (h : Header) (d : VReg) (a : VSrc) (x : SCon) (l : SCon) : Statement (.vins h d a x l) := of_header rfl 0x3C 0 (RawR.pack_hdr _)
theorem vperm (h : Header) (d : VReg) (a : VSrc) (b : VSrc) : Statement (.vperm h d a b) := of_header rfl 0x3D 0 (RawR.pack_hdr _)
theorem vpack (h : Header) (d : VReg) (a : VSrc) (b : VSrc) (t : Tag) : Statement (.vpack h d a b t) := of_header rfl 0x3E 0 (RawR.pack_hdr _)
theorem vunpkLo (h : Header) (d : VReg) (a : VSrc) (t : Tag) : Statement (.vunpkLo h d a t) := of_header rfl 0x3F 0 (RawR.pack_hdr _)
theorem vunpkHi (h : Header) (d : VReg) (a : VSrc) (t : Tag) : Statement (.vunpkHi h d a t) := of_header rfl 0x3F 1 (RawR.pack_hdr _)
theorem vsfnExp2 (h : Header) (d : VReg) (a : VSrc) : Statement (.vsfnExp2 h d a) := of_header rfl 0x40 0 (RawR.pack_hdr _)
theorem vsfnLog2 (h : Header) (d : VReg) (a : VSrc) : Statement (.vsfnLog2 h d a) := of_header rfl 0x40 1 (RawR.pack_hdr _)
theorem vsfnRcp (h : Header) (d : VReg) (a : VSrc) : Statement (.vsfnRcp h d a) := of_header rfl 0x40 2 (RawR.pack_hdr _)
theorem vsfnRsqrt (h : Header) (d : VReg) (a : VSrc) : Statement (.vsfnRsqrt h d a) := of_header rfl 0x40 3 (RawR.pack_hdr _)
theorem vsfnTanh (h : Header) (d : VReg) (a : VSrc) : Statement (.vsfnTanh h d a) := of_header rfl 0x40 4 (RawR.pack_hdr _)
theorem vsfnSigm (h : Header) (d : VReg) (a : VSrc) : Statement (.vsfnSigm h d a) := of_header rfl 0x40 5 (RawR.pack_hdr _)
theorem vsfnSilu (h : Header) (d : VReg) (a : VSrc) : Statement (.vsfnSilu h d a) := of_header rfl 0x40 6 (RawR.pack_hdr _)
theorem vsfnErf (h : Header) (d : VReg) (a : VSrc) : Statement (.vsfnErf h d a) := of_header rfl 0x40 7 (RawR.pack_hdr _)
theorem mzero (h : Header) (m : MReg) : Statement (.mzero h m) := of_header rfl 0x50 0 (RawR.pack_hdr _)
theorem mma (h : Header) (m : MReg) (a : SReg) (b : SReg) (ring : BitVec 4) (gate : BitVec 4) (shape : BitVec 12) : Statement (.mma h m a b ring gate shape) := of_header rfl 0x51 0 (RawE.pack_hdr _)
theorem mload (h : Header) (m : MReg) (a : SReg) : Statement (.mload h m a) := of_header rfl 0x52 0 (RawE.pack_hdr _)
theorem mstore (h : Header) (a : SReg) (m : MReg) : Statement (.mstore h a m) := of_header rfl 0x53 0 (RawE.pack_hdr _)
theorem mcvt (h : Header) (m : MReg) (t : SReg) (ring : BitVec 4) : Statement (.mcvt h m t ring) := of_header rfl 0x54 0 (RawE.pack_hdr _)
theorem mmvGet (h : Header) (d : VReg) (m : MReg) (p : SCon) : Statement (.mmvGet h d m p) := of_header rfl 0x55 0 (RawR.pack_hdr _)
theorem mmvPut (h : Header) (m : MReg) (a : VSrc) (p : SCon) : Statement (.mmvPut h m a p) := of_header rfl 0x55 1 (RawR.pack_hdr _)
theorem mwait (h : Header) (m : MReg) : Statement (.mwait h m) := of_header rfl 0x56 0 (RawR.pack_hdr _)
theorem gemv (h : Header) (a : SReg) (n : SCon) (res : SReg) (tid : Tid) (ring : BitVec 4) (bf16 : Bool) (mem : Bool) : Statement (.gemv h a n res tid ring bf16 mem) := of_header rfl 0x57 0 (RawE.pack_hdr _)
theorem mspill (h : Header) (a : SReg) : Statement (.mspill h a) := of_header rfl 0x58 0 (RawE.pack_hdr _)
theorem mrest (h : Header) (a : SReg) : Statement (.mrest h a) := of_header rfl 0x59 0 (RawE.pack_hdr _)
theorem ld (h : Header) (d : SReg) (ea : Addr) (sz : Size) : Statement (.ld h d ea sz) := of_header rfl 0x60 0 (RawM.pack_hdr _)
theorem ldSx (h : Header) (d : SReg) (ea : Addr) (sz : Size) : Statement (.ldSx h d ea sz) := of_header rfl 0x60 1 (RawM.pack_hdr _)
theorem st (h : Header) (x : SReg) (ea : Addr) (sz : Size) : Statement (.st h x ea sz) := of_header rfl 0x61 0 (RawM.pack_hdr _)
theorem ldv (h : Header) (d : VReg) (ea : Addr) (sz : Tag) : Statement (.ldv h d ea sz) := of_header rfl 0x62 0 (RawM.pack_hdr _)
theorem stv (h : Header) (x : VReg) (ea : Addr) (sz : Tag) : Statement (.stv h x ea sz) := of_header rfl 0x63 0 (RawM.pack_hdr _)
theorem ldc (h : Header) (d : SReg) (ea : Addr) (sz : Size) : Statement (.ldc h d ea sz) := of_header rfl 0x64 0 (RawM.pack_hdr _)
theorem ldcSx (h : Header) (d : SReg) (ea : Addr) (sz : Size) : Statement (.ldcSx h d ea sz) := of_header rfl 0x64 1 (RawM.pack_hdr _)
theorem ldt (h : Header) (d : VReg) (n : SCon) (o : SCon) (tid : Tid) (t : Tag) : Statement (.ldt h d n o tid t) := of_header rfl 0x65 0 (RawE.pack_hdr _)
theorem stt (h : Header) (n : SCon) (o : SCon) (x : VReg) (tid : Tid) : Statement (.stt h n o x tid) := of_header rfl 0x66 0 (RawE.pack_hdr _)
theorem pref (h : Header) (ea : Addr) : Statement (.pref h ea) := of_header rfl 0x67 0 (RawM.pack_hdr _)
theorem prefi (h : Header) (ea : Addr) (sz : BitVec 5) : Statement (.prefi h ea sz) := of_header rfl 0x68 0 (RawM.pack_hdr _)
theorem rdef (h : Header) (base : SReg) (lg : SCon) (n : SCon) (ring : BitVec 4) : Statement (.rdef h base lg n ring) := of_header rfl 0x70 0 (RawE.pack_hdr _)
theorem racq (h : Header) (d : SReg) (ring : BitVec 4) : Statement (.racq h d ring) := of_header rfl 0x71 0 (RawE.pack_hdr _)
theorem racqFree (h : Header) (d : SReg) (ring : BitVec 4) : Statement (.racqFree h d ring) := of_header rfl 0x71 0 (RawE.pack_hdr _)
theorem rrel (h : Header) (a : SReg) (ring : BitVec 4) : Statement (.rrel h a ring) := of_header rfl 0x72 0 (RawE.pack_hdr _)
theorem rres (h : Header) (ring : BitVec 4) : Statement (.rres h ring) := of_header rfl 0x73 0 (RawE.pack_hdr _)
theorem rpub (h : Header) (a : SReg) (ring : BitVec 4) : Statement (.rpub h a ring) := of_header rfl 0x74 0 (RawE.pack_hdr _)
theorem send (h : Header) (a : SReg) (c : SReg) (n : SCon) (ring : BitVec 4) : Statement (.send h a c n ring) := of_header rfl 0x78 0 (RawE.pack_hdr _)
theorem cpy (h : Header) (a : SReg) : Statement (.cpy h a) := of_header rfl 0x79 0 (RawE.pack_hdr _)
theorem bwait (h : Header) (n : SCon) : Statement (.bwait h n) := of_header rfl 0x7B 0 (RawE.pack_hdr _)
theorem tsub (h : Header) (f : SCon) (n : SCon) (tid : Tid) (ring : BitVec 4) : Statement (.tsub h f n tid ring) := of_header rfl 0x7C 0 (RawE.pack_hdr _)
theorem tdrain (h : Header) (f : SCon) (n : SCon) (tid : Tid) (ring : BitVec 4) : Statement (.tdrain h f n tid ring) := of_header rfl 0x7D 0 (RawE.pack_hdr _)
theorem gath (h : Header) (d : VReg) (i : VReg) (tid : Tid) (cnt : BitVec 2) : Statement (.gath h d i tid cnt) := of_header rfl 0x7E 0 (RawE.pack_hdr _)
theorem tfind (h : Header) (k : KReg) (n : SCon) (tid : Tid) : Statement (.tfind h k n tid) := of_header rfl 0x80 0 (RawE.pack_hdr _)
theorem tnear (h : Header) (n : SCon) (dims : SCon) (tid : Tid) : Statement (.tnear h n dims tid) := of_header rfl 0x81 0 (RawE.pack_hdr _)
theorem thalo (h : Header) (n : SCon) (die : SCon) (tid : Tid) : Statement (.thalo h n die tid) := of_header rfl 0x82 0 (RawE.pack_hdr _)
theorem tdrop (h : Header) (tid : Tid) : Statement (.tdrop h tid) := of_header rfl 0x83 0 (RawE.pack_hdr _)
theorem tflush (h : Header) (tid : Tid) : Statement (.tflush h tid) := of_header rfl 0x84 0 (RawE.pack_hdr _)
theorem tdef (h : Header) (t : SCon) (a : SReg) : Statement (.tdef h t a) := of_header rfl 0x88 0 (RawE.pack_hdr _)
theorem tget (h : Header) (t : SCon) (a : SReg) : Statement (.tget h t a) := of_header rfl 0x89 0 (RawE.pack_hdr _)
theorem tkill (h : Header) (t : SCon) : Statement (.tkill h t) := of_header rfl 0x8A 0 (RawE.pack_hdr _)
theorem amo (h : Header) (d : SReg) (ea : Addr) (sz : Size) (x : SCon) (op : AOp) (ord : Ord) (scope : Scope) : Statement (.amo h d ea sz x op ord scope) := of_header rfl 0x90 0 (RawM.pack_hdr _)
theorem red (h : Header) (ea : Addr) (sz : Size) (x : SCon) (op : AOp) (ord : Ord) (scope : Scope) : Statement (.red h ea sz x op ord scope) := of_header rfl 0x91 0 (RawM.pack_hdr _)
theorem cas (h : Header) (d : SReg) (ea : Addr) (sz : Size) (x : SCon) (ord : Ord) (scope : Scope) : Statement (.cas h d ea sz x ord scope) := of_header rfl 0x92 0 (RawM.pack_hdr _)
theorem lda (h : Header) (d : SReg) (ea : Addr) (sz : Size) (scope : Scope) : Statement (.lda h d ea sz scope) := of_header rfl 0x93 0 (RawM.pack_hdr _)
theorem stl (h : Header) (x : SReg) (ea : Addr) (sz : Size) (scope : Scope) : Statement (.stl h x ea sz scope) := of_header rfl 0x94 0 (RawM.pack_hdr _)
theorem fence (h : Header) (scope : Scope) : Statement (.fence h scope) := of_header rfl 0x95 0 (RawM.pack_hdr _)
theorem xfence (h : Header) (scope : Scope) (paths : BitVec 7) : Statement (.xfence h scope paths) := of_header rfl 0x96 0 (RawM.pack_hdr _)
theorem tilset (h : Header) (t : SReg) (a : SReg) : Statement (.tilset h t a) := of_header rfl 0x97 0 (RawR.pack_hdr _)
theorem tilget (h : Header) (d : SReg) (t : SReg) : Statement (.tilget h d t) := of_header rfl 0x98 0 (RawR.pack_hdr _)
theorem tilarm (h : Header) (t : SReg) : Statement (.tilarm h t) := of_header rfl 0x99 0 (RawR.pack_hdr _)
theorem start (h : Header) (d : SReg) (p : SReg) (a : SCon) (b : SCon) : Statement (.start h d p a b) := of_header rfl 0xA0 0 (RawR.pack_hdr _)
theorem startTry (h : Header) (d : SReg) (k : KReg) (p : SReg) (a : SCon) (b : SCon) : Statement (.startTry h d k p a b) := of_header rfl 0xA0 1 (RawR.pack_hdr _)
theorem amsg (h : Header) (c : SReg) (p : SReg) (sn : SReg) : Statement (.amsg h c p sn) := of_header rfl 0xA1 0 (RawR.pack_hdr _)
theorem amsgTry (h : Header) (k : KReg) (c : SReg) (p : SReg) (sn : SReg) : Statement (.amsgTry h k c p sn) := of_header rfl 0xA1 1 (RawR.pack_hdr _)
theorem exit (h : Header) : Statement (.exit h) := of_header rfl 0xA2 0 (RawR.pack_hdr _)
theorem yield (h : Header) : Statement (.yield h) := of_header rfl 0xA3 0 (RawR.pack_hdr _)
theorem wait (h : Header) (d : SReg) (m : SCon) : Statement (.wait h d m) := of_header rfl 0xA4 0 (RawR.pack_hdr _)
theorem sig (h : Header) (c : SReg) (b : SCon) : Statement (.sig h c b) := of_header rfl 0xA5 0 (RawR.pack_hdr _)
theorem bar (h : Header) : Statement (.bar h) := of_header rfl 0xA6 0 (RawR.pack_hdr _)
theorem barX (h : Header) : Statement (.barX h) := of_header rfl 0xA6 1 (RawR.pack_hdr _)
theorem arrive (h : Header) : Statement (.arrive h) := of_header rfl 0xA7 0 (RawR.pack_hdr _)
theorem xsend (h : Header) (a : VSrc) (ch : SCon) : Statement (.xsend h a ch) := of_header rfl 0xA9 0 (RawR.pack_hdr _)
theorem xsel (h : Header) (d : VReg) (ch : SCon) : Statement (.xsel h d ch) := of_header rfl 0xAA 0 (RawR.pack_hdr _)
theorem dom (h : Header) (x : SReg) : Statement (.dom h x) := of_header rfl 0xAB 0 (RawR.pack_hdr _)
theorem park (h : Header) (ev : SReg) (live : SReg) : Statement (.park h ev live) := of_header rfl 0xB0 0 (RawR.pack_hdr _)
theorem parkTry (h : Header) (k : KReg) (ev : SReg) (live : SReg) : Statement (.parkTry h k ev live) := of_header rfl 0xB0 1 (RawR.pack_hdr _)
theorem enq (h : Header) (stg : SCon) (a : SReg) : Statement (.enq h stg a) := of_header rfl 0xB1 0 (RawR.pack_hdr _)
theorem enqTry (h : Header) (k : KReg) (stg : SCon) (a : SReg) : Statement (.enqTry h k stg a) := of_header rfl 0xB1 1 (RawR.pack_hdr _)
theorem jinit (h : Header) (d : SReg) (n : SCon) (a : SReg) : Statement (.jinit h d n a) := of_header rfl 0xB2 0 (RawR.pack_hdr _)
theorem jinitTry (h : Header) (d : SReg) (k : KReg) (n : SCon) (a : SReg) : Statement (.jinitTry h d k n a) := of_header rfl 0xB2 1 (RawR.pack_hdr _)
theorem jdone (h : Header) (c : SReg) : Statement (.jdone h c) := of_header rfl 0xB3 0 (RawR.pack_hdr _)
theorem stdecl (h : Header) (stg : SCon) (a : SReg) : Statement (.stdecl h stg a) := of_header rfl 0xB4 0 (RawR.pack_hdr _)
theorem dist (h : Header) (stg : SCon) (first : SReg) (last : SReg) (chunk : BitVec 20) : Statement (.dist h stg first last chunk) := of_header rfl 0xB5 0 (RawR.pack_hdr _)
theorem scall (h : Header) (svc : BitVec 12) (ring : BitVec 4) : Statement (.scall h svc ring) := of_header rfl 0xB6 0 (RawR.pack_hdr _)
theorem scallSc (h : Header) (svc : BitVec 12) (ring : BitVec 4) : Statement (.scallSc h svc ring) := of_header rfl 0xB6 0 (RawR.pack_hdr _)
theorem fold (h : Header) (dh : SReg) (ds : SReg) (e : SReg) (mask : BitVec 8) : Statement (.fold h dh ds e mask) := of_header rfl 0xC0 0 (RawR.pack_hdr _)
theorem callh (h : Header) (x : SReg) : Statement (.callh h x) := of_header rfl 0xC1 0 (RawR.pack_hdr _)
theorem relh (h : Header) (x : SReg) : Statement (.relh h x) := of_header rfl 0xC2 0 (RawR.pack_hdr _)
theorem hstat (h : Header) (d : SReg) (x : SReg) : Statement (.hstat h d x) := of_header rfl 0xC3 0 (RawR.pack_hdr _)
theorem mfc (h : Header) (d : SReg) (reg : CtlReg) : Statement (.mfc h d reg) := of_header rfl 0xD0 0 (RawR.pack_hdr _)
theorem mtc (h : Header) (x : SCon) (reg : CtlReg) : Statement (.mtc h x reg) := of_header rfl 0xD1 0 (RawR.pack_hdr _)
theorem mtcLmcfg (h : Header) (x : SCon) : Statement (.mtcLmcfg h x) := of_header rfl 0xD1 0 (RawR.pack_hdr _)
theorem mtcMxcnt (h : Header) (x : SCon) : Statement (.mtcMxcnt h x) := of_header rfl 0xD1 0 (RawR.pack_hdr _)
theorem mtcStatus (h : Header) (x : SCon) : Statement (.mtcStatus h x) := of_header rfl 0xD1 0 (RawR.pack_hdr _)
theorem csave (h : Header) (c : SCon) : Statement (.csave h c) := of_header rfl 0xD2 0 (RawR.pack_hdr _)
theorem crest (h : Header) (c : SCon) : Statement (.crest h c) := of_header rfl 0xD3 0 (RawR.pack_hdr _)
theorem nispl (h : Header) (c : SCon) : Statement (.nispl h c) := of_header rfl 0xD4 0 (RawR.pack_hdr _)
theorem jrnl (h : Header) (da : SReg) (dd : SReg) (e : SCon) : Statement (.jrnl h da dd e) := of_header rfl 0xD5 0 (RawR.pack_hdr _)
theorem tlbi (h : Header) (a : SReg) : Statement (.tlbi h a) := of_header rfl 0xD6 0 (RawR.pack_hdr _)
theorem tlbiAll (h : Header) : Statement (.tlbiAll h) := of_header rfl 0xD6 1 (RawR.pack_hdr _)
theorem time (h : Header) (d : SReg) : Statement (.time h d) := of_header rfl 0xD7 0 (RawR.pack_hdr _)
theorem unassignedOp (w : BitVec 128) : Statement (.unassignedOp w) := fun h => absurd rfl (h w)
theorem activeMessageArrival : Statement .activeMessageArrival := of_none rfl
theorem signalArrival : Statement .signalArrival := of_none rfl
theorem watchdog : Statement .watchdog := of_none rfl
theorem barrierArrival : Statement .barrierArrival := of_none rfl
theorem barrierEpisodeComplete : Statement .barrierEpisodeComplete := of_none rfl
theorem engineInstrComplete : Statement .engineInstrComplete := of_none rfl
theorem mmaPairStep : Statement .mmaPairStep := of_none rfl
theorem mcvtTilePublish : Statement .mcvtTilePublish := of_none rfl
theorem gemvResultDelivery : Statement .gemvResultDelivery := of_none rfl
theorem sendDelivery : Statement .sendDelivery := of_none rfl
theorem copyComplete : Statement .copyComplete := of_none rfl
theorem loaderTilePush : Statement .loaderTilePush := of_none rfl
theorem storerTileWrite : Statement .storerTileWrite := of_none rfl
theorem postedWritePerformed : Statement .postedWritePerformed := of_none rfl
theorem postedWriteRefused : Statement .postedWriteRefused := of_none rfl
theorem pageModeWindow : Statement .pageModeWindow := of_none rfl
theorem purseWindow : Statement .purseWindow := of_none rfl
theorem purseAdmit : Statement .purseAdmit := of_none rfl
theorem stageBalance : Statement .stageBalance := of_none rfl
theorem recordDispatch : Statement .recordDispatch := of_none rfl
theorem parkEventComplete : Statement .parkEventComplete := of_none rfl
theorem joinDecrement : Statement .joinDecrement := of_none rfl
theorem distChunkDeal : Statement .distChunkDeal := of_none rfl
theorem distChunkComplete : Statement .distChunkComplete := of_none rfl
theorem replyPublish : Statement .replyPublish := of_none rfl
theorem protect : Statement .protect := of_none rfl
theorem freeze : Statement .freeze := of_none rfl
theorem unfreeze : Statement .unfreeze := of_none rfl
theorem todev : Statement .todev := of_none rfl
theorem tohost : Statement .tohost := of_none rfl
theorem pageFlipComplete : Statement .pageFlipComplete := of_none rfl
theorem query : Statement .query := of_none rfl
theorem unmap : Statement .unmap := of_none rfl
theorem map : Statement .map := of_none rfl
theorem quota : Statement .quota := of_none rfl
theorem assign : Statement .assign := of_none rfl
theorem setquota : Statement .setquota := of_none rfl
theorem setpurse : Statement .setpurse := of_none rfl
theorem keyassign : Statement .keyassign := of_none rfl
theorem arena : Statement .arena := of_none rfl
theorem foldRequestServe : Statement .foldRequestServe := of_none rfl
theorem handlerEntry : Statement .handlerEntry := of_none rfl
theorem asyncTrapTake : Statement .asyncTrapTake := of_none rfl
theorem preempt : Statement .preempt := of_none rfl
theorem trapMessageCollect : Statement .trapMessageCollect := of_none rfl
theorem trapMessageMerge : Statement .trapMessageMerge := of_none rfl
theorem faultAnswer : Statement .faultAnswer := of_none rfl
theorem prgResponse : Statement .prgResponse := of_none rfl
theorem translationCompletion : Statement .translationCompletion := of_none rfl
theorem invalidateRequest : Statement .invalidateRequest := of_none rfl
theorem ifetchLookup : Statement .ifetchLookup := of_none rfl
theorem icacheFill : Statement .icacheFill := of_none rfl
theorem imageLoad : Statement .imageLoad := of_none rfl
theorem patrolScrub : Statement .patrolScrub := of_none rfl
theorem bankRebuildRow : Statement .bankRebuildRow := of_none rfl
theorem cxlLinkDown : Statement .cxlLinkDown := of_none rfl
theorem cxlLinkRetrain : Statement .cxlLinkRetrain := of_none rfl
theorem retentionTimeout : Statement .retentionTimeout := of_none rfl
theorem dieFence : Statement .dieFence := of_none rfl
theorem filidPacketArrival : Statement .filidPacketArrival := of_none rfl
theorem filidPacketDeliver : Statement .filidPacketDeliver := of_none rfl
theorem launch : Statement .launch := of_none rfl
theorem kcmd : Statement .kcmd := of_none rfl
theorem fenceRegister : Statement .fenceRegister := of_none rfl
theorem scaleRouteWrite : Statement .scaleRouteWrite := of_none rfl
theorem barRegisterWrite : Statement .barRegisterWrite := of_none rfl
theorem functionLevelReset : Statement .functionLevelReset := of_none rfl
theorem hostCxlWrite : Statement .hostCxlWrite := of_none rfl
theorem scalePacketArrival : Statement .scalePacketArrival := of_none rfl
theorem getVersion : Statement .getVersion := of_none rfl
theorem getCapabilities : Statement .getCapabilities := of_none rfl
theorem negotiateAlgorithms : Statement .negotiateAlgorithms := of_none rfl
theorem getDigests : Statement .getDigests := of_none rfl
theorem getCertificate : Statement .getCertificate := of_none rfl
theorem challenge : Statement .challenge := of_none rfl
theorem getMeasurements : Statement .getMeasurements := of_none rfl
theorem serviceLevelChange : Statement .serviceLevelChange := of_none rfl
theorem supplySag : Statement .supplySag := of_none rfl
theorem clockRecover : Statement .clockRecover := of_none rfl
theorem reset : Statement .reset := of_none rfl
theorem tileOperationComplete : Statement .tileOperationComplete := of_none rfl
theorem keyLoadDone : Statement .keyLoadDone := of_none rfl
theorem priEnable : Statement .priEnable := of_none rfl
theorem softError : Statement .softError := of_none rfl

end Laws.HeaderField

theorem Laws.HeaderField.seal (h : Header) (d : SReg) : Laws.HeaderField.Statement (.seal h d) :=
  Laws.HeaderField.of_header rfl 0x7A 0 (RawE.pack_hdr _)

end Sys2Proof
end

