-- ==== Sys2Proof/Tests/Slice0.lean ====
section
/-! SUPPORT. Tests: words of the spec decode to their instructions, each check of WellFormed refuses an ill-formed term, single steps
give what the spec's examples and rules say, and every statement with hypotheses has a state and operands that meet them, at the
boundaries of its clauses. -/

namespace Sys2Proof.Tests

open Sys2Proof.Machine

set_option maxRecDepth 4000
set_option Elab.async false

/-! ## Small states -/

/-- A live context with its program counter at 0x1000 and some registers. -/
def tc (regs : Sparse Word) : Ctx := { run := .live, pc := 0x1000, s := regs }

/-- Core 0 with a context 0, in service, which issues. -/
def ts (c : Ctx) (k : Core := {}) : State := { svc := 3, cores := [(0, { k with ctxs := (0, c) :: k.ctxs })] }

/-- Core 0 with a handler context that issues. -/
def th (c : Ctx) (k : Core := {}) : State :=
  { svc := 3, curCtx := 15, cores := [(0, { k with ctxs := k.ctxs ++ [(15, c)] })] }

def sr (r : BitVec 6) : SReg := { r := r }
def kr (r : BitVec 3) : KReg := { r := r }
def vr (r : BitVec 5) : VReg := { r := r }
def vs (r : BitVec 5) : VSrc := { r := r }
def mr (r : BitVec 2) : MReg := { r := r }
def rg (r : BitVec 6) : SCon := .reg r false
def cn (c : BitVec 7) : SCon := .con c
def ad (b : BitVec 6) (d : BitVec 32) : Addr := { base := sr b, idx := sr 0, scl := 0, disp := d }

/-- The state after the instruction, when it ends in one. -/
def after (i : Instr) (s : State) : State := match exec i s with
  | .next t => t
  | _ => s

/-- What an instruction leaves in an s register, and the cause code and `ctl.einfo` of a context that it trapped. -/
def getS (i : Instr) (s : State) (r : BitVec 6) : Word := (after i s).me.getS r
def trapped (i : Instr) (s : State) : Option (BitVec 8 × Word) :=
  let c := (after i s).me
  if c.run = .trapped then some (c.cause.extractLsb' 0 8, c.einfo) else none

/-- Tenant 0 has a page of 64 KiB at 0x20000 whose bytes stand at the same physical address, with every right. -/
def lf2 : Leaf := { p := true, rd := true, wr := true, ex := true, frame := 2 }
def page2 : TenantState := { leaves := [(2, lf2)] }
def pg (s : State) : State := { s with tenants := [(0, page2)] }

/-- The items of a request are admitted; a request leaves and is answered, and a packet is delivered, with no hold. -/
def admits (s : State) (l : List Nat) (d : Die) : Bool :=
  !linkFull s (coreDie s.curCore) d && (match admitAll s l d with
    | .ok _ => true
    | _ => false)
def exchanges (s : State) (d : Die) (sync : Bool) : Bool :=
  !unserved s (coreDie s.curCore) d && !linkFull s (coreDie s.curCore) d && (exchange s (coreDie s.curCore) d sync).isSome
def admitsItems (s : State) (mem fab : List Nat) : Bool := match admitItems s mem fab with
  | .ok _ => true
  | _ => false
def requests (s : State) (l : List Nat) (d : Die) (sync : Bool) : Bool := exchanges s d sync && admits s l d
def crosses (s : State) (l : List Nat) (d : Die) (sync : Bool) : Bool := (crossing s (coreDie s.curCore) d sync).isSome && admits s l d
/-- An address translates to a physical address on the page at 0x20000. -/
def goesTo (s : State) (a : Word) (k : AccKind) (p : Nat) : Bool :=
  match translate (countIssue s) s.curCore s.myTenant a k with
  | .ok q key l => p == q && key == 2 && l == lf2
  | _ => false

/-- The instruction ends in a hold of its context: its program counter stays and its core has tried it. -/
def holds (i : Instr) (s : State) : Bool := (after i s).myCore.tried == [s.curCtx] && (after i s).me.pc == s.me.pc

/-! ## A word of every row of the opcode map, from the tables of R62 to R81, and the refused words -/

/-- The words decode to the instructions they stand for. -/
def reads (l : List (Nat × Instr)) : Bool := l.all (fun e => match decodeWord {} (BitVec.ofNat 128 e.1) with
  | .ok i => i == e.2
  | .error _ => false)

theorem test_words_control : reads [
    (0x0, .nop {}),
    (0x3FFFFFFFFF0000000000001, .br {} (-4)),
    (0x14000000000002, .brl {} 5),
    (0x3, .ret {}),
    (0xC01440000000000140900000004, .jt {} (sr 9) (sr 10) 0x51 3),
    (0x400A80000000000000000000005, .land {} 0x2A true),
    (0x3FFFFFFFFFC000B00000006, .loop {} (sr 11) (-1)),
    (0x91A000000000000007, .trap {} 0x1234),
    (0x8, .eret {})] = true := by decide +kernel
theorem test_words_scalar : reads [
    (0x7C804000300000010, .add {} (sr 3) (rg 1) (cn (-7))),
    (0x7D004000300000110, .sub {} (sr 3) (rg 1) (cn (-6))),
    (0x7D804000300000210, .and {} (sr 3) (rg 1) (cn (-5))),
    (0x7E004000300000310, .or {} (sr 3) (rg 1) (cn (-4))),
    (0x7E804000300000410, .xor {} (sr 3) (rg 1) (cn (-3))),
    (0x7F004000300000510, .andn {} (sr 3) (rg 1) (cn (-2))),
    (0x7F804000300000610, .shl {} (sr 3) (rg 1) (cn (-1))),
    (0x40004000300000710, .shr {} (sr 3) (rg 1) (cn (0))),
    (0x40804000300000810, .sra {} (sr 3) (rg 1) (cn (1))),
    (0x41004000300000910, .rol {} (sr 3) (rg 1) (cn (2))),
    (0x41804000300000A10, .min {} (sr 3) (rg 1) (cn (3))),
    (0x42004000300000B10, .max {} (sr 3) (rg 1) (cn (4))),
    (0x42804000300000C10, .minu {} (sr 3) (rg 1) (cn (5))),
    (0x43004000300000D10, .maxu {} (sr 3) (rg 1) (cn (6)))] = true := by decide +kernel
theorem test_words_scalar_immediate : reads [
    (0x4000000000000000000020300000011, .addImm {} (sr 3) (rg 1) 0x8000000000000000),
    (0x4000000000000000800020300000111, .subImm {} (sr 3) (rg 1) 0x8000000000000001),
    (0x4000000000000001000020300000211, .andImm {} (sr 3) (rg 1) 0x8000000000000002),
    (0x4000000000000001800020300000311, .orImm {} (sr 3) (rg 1) 0x8000000000000003),
    (0x4000000000000002000020300000411, .xorImm {} (sr 3) (rg 1) 0x8000000000000004),
    (0x4000000000000002800020300000511, .andnImm {} (sr 3) (rg 1) 0x8000000000000005),
    (0x4000000000000003000020300000611, .shlImm {} (sr 3) (rg 1) 0x8000000000000006),
    (0x4000000000000003800020300000711, .shrImm {} (sr 3) (rg 1) 0x8000000000000007),
    (0x4000000000000004000020300000811, .sraImm {} (sr 3) (rg 1) 0x8000000000000008),
    (0x4000000000000004800020300000911, .rolImm {} (sr 3) (rg 1) 0x8000000000000009),
    (0x4000000000000005000020300000A11, .minImm {} (sr 3) (rg 1) 0x800000000000000a),
    (0x4000000000000005800020300000B11, .maxImm {} (sr 3) (rg 1) 0x800000000000000b),
    (0x4000000000000006000020300000C11, .minuImm {} (sr 3) (rg 1) 0x800000000000000c),
    (0x4000000000000006800020300000D11, .maxuImm {} (sr 3) (rg 1) 0x800000000000000d)] = true := by decide +kernel
theorem test_words_integers : reads [
    (0x1004003F00000012, .mul {} (sr 63) (rg 1) (rg 2)),
    (0x1004003F00000112, .mulh {} (sr 63) (rg 1) (rg 2)),
    (0x1004003F00000212, .mulhu {} (sr 63) (rg 1) (rg 2)),
    (0x1F004000300000013, .div {} (sr 3) (rg 1) (rg 62)),
    (0x1F004000300000113, .divu {} (sr 3) (rg 1) (rg 62)),
    (0x1F004000300000213, .rem {} (sr 3) (rg 1) (rg 62)),
    (0x1F004000300000313, .remu {} (sr 3) (rg 1) (rg 62)),
    (0x3FC000300000014, .clz {} (sr 3) (cn (-1))),
    (0x3FC000300000114, .ctz {} (sr 3) (cn (-1))),
    (0x3FC000300000214, .popc {} (sr 3) (cn (-1))),
    (0x50804000300000314, .sext {} (sr 3) (rg 1) (cn 33)),
    (0x50804000300000414, .zext {} (sr 3) (rg 1) (cn 33)),
    (0x800000000001004000300000514, .bext {} (sr 3) (rg 1) (rg 2) 64),
    (0xE0000000501004000300000614, .bins {} (sr 3) (rg 1) (rg 2) (rg 5) 7),
    (0x200990000300000017, .sel {} (sr 3) (kr 4) (rg 1) (rg 2)),
    (0x7FFFFFFFFFFFFFFF800000300000018, .movi {} (sr 3) 0xFFFFFFFFFFFFFFFF),
    (0x300000300000019, .mov {} (.s (sr 3) (cn 64))),
    (0x12060000110004300000019, .mov {} (.v (vr 3) { r := 4, mod := 0x903 })),
    (0x190006300000019, .mov {} (.k (kr 3) (kr 4))),
    (0x7FFFFFFC0301408030000001A, .lea {} (sr 3) { base := sr 4, idx := sr 5, scl := 6, disp := -8 }),
    (0x123C00030000001B, .gaddr {} (sr 3) (cn 15) (rg 2)),
    (0x123C00000000001C, .dtset {} (cn 15) (sr 2))] = true := by decide +kernel
theorem test_words_predicates : reads [
    (0x1004C46100000015, .cmpEq {} (kr 1) (kr 2) (rg 1) (rg 2)),
    (0x4988026100000016, .cmpEqImm {} (kr 1) (kr 2) (rg 1) 9),
    (0x1004C46100000115, .cmpNe {} (kr 1) (kr 2) (rg 1) (rg 2)),
    (0x4988026100000116, .cmpNeImm {} (kr 1) (kr 2) (rg 1) 9),
    (0x1004C46100000215, .cmpLt {} (kr 1) (kr 2) (rg 1) (rg 2)),
    (0x4988026100000216, .cmpLtImm {} (kr 1) (kr 2) (rg 1) 9),
    (0x1004C46100000315, .cmpGe {} (kr 1) (kr 2) (rg 1) (rg 2)),
    (0x4988026100000316, .cmpGeImm {} (kr 1) (kr 2) (rg 1) 9),
    (0x1004C46100000415, .cmpLtu {} (kr 1) (kr 2) (rg 1) (rg 2)),
    (0x4988026100000416, .cmpLtuImm {} (kr 1) (kr 2) (rg 1) 9),
    (0x1004C46100000515, .cmpGeu {} (kr 1) (kr 2) (rg 1) (rg 2)),
    (0x4988026100000516, .cmpGeuImm {} (kr 1) (kr 2) (rg 1) 9),
    (0x3198800610000001D, .plogAnd {} (kr 1) (kr 2) (kr 3)),
    (0x3198800610000011D, .plogOr {} (kr 1) (kr 2) (kr 3)),
    (0x3198800610000021D, .plogXor {} (kr 1) (kr 2) (kr 3)),
    (0x3198800610000031D, .plogAndn {} (kr 1) (kr 2) (kr 3))] = true := by decide +kernel
theorem test_words_floats : reads [
    (0x20000000001004000300000020, .fadd {} (sr 3) (sr 1) (sr 2) true),
    (0x20000000001004000300000120, .fsub {} (sr 3) (sr 1) (sr 2) true),
    (0x20000000001004000300000220, .fmul {} (sr 3) (sr 1) (sr 2) true),
    (0x20000000001004000300000320, .fdiv {} (sr 3) (sr 1) (sr 2) true),
    (0x20000000001004000300000420, .fmin {} (sr 3) (sr 1) (sr 2) true),
    (0x20000000001004000300000520, .fmax {} (sr 3) (sr 1) (sr 2) true),
    (0x4000300000620, .fsqrt {} (sr 3) (sr 1) false),
    (0x501004000300000021, .fma {} (sr 3) (sr 1) (sr 2) (sr 5) false),
    (0x501004000300000121, .fms {} (sr 3) (sr 1) (sr 2) (sr 5) false),
    (0x501004000300000221, .fnma {} (sr 3) (sr 1) (sr 2) (sr 5) false),
    (0x20000000001004C46100000022, .fcmpEq {} (kr 1) (kr 2) (sr 1) (sr 2) true),
    (0x20000000001004C46100000122, .fcmpNe {} (kr 1) (kr 2) (sr 1) (sr 2) true),
    (0x20000000001004C46100000222, .fcmpLt {} (kr 1) (kr 2) (sr 1) (sr 2) true),
    (0x20000000001004C46100000322, .fcmpGe {} (kr 1) (kr 2) (sr 1) (sr 2) true),
    (0x20000000001004C46100000422, .fcmpUn {} (kr 1) (kr 2) (sr 1) (sr 2) true),
    (0x11A0000000000004000300000023, .fcvt {} (sr 3) (sr 1) .fp64 .i64 .rdn),
    (0x4000300000024, .fclass {} (sr 3) (sr 1) false)] = true := by decide +kernel
theorem test_words_vectors : reads [
    (0x14048020021104004300000030, .vadd {} (vr 3) { r := 1, mod := 0x401 } { r := 2, mod := 0xA02 }),
    (0x14048020021104004300000130, .vsub {} (vr 3) { r := 1, mod := 0x401 } { r := 2, mod := 0xA02 }),
    (0x14048020021104004300000230, .vmul {} (vr 3) { r := 1, mod := 0x401 } { r := 2, mod := 0xA02 }),
    (0x14048020021104004300000330, .vmin {} (vr 3) { r := 1, mod := 0x401 } { r := 2, mod := 0xA02 }),
    (0x14048020021104004300000430, .vmax {} (vr 3) { r := 1, mod := 0x401 } { r := 2, mod := 0xA02 }),
    (0x14048020021104004300000530, .vand {} (vr 3) { r := 1, mod := 0x401 } { r := 2, mod := 0xA02 }),
    (0x14048020021104004300000630, .vor {} (vr 3) { r := 1, mod := 0x401 } { r := 2, mod := 0xA02 }),
    (0x14048020021104004300000730, .vxor {} (vr 3) { r := 1, mod := 0x401 } { r := 2, mod := 0xA02 }),
    (0x14048020021104004300000830, .vandn {} (vr 3) { r := 1, mod := 0x401 } { r := 2, mod := 0xA02 }),
    (0x14048020021104004300000930, .vshl {} (vr 3) { r := 1, mod := 0x401 } { r := 2, mod := 0xA02 }),
    (0x14048020021104004300000A30, .vshr {} (vr 3) { r := 1, mod := 0x401 } { r := 2, mod := 0xA02 }),
    (0x14048020021104004300000B30, .vsra {} (vr 3) { r := 1, mod := 0x401 } { r := 2, mod := 0xA02 }),
    (0x4521104004300000031, .vfma {} (vr 3) (vs 1) (vs 2) (vr 5)),
    (0x4521104004300000131, .vfms {} (vr 3) (vs 1) (vs 2) (vr 5)),
    (0x4521104004300000231, .vfnma {} (vr 3) (vs 1) (vs 2) (vr 5)),
    (0x21104004300000032, .vcmpEq {} (vr 3) (vs 1) (vs 2)),
    (0x21104004300000132, .vcmpNe {} (vr 3) (vs 1) (vs 2)),
    (0x21104004300000232, .vcmpLt {} (vr 3) (vs 1) (vs 2)),
    (0x21104004300000332, .vcmpGe {} (vr 3) (vs 1) (vs 2)),
    (0x21104004300000432, .vcmpLtu {} (vr 3) (vs 1) (vs 2)),
    (0x21104004300000532, .vcmpGeu {} (vr 3) (vs 1) (vs 2)),
    (0x21104004300000632, .vcmpUn {} (vr 3) (vs 1) (vs 2)),
    (0x4521104004300000033, .vsel {} (vr 3) (vs 1) (vs 2) (vr 5)),
    (0x104004300000034, .vabs {} (vr 3) (vs 1)),
    (0x104004300000134, .vneg {} (vr 3) (vs 1)),
    (0x8000000002210C004500000035, .vdot {} (vr 5) (vs 3) (vs 4) 4),
    (0x2000000000010C004500000036, .vsum {} (vr 5) (vs 3) 1),
    (0xFE8000000000010C004500000037, .vcvt {} (vr 5) (vs 3) .t8 0x7F false),
    (0x14000000000010C004500000038, .vtag {} (vr 5) (vs 3) .i64),
    (0x10C000500000039, .vgtag {} (sr 5) (vs 3)),
    (0x2000000000020C00450000003A, .vsplat {} (vr 5) (cn 3) .i8),
    (0x4190C00050000003B, .vext {} (sr 5) (vs 3) (cn 3)),
    (0x820090C00450000003C, .vins {} (vr 5) (vs 3) (rg 1) (cn 2)),
    (0x2210C00450000003D, .vperm {} (vr 5) (vs 3) (vs 4)),
    (0x10000000002210C00450000003E, .vpack {} (vr 5) (vs 3) (vs 4) .i16),
    (0x12000000000010C00450000003F, .vunpkLo {} (vr 5) (vs 3) .i32),
    (0xE000000000010C00450000013F, .vunpkHi {} (vr 5) (vs 3) .fp32),
    (0x10C004500000040, .vsfnExp2 {} (vr 5) (vs 3)),
    (0x10C004500000140, .vsfnLog2 {} (vr 5) (vs 3)),
    (0x10C004500000240, .vsfnRcp {} (vr 5) (vs 3)),
    (0x10C004500000340, .vsfnRsqrt {} (vr 5) (vs 3)),
    (0x10C004500000440, .vsfnTanh {} (vr 5) (vs 3)),
    (0x10C004500000540, .vsfnSigm {} (vr 5) (vs 3)),
    (0x10C004500000640, .vsfnSilu {} (vr 5) (vs 3)),
    (0x10C004500000740, .vsfnErf {} (vr 5) (vs 3))] = true := by decide +kernel
theorem test_words_matrix : reads [
    (0x6B00000050, .mzero {} (mr 3)),
    (0x432000000054286900000051, .mma {} (mr 1) (sr 20) (sr 21) 2 3 4),
    (0x46900000052, .mload {} (mr 1) (sr 2)),
    (0x1A4040000000053, .mstore {} (sr 2) (mr 1)),
    (0x9000000008D20000000054, .mcvt {} (mr 1) (sr 2) 9),
    (0x449A4004300000055, .mmvGet {} (vr 3) (mr 1) (cn 9)),
    (0x110C006900000155, .mmvPut {} (mr 1) (vs 3) (rg 2)),
    (0x1A8000000000056, .mwait {} (mr 2)),
    (0x100005123400280020000000057, .gemv {} (sr 1) (cn 32) (sr 0) 0x1234 5 true false),
    (0x200000123402280020000000057, .gemv {} (sr 1) (cn 32) (sr 4) 0x1234 0 false true),
    (0xE0000000058, .mspill {} (sr 7)),
    (0xE0000000059, .mrest {} (sr 7))] = true := by decide +kernel
theorem test_words_memory : reads [
    (0x7FFFFFFC09814080300000060, .ld {} (sr 3) { base := sr 4, idx := sr 5, scl := 3, disp := -8 } .w),
    (0x7FFFFFFC05814080300000160, .ldSx {} (sr 3) { base := sr 4, idx := sr 5, scl := 3, disp := -8 } .h),
    (0x7FFFFFFC01814080300000061, .st {} (sr 3) { base := sr 4, idx := sr 5, scl := 3, disp := -8 } .b),
    (0x7FFFFFFC69814084300000062, .ldv {} (vr 3) { base := sr 4, idx := sr 5, scl := 3, disp := -8 } .i64),
    (0x7FFFFFFC4D814084300000063, .stv {} (vr 3) { base := sr 4, idx := sr 5, scl := 3, disp := -8 } .t6),
    (0x7FFFFFFC0D814080300000064, .ldc {} (sr 3) { base := sr 4, idx := sr 5, scl := 3, disp := -8 } .d),
    (0x7FFFFFFC01814080300000164, .ldcSx {} (sr 3) { base := sr 4, idx := sr 5, scl := 3, disp := -8 } .b),
    (0x700000000700009024300000065, .ldt {} (vr 3) (cn 1) (rg 2) 7 .fp32),
    (0x721809020000000066, .stt {} (cn 1) (rg 2) (vr 3) 7),
    (0x7FFFFFFC01814080000000067, .pref {} { base := sr 4, idx := sr 5, scl := 3, disp := -8 }),
    (0x7FFFFFFC41814080000000068, .prefi {} { base := sr 4, idx := sr 5, scl := 3, disp := -8 } 16),
    (0x1B8037FFFFFFC0D814080300000090, .amo {} (sr 3) { base := sr 4, idx := sr 5, scl := 3, disp := -8 } .d (rg 6) .swap .sc .mod),
    (0x129437FFFFFFC09814080000000091, .red {} { base := sr 4, idx := sr 5, scl := 3, disp := -8 } .w (cn 6) .fadd .rel .die),
    (0x90037FFFFFFC0D814080300000092, .cas {} (sr 3) { base := sr 4, idx := sr 5, scl := 3, disp := -8 } .d (rg 6) .acq .clu),
    (0x40007FFFFFFC09814080300000093, .lda {} (sr 3) { base := sr 4, idx := sr 5, scl := 3, disp := -8 } .w .sys),
    (0x7FFFFFFC09814080300000094, .stl {} (sr 3) { base := sr 4, idx := sr 5, scl := 3, disp := -8 } .w .core),
    (0x40000000000000000000000000095, .fence {} .sys),
    (0x10420000000000000000000000000096, .xfence {} .die 0x41),
    (0x5804000000000097, .tilset {} (sr 1) (sr 11)),
    (0x4000300000098, .tilget {} (sr 3) (sr 1)),
    (0x4000000000099, .tilarm {} (sr 1))] = true := by decide +kernel
theorem test_words_movement : reads [
    (0xF000041218020000000070, .rdef {} (sr 1) (cn 6) (cn 2) 15),
    (0x3000000000000100000071, .racq {} (sr 1) 3),
    (0x100003000000000000100000071, .racqFree {} (sr 1) 3),
    (0x3000000000020000000072, .rrel {} (sr 1) 3),
    (0x3000000000000000000073, .rres {} 3),
    (0x3000000000020000000074, .rpub {} (sr 1) 3),
    (0x3000048008020000000078, .send {} (sr 1) (sr 2) (cn 16) 3),
    (0x20000000079, .cpy {} (sr 1)),
    (0x10000007A, .seal {} (sr 1)),
    (0x11E000000007B, .bwait {} (cn 15)),
    (0x2FFFF0000900000000007C, .tsub {} (cn 0) (rg 2) 0xFFFF 2),
    (0x2000D0020900000000007D, .tdrain {} (cn 0) (cn 2) 13 2),
    (0x300000000900000B8430000007E, .gath {} (vr 3) (vr 28) 9 3),
    (0x900000026200000080, .tfind {} (kr 2) (rg 1) 9),
    (0x90020C020000000081, .tnear {} (rg 1) (cn 3) 9),
    (0x90021C020000000082, .thalo {} (rg 1) (cn 7) 9),
    (0x900000000000000083, .tdrop {} 9),
    (0x900000000000000084, .tflush {} 9),
    (0x90A0000000088, .tdef {} (cn 5) (sr 2)),
    (0x90A0000000089, .tget {} (cn 5) (sr 2)),
    (0x4000000008A, .tkill {} (rg 2))] = true := by decide +kernel
theorem test_words_execution : reads [
    (0x85010040003000000A0, .start {} (sr 3) (sr 1) (rg 2) (cn 5)),
    (0x8501004C803000001A0, .startTry {} (sr 3) (kr 4) (sr 1) (rg 2) (cn 5)),
    (0x3E010040000000000A1, .amsg {} (sr 1) (sr 2) (sr 62)),
    (0x5010040064000001A1, .amsgTry {} (kr 4) (sr 1) (sr 2) (sr 5)),
    (0xA2, .exit {}),
    (0xA3, .yield {}),
    (0x2040003000000A4, .wait {} (sr 3) (cn 1)),
    (0x408040000000000A5, .sig {} (sr 1) (cn 1)),
    (0xA6, .bar {}),
    (0x1A6, .barX {}),
    (0xA7, .arrive {}),
    (0x429040000090000A9, .xsend { dly := 9 } (vs 1) (cn 5)),
    (0x2180044000000AA, .xsel {} (vr 4) (cn 6)),
    (0x40000000000AB, .dom {} (sr 1))] = true := by decide +kernel
theorem test_words_tasks : reads [
    (0x803C0000000000B0, .park {} (sr 15) (sr 16)),
    (0x803C0064000001B0, .parkTry {} (kr 4) (sr 15) (sr 16)),
    (0x82080000000000B1, .enq {} (cn 2) (sr 16)),
    (0x82080064000001B1, .enqTry {} (kr 4) (cn 2) (sr 16)),
    (0x82080003000000B2, .jinit {} (sr 3) (cn 2) (sr 16)),
    (0x8208C803000001B2, .jinitTry {} (sr 3) (kr 4) (cn 2) (sr 16)),
    (0x40000000000B3, .jdone {} (sr 1)),
    (0x82080000000000B4, .stdecl {} (cn 2) (sr 16)),
    (0x140000000C002080000000000B5, .dist {} (cn 2) (sr 0) (sr 12) 10),
    (0xB00400000000000000000000000B6, .scall {} 0x802 5),
    (0x2B00400000000000000000000000B6, .scallSc {} 0x802 5),
    (0x400000000000282A14000000C0, .fold {} (sr 20) (sr 21) (sr 10) 2),
    (0x40000000000C1, .callh {} (sr 1)),
    (0x40000000000C2, .relh {} (sr 1)),
    (0x40003000000C3, .hstat {} (sr 3) (sr 1))] = true := by decide +kernel
theorem test_words_system : reads [
    (0x2800000000000000003000000D0, .mfc {} (sr 3) .cycle),
    (0x800000000000280000000000D1, .mtc {} (rg 10) .evec),
    (0x1A000000000020C0000000000D1, .mtcLmcfg {} (cn 3)),
    (0x14000000000020C0000000000D1, .mtcMxcnt {} (cn 3)),
    (0x20C0000000000D1, .mtcStatus {} (cn 3)),
    (0x100000000000D2, .csave {} (rg 4)),
    (0x100000000000D3, .crest {} (rg 4)),
    (0x100000000000D4, .nispl {} (rg 4)),
    (0x2140803000000D5, .jrnl {} (sr 3) (sr 4) (cn 5)),
    (0x100000000000D6, .tlbi {} (sr 4)),
    (0x1D6, .tlbiAll {}),
    (0x3000000D7, .time {} (sr 3)),
    (0xD8, .unassignedOp 0xD8),
    (0xE10, .unassignedOp 0xE10),
    (0x810040003171ED010, .add { g0 := 5, g0n := true, g1 := 6, g1n := true, hint := 1, dly := 7, yld := true } (sr 3) (rg 1) (.reg 2 true))] = true := by decide +kernel

/-- One term for each check of WellFormed, which the check refuses (R58 to R81). -/
theorem test_ill_formed : ([.jt {} (sr 1) (sr 2) 5 0, .land { g0 := 1 } 5 false, .bext {} (sr 1) (rg 2) (cn 0) 0, .bext {} (sr 1) (rg 2) (cn 0) 65, .bins {} (sr 1) (rg 2) (rg 3) (cn 0) 0,
    .cmpEq {} (kr 1) (kr 1) (rg 1) (rg 2), .cmpLtImm {} (kr 2) (kr 2) (rg 1) 5, .mov {} (.v (vr 1) { r := 2, mod := 1 }), .lea {} (sr 1) { base := sr 1, idx := sr 0, scl := 1, disp := 0 },
    .fcmpEq {} (kr 1) (kr 1) (sr 1) (sr 2) true, .fcvt {} (sr 1) (sr 2) .fp32 .fp32 .rne, .fcvt {} (sr 1) (sr 2) .i32 .i64 .rne, .fcvt {} (sr 1) (sr 2) .i32 .fp32 .rz,
    .vadd {} (vr 1) (vs 2) { r := 3, mod := 0x680 }, .vfma {} (vr 1) { r := 3, mod := 5 } (vs 2) (vr 3), .vdot {} (vr 1) (vs 2) (vs 3) 5, .vsum {} (vr 1) (vs 2) 5, .vcvt {} (vr 1) (vs 2) .i8 1 true,
    .mma {} (mr 1) (sr 1) (sr 2) 1 2 0, .gemv {} (sr 1) (cn 1) (sr 2) 5 1 false false, .gemv {} (sr 1) (cn 1) (sr 2) 5 1 false true,
    .st {} (sr 1) { base := sr 1, idx := sr 0, scl := 1, disp := 0 } .b, .prefi {} (ad 1 0) 0, .prefi {} (ad 1 0) 17, .gath {} (vr 1) (vr 30) 5 2,
    .amo {} (sr 1) (ad 1 0) .h (cn 0) .add .rlx .clu, .amo {} (sr 1) (ad 1 0) .d (cn 0) .fadd .rlx .clu, .red {} (ad 1 0) .w (cn 0) .add .acq .clu, .cas {} (sr 1) (ad 1 0) .b (cn 0) .rlx .clu,
    .xfence {} .die 1, .amsg {} (sr 1) (sr 2) (sr 63), .amsgTry {} (kr 1) (sr 1) (sr 2) (sr 63), .dist {} (cn 1) (sr 1) (sr 2) 0, .fold {} (sr 1) (sr 1) (sr 2) 0,
    .mtc {} (cn 0) .time, .jrnl {} (sr 1) (sr 1) (cn 0), .unassignedOp 0x10] : List Instr).all (fun i => !i.wellFormed) = true := by decide +kernel
/-- Two destinations may both be s0 or k0, and the bounds of the ranges are allowed (R61, R67, R80). -/
theorem test_well_formed : ([.cmpEq {} (kr 0) (kr 0) (rg 1) (rg 2), .fold {} (sr 0) (sr 0) (sr 2) 0, .bext {} (sr 1) (rg 2) (cn 0) 64, .prefi {} (ad 1 0) 16, .gath {} (vr 1) (vr 28) 5 3,
    .amsg {} (sr 1) (sr 2) (sr 62), .vdot {} (vr 1) (vs 2) (vs 3) 4, .xfence {} .die 0x41, .red {} (ad 1 0) .w (cn 0) .fadd .sc .clu, .unassignedOp 0xD8] : List Instr).all (·.wellFormed) = true := by
  decide +kernel
/-- The bit number that each check of R70 gives, in its order: reserved header bits, an unassigned OP and FN, a slot of the wrong
kind, a modifier, two equal destinations, a field. -/
def refuses (l : List (Nat × Nat)) : Bool := l.all (fun e => match decodeWord {} (BitVec.ofNat 128 e.1) with
  | .ok (.unassignedOp _) => e.2 == 0
  | .ok _ => false
  | .error b => b == e.2)
theorem test_refused_words : refuses [(2 ^ 31 + 2 ^ 23, 23), (2 ^ 29, 29), (0xFF, 0), (0xE10, 0), (0x10 + 0x80 * 2 ^ 32, 32), (0x10 + 0x6C * 2 ^ 50, 50), (0x10 + 1 * 2 ^ 41, 41),
    (0x10 + 1 * 2 ^ 77, 77), (0x30 + 0x40 * 2 ^ 32 + 0x40 * 2 ^ 50 + 0x40 * 2 ^ 59 + 0x680 * 2 ^ 89, 89), (0x15 + 0x61 * 2 ^ 32 + 0x61 * 2 ^ 41, 41), (0x16 + 0x61 * 2 ^ 32 + 0x61 * 2 ^ 50, 50),
    (0x23 + 4 * 2 ^ 101 + 4 * 2 ^ 104, 104), (0x23 + 4 * 2 ^ 104 + 1 * 2 ^ 107, 107), (0x01 + 2 ^ 90, 90), (0x38 + 0x40 * 2 ^ 32 + 0x40 * 2 ^ 50 + 11 * 2 ^ 101, 101),
    (0x60 + 4 * 2 ^ 62, 62), (0x60 + 1 * 2 ^ 59, 59), (0x04 + 1 * 2 ^ 32, 106)] = true := by decide +kernel

/-! ## The scalar unit -/

def a1 : State := ts (tc [(1, 0xFFFFFFFFFFFFFFF9), (2, 2), (3, 0x8000000000000000)])

-- R112: `div` of −7 by 2 gives −3, and `rem` gives −1; R110: `shr` by −1 shifts by 63; R115: the example of `bins`
theorem test_div_example : getS (.div {} (sr 4) (rg 1) (cn 2)) a1 4 = BitVec.ofInt 64 (-3) := by decide +kernel
theorem test_rem_example : getS (.rem {} (sr 4) (rg 1) (cn 2)) a1 4 = BitVec.ofInt 64 (-1) := by decide +kernel
theorem test_div_least : getS (.div {} (sr 4) (rg 3) (cn 127)) a1 4 = 0x8000000000000000 := by decide +kernel
theorem test_div_zero : trapped (.div {} (sr 4) (rg 1) (cn 0)) a1 = some (0x05, 0) := by decide +kernel
theorem test_div_zero_quiet : getS (.divu {} (sr 4) (rg 1) (cn 0)) (ts { tc [(1, 5)] with dzt := false }) 4 = BitVec.allOnes 64 := by
  decide +kernel
theorem test_rem_zero_flag : (after (.rem {} (sr 4) (rg 1) (cn 0)) (ts { tc [(1, 5)] with dzt := false })).me.flags = 0x02 := by
  decide +kernel
theorem test_shr_amount : getS (.shr {} (sr 4) (rg 1) (cn 127)) a1 4 = 1 := by decide +kernel
theorem test_sra_sign : getS (.sra {} (sr 4) (rg 3) (cn 63)) a1 4 = BitVec.allOnes 64 := by decide +kernel
theorem test_add_wraps : getS (.add {} (sr 4) (rg 1) (cn 8)) a1 4 = 1 := by decide +kernel
theorem test_sub_source_is_destination : getS (.sub {} (sr 2) (cn 1) (rg 2)) a1 2 = BitVec.ofInt 64 (-1) := by decide +kernel
theorem test_s0_discards : getS (.add {} (sr 0) (rg 1) (cn 8)) a1 0 = 0 := by decide +kernel
theorem test_min_signed : getS (.min {} (sr 4) (rg 1) (rg 2)) a1 4 = 0xFFFFFFFFFFFFFFF9 := by decide +kernel
theorem test_minu_unsigned : getS (.minu {} (sr 4) (rg 1) (rg 2)) a1 4 = 2 := by decide +kernel
theorem test_rol_bit63 : getS (.rol {} (sr 4) (rg 3) (cn 1)) a1 4 = 1 := by decide +kernel
theorem test_mulh_signed : getS (.mulh {} (sr 4) (rg 1) (rg 2)) a1 4 = BitVec.allOnes 64 := by decide +kernel
theorem test_mulhu_unsigned : getS (.mulhu {} (sr 4) (rg 1) (rg 2)) a1 4 = 1 := by decide +kernel
theorem test_bins_example : getS (.bins {} (sr 4) (rg 5) (cn 5) (cn 4) 4) (ts (tc [(5, 0xFFFF)])) 4 = 0xFF5F := by decide +kernel
theorem test_bext_64 : getS (.bext {} (sr 4) (rg 3) (cn 0) 64) a1 4 = 0x8000000000000000 := by decide +kernel
theorem test_clz_zero : getS (.clz {} (sr 4) (cn 0)) a1 4 = 64 := by decide +kernel
theorem test_ctz_bit63 : getS (.ctz {} (sr 4) (rg 3)) a1 4 = 63 := by decide +kernel
theorem test_popc : getS (.popc {} (sr 4) (rg 1)) a1 4 = 62 := by decide +kernel
theorem test_sext_zero_is_64 : getS (.sext {} (sr 4) (rg 1) (cn 0)) a1 4 = 0xFFFFFFFFFFFFFFF9 := by decide +kernel
theorem test_sext_width : getS (.sext {} (sr 4) (cn 2) (cn 2)) a1 4 = BitVec.ofInt 64 (-2) := by decide +kernel
theorem test_cmp_complement : ((after (.cmpLt {} (kr 1) (kr 2) (rg 1) (rg 2)) a1).me.getK 1, (after (.cmpLt {} (kr 1) (kr 2) (rg 1) (rg 2)) a1).me.getK 2)
    = (true, false) := by decide +kernel
theorem test_cmp_unsigned : (after (.cmpLtu {} (kr 1) (kr 2) (rg 1) (rg 2)) a1).me.getK 1 = false := by decide +kernel
theorem test_sel_k0 : getS (.sel {} (sr 4) (kr 0) (cn 7) (cn 8)) a1 4 = 7 := by decide +kernel
theorem test_plog_andn : (after (.plogAndn {} (kr 1) (kr 0) (kr 3)) a1).me.getK 1 = true := by decide +kernel
theorem test_lea_scaled : getS (.lea {} (sr 4) { base := sr 2, idx := sr 1, scl := 1, disp := -4 }) a1 4 = BitVec.ofInt 64 (-16) := by
  decide +kernel
-- R125: the array of eight slabs, offsets 0x5_2345 and 0x12_0010
def dt3 (o : Word) : State := ts { tc [(21, o)] with dt := [(3, 0x0001BD0000080000)] }
theorem test_gaddr_example : getS (.gaddr {} (sr 22) (cn 3) (rg 21)) (dt3 0x52345) 22 = 0x0000010140002345 := by decide +kernel
theorem test_gaddr_second : getS (.gaddr {} (sr 22) (cn 3) (rg 21)) (dt3 0x120010) 22 = 0x0000010080020010 := by decide +kernel
theorem test_gaddr_index : trapped (.gaddr {} (sr 22) (cn 16) (rg 21)) (dt3 0) = some (0x01, 50) := by decide +kernel
theorem test_dtset_field : trapped (.dtset {} (cn 3) (sr 20)) (ts (tc [(20, 0x0002BD0000080000)])) = some (0x01, 128 + 49) := by
  decide +kernel

-- what the statements ask for can be met
theorem test_meets_ScalarResults :
    aluOperands (.sra {} (sr 4) (rg 3) (cn 63)) a1.me = some (sr 4, 0x8000000000000000, 63)
      ∧ aluSpec (.sra {} (sr 4) (rg 3) (cn 63)) 0x8000000000000000 63 = some (BitVec.allOnes 64)
      ∧ Issues (.sra {} (sr 4) (rg 3) (cn 63)) a1 := by decide +kernel
theorem test_meets_BitOperations : Issues (.clz {} (sr 4) (cn 0)) a1 ∧ Issues (.ctz {} (sr 4) (cn 0)) a1 ∧ Issues (.popc {} (sr 4) (cn 0)) a1
    ∧ Issues (.bins {} (sr 4) (rg 1) (rg 2) (cn 63) 64) a1 ∧ Issues (.bins {} (sr 4) (rg 1) (rg 2) (cn 0) 1) a1 := by decide +kernel
theorem test_meets_Division : Issues (.div {} (sr 4) (rg 3) (cn 127)) a1 ∧ readSC a1.me (cn 127) ≠ 0 ∧ readSC a1.me (cn 0) = 0
    ∧ a1.me.dzt = true ∧ (ts { tc [] with dzt := false }).me.dzt = false ∧ Issues (.rem {} (sr 4) (rg 3) (cn 0)) (ts { tc [] with dzt := false }) := by
  decide +kernel
theorem test_meets_Predicates : cmpOperands (.cmpGe {} (kr 1) (kr 2) (rg 1) (cn 0)) a1.me = some (kr 1, kr 2, 0xFFFFFFFFFFFFFFF9, 0)
    ∧ cmpSpec (.cmpGe {} (kr 1) (kr 2) (rg 1) (cn 0)) 0xFFFFFFFFFFFFFFF9 0 = some false ∧ Issues (.cmpGe {} (kr 1) (kr 2) (rg 1) (cn 0)) a1
    ∧ Issues (.plogXor {} (kr 1) (kr 0) (kr 2)) a1 := by decide +kernel
/-- A modifier of class 1 with segments of 2 bytes, which hold no element of FP32. -/
def mod2 : BitVec 12 := 0x480
theorem test_meets_SelectsAndMoves : Issues (.sel {} (sr 4) (kr 0) (cn 7) (cn 8)) a1 ∧ Issues (.mov {} (.s (sr 4) (cn 1))) a1
    ∧ Issues (.mov {} (.k (kr 1) (kr 0))) a1 ∧ Issues (.mov {} (.v (vr 1) (vs 2))) a1 ∧ Issues (.movi {} (sr 4) 9) a1
    ∧ Issues (.lea {} (sr 4) (ad 1 0)) a1 ∧ modBad (a1.me.getV 2) 0 = false ∧ modBad { bits := 0, tag := .fp32 } mod2 = true := by decide +kernel
theorem test_meets_DistributionTable : Issues (.gaddr {} (sr 4) (cn 15) (rg 1)) a1 ∧ (readSC a1.me (cn 15)).toNat < 16
    ∧ 16 ≤ (readSC a1.me (cn 16)).toNat ∧ Issues (.dtset {} (cn 16) (sr 1)) a1 := by decide +kernel
/-- The field values at the boundaries of R123: a good entry, a reserved bit, SLAB without DIES, SLAB 20 and 57, GRAN 8 and 31. -/
theorem test_meets_TableSet :
    (trapped (.dtset {} (cn 0) (sr 1)) (ts (tc [(1, 0x0001BD0000080000)])), trapped (.dtset {} (cn 0) (sr 1)) (ts (tc [(1, 2 ^ 49)])),
      trapped (.dtset {} (cn 0) (sr 1)) (ts (tc [(1, 21 * 2 ^ 41)])), trapped (.dtset {} (cn 0) (sr 1)) (ts (tc [(1, 2 ^ 47 + 20 * 2 ^ 41)])),
      trapped (.dtset {} (cn 0) (sr 1)) (ts (tc [(1, 2 ^ 47 + 57 * 2 ^ 41)])), trapped (.dtset {} (cn 0) (sr 1)) (ts (tc [(1, 2 ^ 47 + 21 * 2 ^ 41 + 8 * 2 ^ 36)])),
      trapped (.dtset {} (cn 0) (sr 1)) (ts (tc [(1, 2 ^ 47 + 56 * 2 ^ 41 + 31 * 2 ^ 36)])))
    = (none, some (0x01, 177), some (0x01, 175), some (0x01, 169), some (0x01, 169), some (0x01, 164), some (0x01, 164)) := by decide +kernel

/-! ## Floating point and packed SIMD -/

/-- Registers of the examples: s1 = 1.0 in FP32, s2 = NaN, s3 = −2.5, s4 = 3.0 × 10^9; v1 and v2 of I32 lanes, v3 of FP32. -/
def f1 : State := ts { tc [(1, 0x3F800000), (2, 0x7FC00001), (3, 0xC0200000), (4, 0x4F32D05E), (5, 0x7FA00000)] with
  v := [(1, { bits := 0x00000004000000030000000280000000, tag := .i32 }), (2, { bits := 0x00000001000000010000000180000000, tag := .i32 })
        , (3, { bits := 0x3F8000003F8000003F8000003F800000, tag := .fp32 }), (4, { bits := 0x01010101010101010101010101010102, tag := .i8 })
        , (5, { bits := 0x3C003C003C003C003C003C003C003C00, tag := .fp16 })] }

def getV (i : Instr) (s : State) (r : BitVec 5) : VVal := (after i s).me.getV r

-- R131: −2.5 to `i32` by each rounding, 3.0 × 10^9 as `i32` and as `ui32`
theorem test_fcvt_rne : getS (.fcvt {} (sr 6) (sr 3) .fp32 .i32 .rne) f1 6 = BitVec.ofInt 64 (-2) := by decide +kernel
theorem test_fcvt_rdn : getS (.fcvt {} (sr 6) (sr 3) .fp32 .i32 .rdn) f1 6 = BitVec.ofInt 64 (-3) := by decide +kernel
theorem test_fcvt_saturates : getS (.fcvt {} (sr 6) (sr 4) .fp32 .i32 .rz) f1 6 = 0x7FFFFFFF := by decide +kernel
theorem test_fcvt_unsigned : getS (.fcvt {} (sr 6) (sr 4) .fp32 .ui32 .rz) f1 6 = 0x00000000B2D05E00 := by decide +kernel
theorem test_fadd : getS (.fadd {} (sr 6) (sr 1) (sr 1) false) f1 6 = 0x40000000 := by decide +kernel
theorem test_fadd_nan : getS (.fadd {} (sr 6) (sr 1) (sr 2) false) f1 6 = 0x7FC00000 := by decide +kernel
theorem test_fadd_signalling : (after (.fadd {} (sr 6) (sr 1) (sr 5) false) f1).me.flags = 0x01 := by decide +kernel
theorem test_fcmp_ne_nan : (after (.fcmpNe {} (kr 1) (kr 2) (sr 1) (sr 2) false) f1).me.getK 1 = true := by decide +kernel
theorem test_fclass_one_bit : getS (.fclass {} (sr 6) (sr 1) false) f1 6 ≠ 0 := by decide +kernel
theorem test_vadd_saturates : getV (.vadd {} (vr 6) (vs 1) (vs 2)) f1 6 = { bits := 0x00000005000000040000000380000000, tag := .i32 } := by
  decide +kernel
theorem test_vadd_tags : trapped (.vadd {} (vr 6) (vs 1) (vs 3)) f1 = some (0x03, 7 * 16 + 9) := by decide +kernel
theorem test_vand_keeps_tag : getV (.vand {} (vr 6) (vs 1) (vs 2)) f1 6 = { bits := 0x00000000000000010000000080000000, tag := .i32 } := by
  decide +kernel
theorem test_vext_lane : getS (.vext {} (sr 6) (vs 1) (cn 0)) f1 6 = 0x80000000 := by decide +kernel
theorem test_vext_beyond : trapped (.vext {} (sr 6) (vs 1) (cn 4)) f1 = some (0x01, 59) := by decide +kernel
theorem test_vsplat : getV (.vsplat {} (vr 6) (cn 1) .i32) f1 6 = { bits := 0x00000001000000010000000100000001, tag := .i32 } := by
  decide +kernel
theorem test_vtag_keeps_bits : getV (.vtag {} (vr 6) (vs 3) .i64) f1 6 = { bits := 0x3F8000003F8000003F8000003F800000, tag := .i64 } := by
  decide +kernel
theorem test_vsum_i8 : getV (.vsum {} (vr 6) (vs 4) 4) f1 6 = { bits := 17, tag := .i32 } := by decide +kernel
/-- A quiet NaN with a payload, a signalling one, 1.0 and the least subnormal, summed alone and converted to their own format (R156, R157). -/
def fn : State := ts { tc [] with v := [(7, { bits := 0x000000013F8000007F8123457FC12345, tag := .fp32 })] }
theorem test_vsum_copies : getV (.vsum {} (vr 6) (vs 7) 2) fn 6 = { bits := 0x000000013F8000007FC000007FC12345, tag := .fp32 }
    ∧ (after (.vsum {} (vr 6) (vs 7) 2) fn).me.flags = 1 := by decide +kernel
theorem test_vcvt_same_tag : getV (.vcvt {} (vr 6) (vs 7) .fp32 0 false) fn 6 = { bits := 0x000000013F8000007FC000007FC12345, tag := .fp32 }
    ∧ (after (.vcvt {} (vr 6) (vs 7) .fp32 0 false) fn).me.flags = 1 := by decide +kernel
theorem test_vsfn_rcp_one : getV (.vsfnRcp {} (vr 6) (vs 3)) f1 6 = { bits := 0x3F8000003F8000003F8000003F800000, tag := .fp32 } := by
  decide +kernel
theorem test_vsfn_tag : trapped (.vsfnExp2 {} (vr 6) (vs 1)) f1 = some (0x03, Tag.i32.bits.setWidth 64) := by decide +kernel

/-- v1 carries I32, v3 FP32, v20 tag 0: `vfma`, `vabs`, `vsel` and `vperm` of tags that they do not accept. -/
theorem test_vector_tags : trapped (.vfma {} (vr 6) (vs 1) (vs 3) (vr 3)) f1 = some (0x03, 0x779) ∧ trapped (.vabs {} (vr 6) (vs 20)) f1 = some (0x03, 0)
    ∧ trapped (.vsel {} (vr 6) (vs 1) (vs 1) (vr 3)) f1 = some (0x03, 0x799) ∧ trapped (.vperm {} (vr 6) (vs 1) (vs 3)) f1 = some (0x03, 0x79) := by
  decide +kernel

-- what the statements ask for can be met
theorem test_meets_FloatArithmetic : Issues (.fadd {} (sr 6) (sr 1) (sr 2) false) f1 ∧ (readF false f1 (sr 2)).isNan = true
    ∧ (floatSpec (.fma {} (sr 6) (sr 1) (sr 1) (sr 3) false) (countIssue f1)).isSome = true
    ∧ (fcmpSpec (.fcmpUn {} (kr 1) (kr 2) (sr 1) (sr 2) true) (countIssue f1)).isSome = true
    ∧ Issues (.fnma {} (sr 6) (sr 5) (sr 1) (sr 3) true) f1 ∧ Issues (.fclass {} (sr 6) (sr 1) true) f1 := by decide +kernel
theorem test_meets_VectorLanes : (laneSpec (.vadd {} (vr 6) (vs 1) (vs 2))).isSome = true ∧ Issues (.vadd {} (vr 6) (vs 1) (vs 2)) f1
    ∧ modBad (f1.me.getV 1) 0 = false ∧ modBad (f1.me.getV 1) mod2 = true ∧ (f1.me.getV 1).tag = (f1.me.getV 2).tag
    ∧ (f1.me.getV 1).tag ≠ (f1.me.getV 3).tag ∧ Tag.i32 ∈ [Tag.i8, .i32] ∧ Issues (.vsel {} (vr 6) (vs 1) (vs 2) (vr 1)) f1
    ∧ Issues (.vfma {} (vr 6) (vs 3) (vs 3) (vr 3)) f1 ∧ (f1.me.getV 3).tag ≠ .b128
    ∧ Issues (.vabs {} (vr 6) (vs 20)) f1 ∧ (f1.me.getV 20).tag = .b128 ∧ modBad (f1.me.getV 20) 0 = false := by decide +kernel
theorem test_meets_VectorSums : Issues (.vdot {} (vr 6) (vs 4) (vs 4) 4) f1 ∧ (f1.me.getV 4).tag = .i8
    ∧ 1 ≤ (f1.me.getV 4).tag.lanes * 2 ^ 4 / 16 ∧ 16 / 2 ^ 4 ≤ Tag.i32.lanes ∧ modBad (f1.me.getV 4) 0 = false
    ∧ Issues (.vsum {} (vr 6) (vs 4) 2) f1 ∧ 16 / 2 ^ 2 ≤ Tag.i32.lanes ∧ (fn.me.getV 7).tag = .fp32 ∧ (fn.me.getV 7).tag.lanes * 2 ^ 2 / 16 = 1
    ∧ Issues (.vsum {} (vr 6) (vs 7) 2) fn ∧ (f1.me.getV 4).tag.lanes * 2 ^ 4 / 16 ≠ 1 := by decide +kernel
theorem test_meets_VectorConversions : Issues (.vcvt {} (vr 6) (vs 3) .bf16 0 false) f1 ∧ (f1.me.getV 3).tag ≠ .b128
    ∧ Issues (.vpack {} (vr 6) (vs 3) (vs 3) .fp16) f1 ∧ Tag.fp16.lanes = 2 * (f1.me.getV 3).tag.lanes
    ∧ Issues (.vunpkHi {} (vr 6) (vs 5) .fp32) f1 ∧ 2 * Tag.fp32.lanes = (f1.me.getV 5).tag.lanes := by decide +kernel
theorem test_meets_VectorTagsAndLanes : Issues (.vins {} (vr 6) (vs 1) (rg 1) (cn 3)) f1 ∧ (readSC f1.me (cn 3)).toNat < (f1.me.getV 1).tag.lanes
    ∧ (f1.me.getV 1).tag.lanes ≤ (readSC f1.me (cn 4)).toNat ∧ Issues (.vperm {} (vr 6) (vs 1) (vs 4)) f1 ∧ (f1.me.getV 4).tag = .i8
    ∧ (f1.me.getV 1).tag ≠ .q4 ∧ Issues (.vperm {} (vr 6) (vs 1) (vs 3)) f1 ∧ (f1.me.getV 3).tag ≠ .b128 ∧ (f1.me.getV 3).tag ≠ .i8
    ∧ Issues (.vgtag {} (sr 6) { vs 1 with mod := mod2 }) f1 ∧ modBad (f1.me.getV 1) mod2 = true := by decide +kernel
theorem test_meets_VectorFunctions : Issues (.vsfnErf {} (vr 6) (vs 5)) f1 ∧ (f1.me.getV 5).tag = .fp16
    ∧ Issues (.vsfnErf {} (vr 6) (vs 1)) f1 ∧ (f1.me.getV 1).tag ≠ .fp32 := by decide +kernel

/-! ## Control flow -/

def c1 : State := ts { tc [(63, 0x2000), (5, 1), (6, 3), (7, 0x2008)] with link := [0x2000], linkSpilled := 1, linkBase := 0x100, linkCap := 4 }
def c2 : State := ts { tc [(63, 0x2000)] with linkSpilled := 1, linkBase := 0x100, linkCap := 4 } { mem := [(0x101, 0x20)] }
def c3 : State := ts { tc [] with link := List.replicate 16 0x3000, linkSpilled := 1, linkBase := 0x100, linkCap := 4 }
def c4 : State := ts { tc [] with link := List.replicate 16 0x3000 }

theorem test_loop_last : ((after (.loop {} (sr 5) 8) c1).me.pc, getS (.loop {} (sr 5) 8) c1 5) = (0x1010, 0) := by decide +kernel
theorem test_loop_back : ((after (.loop {} (sr 6) (-4)) c1).me.pc, getS (.loop {} (sr 6) (-4)) c1 6) = (0xFC0, 2) := by decide +kernel
theorem test_loop_s0 : (after (.loop {} (sr 0) 8) c1).me.pc = 0x1010 := by decide +kernel
theorem test_br_back : (after (.br {} (-1)) c1).me.pc = 0xFF0 := by decide +kernel
theorem test_brl_pushes : (after (.brl {} 2) c1).me.link = [0x1010, 0x2000] := by decide +kernel
theorem test_brl_full : trapped (.brl {} 2) c4 = some (0x08, 1) := by decide +kernel
theorem test_ret : ((after (.ret {}) c1).me.pc, (after (.ret {}) c1).me.link) = (0x2000, []) := by decide +kernel
theorem test_ret_spilled : ((after (.ret {}) c2).me.pc, (after (.ret {}) c2).me.linkSpilled) = (0x2000, 0) := by decide +kernel
theorem test_ret_empty : trapped (.ret {}) (ts (tc [(63, 0x2000)])) = some (0x08, 0) := by decide +kernel
theorem test_trap_code : trapped (.trap {} 77) c1 = some (0x7F, 77) := by decide +kernel
theorem test_eret_elsewhere : trapped (.eret {}) c1 = some (0x02, 0) := by decide +kernel
theorem test_guard_false : (after (.br { g0 := 1 } 4) c1).me.pc = 0x1010 := by decide +kernel

def h1 : State := th (tc []) { handling := some (.trap 3), ctxs := [(3, { tc [] with run := .trapped, epc := 0x3000 })] }

theorem test_eret_resumes : ((after (.eret {}) h1).myCore.ctx 3).run = .live ∧ ((after (.eret {}) h1).myCore.ctx 3).pc = 0x3000 := by
  decide +kernel

/-- A jump table at 0x400 whose entry 1 names 0x20000, where a `land` of tag 7 stands. -/
def j1 : State :=
  { pg (ts (tc [(1, 1), (2, 0x400), (3, 0x404)]) { mem := [(0x40A, 2)], ibuf := [0x20000] }) with mem := [(0x20000, 5), (0x2000B, 0x1C)] }

theorem test_jt_transfers : (after (.jt {} (sr 1) (sr 2) 7 2) j1).me.pc = 0x20000 := by decide +kernel
theorem test_jt_bound : trapped (.jt {} (sr 1) (sr 2) 7 1) j1 = some (0x06, 1) := by decide +kernel

-- what the statements ask for can be met
theorem test_meets_Transfers : Issues (.nop {}) c1 ∧ Issues (.land {} 3 true) c1 ∧ Issues (.br {} 1) c1 ∧ Issues (.loop {} (sr 5) 1) c1
    ∧ readS c1.me (sr 0) = 0 ∧ readS c1.me (sr 5) = 1 ∧ readS c1.me (sr 6) = 3 ∧ Issues (.brl {} 1) c1 ∧ c1.me.link.length < 16
    ∧ 16 ≤ c3.me.link.length ∧ c3.me.linkSpilled ≠ c3.me.linkCap ∧ LocalOk c3 0x108 8 8 true ∧ Issues (.brl {} 1) c3
    ∧ c4.me.linkSpilled = c4.me.linkCap ∧ Issues (.brl {} 1) c4 := by decide +kernel
theorem test_meets_returns : Issues (.ret {}) c1 ∧ c1.me.getS 63 % 16 = 0 ∧ c1.me.link = [c1.me.getS 63] ∧ c1.me.resid = none
    ∧ (ts (tc [(63, 0x2008)])).me.getS 63 % 16 ≠ 0 ∧ Issues (.ret {}) c2 ∧ c2.me.link = [] ∧ c2.me.linkSpilled ≠ 0 ∧ LocalOk c2 0x100 8 8 false
    ∧ LocalClean c2 0x100 8 ∧ localNat c2 0x100 8 = (c2.me.getS 63).toNat := by decide +kernel
theorem test_meets_JumpTable : Issues (.jt {} (sr 1) (sr 2) 7 2) j1 ∧ (readS j1.me (sr 1)).toNat < 2 ∧ 1 ≤ (readS j1.me (sr 1)).toNat
    ∧ readS j1.me (sr 3) % 8 ≠ 0 ∧ readS j1.me (sr 2) % 8 = 0 ∧ LocalOk j1 0x408 8 8 false ∧ LocalClean j1 0x408 8
    ∧ localNat j1 0x408 8 = 0x20000
    ∧ (match fetchAt j1 0 0x20000 with
      | .line bs => cleanBytes (wordIn bs 0x20000) == ([5, 0, 0, 0, 0, 0, 0, 0, 0, 0, 0, 0x1C, 0, 0, 0, 0], none)
      | _ => false) = true := by decide +kernel
theorem test_meets_TrapsAndReturns : Issues (.trap {} 1) c1 ∧ Issues (.eret {}) c1 ∧ c1.curCtx ≠ 15 ∧ Issues (.eret {}) h1 ∧ h1.curCtx = 15
    ∧ MayRelease h1 ∧ h1.myCore.handling = some (.trap 3) ∧ causeIsFatal (h1.myCore.ctx 3).cause = false ∧ (h1.myCore.ctx 3).run ≠ .saved
    ∧ (h1.myCore.ctx 3).jrnl.getLsbD 63 = false := by decide +kernel

/-! ## Loads, stores, tiles, atomics, tills -/

def mem1 : List Host.Cell := [(0x100, 0x80), (0x101, 0xFF), (0x102, 1), (0x104, 0x55), (0x1FFFC, 9)]
def m1 : State := pg { ts { tc [(1, 0x100), (2, 0x1FFFC), (3, 0x20000), (4, 0xAABBCCDD), (5, 0x101)] with
  v := [(1, { bits := 0x0F0E0D0C0B0A09080706050403020100, tag := .i8 })] } { mem := mem1 } with mem := [(0x20000, 0x11), (0x20003, 0x80)] }

theorem test_ld_zero_extends : getS (.ld {} (sr 6) (ad 1 0) .h) m1 6 = 0xFF80 := by decide +kernel
theorem test_ld_sign_extends : getS (.ldSx {} (sr 6) (ad 1 0) .b) m1 6 = 0xFFFFFFFFFFFFFF80 := by decide +kernel
theorem test_ld_last_word : getS (.ld {} (sr 6) (ad 2 0) .w) m1 6 = 9 := by decide +kernel
theorem test_ld_beyond : trapped (.ld {} (sr 6) (ad 2 0) .d) (ts (tc [(2, 0x1FFF8)]) { sp := 7 }) = some (0x11, 0x1FFF8) := by decide +kernel
theorem test_ld_misaligned : trapped (.ld {} (sr 6) (ad 5 0) .h) m1 = some (0x04, 0x101) := by decide +kernel
theorem test_ld_global : getS (.ldSx {} (sr 6) (ad 3 0) .w) m1 6 = 0xFFFFFFFF80000011 := by decide +kernel
theorem test_st_little_endian : memBytes (after (.st {} (sr 4) (ad 1 4) .h) m1).myCore.mem 0x103 4 = [0, 0xDD, 0xCC, 0] := by decide +kernel
theorem test_st_global_posts : ((after (.st {} (sr 4) (ad 3 0) .w) m1).myCore.jentry 0).state = 1
    ∧ memByte (after (.st {} (sr 4) (ad 3 0) .w) m1).mem 0x20000 = 0x11 := by decide +kernel
theorem test_stv_tag : trapped (.stv {} (vr 1) (ad 1 0) .i32) m1 = some (0x03, 0x91) := by decide +kernel
theorem test_ldv_t6 : getV (.ldv {} (vr 2) (ad 1 0) .t6) m1 2 = { bits := 0x550001FF80, tag := .t6 } := by decide +kernel
theorem test_amo_add : (getS (.amo {} (sr 6) (ad 1 0) .w (cn 1) .add .rlx .core) m1 6,
    memBytes (after (.amo {} (sr 6) (ad 1 0) .w (cn 1) .add .rlx .core) m1).myCore.mem 0x100 3) = (0x1FF80, [0x81, 0xFF, 1]) := by decide +kernel
theorem test_amo_release_counts : (after (.amo {} (sr 6) (ad 1 0) .w (cn 1) .swap .rel .core) m1).me.rc = 1 := by decide +kernel
theorem test_cas_differs : memByte (after (.cas {} (sr 6) (ad 1 0) .w (cn 1) .rlx .core) m1).myCore.mem 0x100 = 0x80 := by decide +kernel
theorem test_red_max_signed : memByte (after (.red {} (ad 1 0) .w (cn 127) .max .rlx .core) m1).myCore.mem 0x100 = 0x80 := by decide +kernel
theorem test_lda : getS (.lda {} (sr 6) (ad 1 0) .b .core) m1 6 = 0x80 := by decide +kernel
theorem test_stl_counts : (after (.stl {} (sr 4) (ad 1 0) .b .core) m1).me.rc = 1 := by decide +kernel

/-- Ring 2 of core 0 has two slots of 64 bytes from 0x1000. -/
def ring2 (a b : Slot) (next : Nat := 0) (filled : List Nat := []) : Ring :=
  { defined := true, base := 0x1000, lg := 6, slots := [a, b], nextPos := next, filledOrder := filled }
def r1 (a b : Slot) (next : Nat := 0) (filled : List Nat := []) : State :=
  ts (tc [(1, 0x1000), (2, 0x1040), (3, 0x1041), (4, 0x101)]) { rings := [(2, ring2 a b next filled)] }
/-- The context of `ts` as a holder. -/
def me0 : Holder := .ctx (mkHandle 0 0 0)

theorem test_ld_free_slot : trapped (.ld {} (sr 6) (ad 1 0) .w) (r1 .free .free) = some (0x23, 2) := by decide +kernel
theorem test_racq_takes : ((after (.racq {} (sr 6) 2) (r1 .free (.filled []) 0 [1])).myCore.ring 2).slots = [.free, .taken me0]
    ∧ getS (.racq {} (sr 6) 2) (r1 .free (.filled []) 0 [1]) 6 = 0x1040 := by decide +kernel
theorem test_racq_free_reserves : ((after (.racqFree {} (sr 6) 2) (r1 .free .free 1)).myCore.ring 2).nextPos = 0
    ∧ getS (.racqFree {} (sr 6) 2) (r1 .free .free 1) 6 = 0x1040 := by decide +kernel
theorem test_racq_empty_holds : holds (.racq {} (sr 6) 2) (r1 .free .free) = true := by decide +kernel
theorem test_rrel_other_state : trapped (.rrel {} (sr 1) 2) (r1 (.filled []) .free) = some (0x23, 2) := by decide +kernel
theorem test_rpub_counts : (after (.rpub {} (sr 1) 2) (r1 (.reserved me0) .free)).me.rc = 1 := by decide +kernel
theorem test_rdef_defines : ((after (.rdef {} (sr 1) (cn 6) (cn 2) 3) (ts (tc [(1, 0x1000)]))).myCore.ring 3).slots = [.free, .free] := by
  decide +kernel
theorem test_rdef_size : (trapped (.rdef {} (sr 1) (cn 5) (cn 2) 3) (ts (tc [(1, 0x1000)])), trapped (.rdef {} (sr 1) (cn 15) (cn 2) 3) (ts (tc [(1, 0x1000)])),
    trapped (.rdef {} (sr 1) (cn 6) (cn 1) 3) (ts (tc [(1, 0x1000)])), trapped (.rdef {} (sr 2) (cn 6) (rg 2) 3) (ts (tc [(1, 0x1000), (2, 65)])))
    = (some (0x01, 50), some (0x01, 50), some (0x01, 59), some (0x01, 59)) := by decide +kernel
theorem test_rres_undefines : ((after (.rres {} 2) (r1 .free .free)).myCore.ring 2).defined = false := by decide +kernel

/-- A till record at 0x400: base 0x20000, one granule of 512 bytes, total 2, KIND 3 with event 5 for core 0's context 0. -/
def till1 (owner : Tenant) : State :=
  { ts (tc [(1, 0x400), (2, 7), (3, 0x2000), (4, 8191), (5, 0x440)])
      { mem := [(0x402, 2), (0x408, 1), (0x410, 2), (0x418, 3)] } with
    tenants := [(0, page2)], sectors := [(0, { tills := [(7, { owned := owner != 0, owner := owner, count := 3, armed := true })] })] }

theorem test_tilset_identifier : trapped (.tilset {} (sr 3) (sr 1)) (till1 0) = some (0x01, 50) := by decide +kernel
theorem test_tilset_foreign : trapped (.tilset {} (sr 2) (sr 1)) (till1 5) = some (0x41, 0) := by decide +kernel
theorem test_tilget_free : getS (.tilget {} (sr 6) (sr 2)) (till1 0) 6 = 0 := by decide +kernel
theorem test_tilarm_free : trapped (.tilarm {} (sr 2)) (till1 0) = some (0x01, 50) := by decide +kernel

-- what the statements ask for can be met
theorem test_meets_LocalAccesses : LocalOk m1 0x1FFFC 4 4 false ∧ LocalClean m1 0x1FFFC 4 ∧ Issues (.ld {} (sr 6) (ad 2 0) .w) m1
    ∧ LocalOk m1 0x1FFFC 4 4 true ∧ Issues (.st {} (sr 4) (ad 2 0) .w) m1 ∧ LocalOk m1 0x100 16 16 true ∧ Issues (.stv {} (vr 1) (ad 1 0) .i8) m1
    ∧ (m1.me.getV 1).tag = .i8 ∧ (m1.me.getV 1).tag ≠ .i32 ∧ LocalOk m1 0x100 12 16 false ∧ MayRelease m1 ∧ reportsSettled m1 = true
    ∧ Issues (.cas {} (sr 6) (ad 1 0) .w (cn 1) .sc .core) m1 ∧ LocalOk m1 0x100 4 4 true := by decide +kernel
theorem test_meets_AccessChecks : accessOf (.ld {} (sr 6) (ad 5 0) .h) m1.me = some (0x101, 2, 2, false) ∧ Issues (.ld {} (sr 6) (ad 5 0) .h) m1
    ∧ (0x101 : Word).toNat % 2 ≠ 0
    ∧ accessOf (.ldv {} (vr 2) (ad 2 4) .t6) m1.me = some (0x20000, 12, 16, false) ∧ isLocal 0x1FFF0 = true
    ∧ (ts (tc []) { sp := 4 }).myCore.scratch < (0x10000 : Word).toNat + 1 ∧ (0x10000 : Word).toNat ≤ (ts (tc []) { sp := 4 }).myCore.scratch
    ∧ ringRefuses (r1 .free .free).myCore (r1 .free .free).myHandle 0x1040 4 false = some 2
    ∧ accessOf (.st {} (sr 1) (ad 2 0) .w) (r1 .free .free).me = some (0x1040, 4, 4, true) := by decide +kernel
theorem test_meets_PostedVectors : Issues (.stv {} (vr 1) (ad 3 0) .i8) m1 ∧ (readV m1.me (vr 1)).tag = .i8
    ∧ admits (fillTlbs (countIssue m1) 0 0x20000 2 lf2 .write) [16] (homeDie 0x20000) = true ∧ Issues (.stv {} (vr 1) (ad 3 0) .b128) m1 := by decide +kernel
theorem test_meets_TileChecks : Issues (.ldt {} (vr 2) (cn 0) (cn 0) 5 .i8) m1 ∧ m1.desc m1.myTenant 5 = none
    ∧ Issues (.stt {} (cn 0) (cn 16) (vr 1) 0) m1 ∧ (0 : Tid) = 0 ∧ (readSC m1.me (cn 0)).toNat < 2 ^ 48 ∧ 2 ^ 48 ≤ (readSC m1.me (cn 127)).toNat
    ∧ (readSC m1.me (cn 8)).toNat % 16 ≠ 0 ∧ (512 ≤ (0x200 : Word).toNat) := by decide +kernel
theorem test_meets_PostedStores : Issues (.st {} (sr 4) (ad 3 0) .w) m1 ∧ (mAddress m1.me (ad 3 0)).toNat % 4 = 0 ∧ isLocal 0x20000 = false
    ∧ goesTo m1 0x20000 .write 0x20000 = true ∧ ((List.range 32).filter (fun j => (m1.myCore.jentry j).state == 0)).head? = some 0
    ∧ admits (fillTlbs (countIssue m1) 0 0x20000 2 lf2 .write) [4] (homeDie 0x20000) = true ∧ unserved m1 0 (homeDie 0x20000) = false ∧ Issues (.stt {} (rg 1) (cn 0) (vr 1) 0) m1
    ∧ goesTo m1 ((BitVec.ofNat 57 (512 * 0x100)).signExtend 64) .write 0x20000 = true := by decide +kernel
/-- The state after the requests of a read, with the check of its granules. -/
def readAt (f : State) (n : Nat) : Option State := match admitAll f [n] (homeDie 0x20000) with
  | .ok u => match checkGrans (chargeAfter u 0 0 0 n) (partyOf u 0 0) (flatGrans lf2 0x20000 n) false false [] with
    | .ok w => some w
    | _ => none
  | _ => none
theorem test_meets_GlobalLoads : Issues (.ldSx {} (sr 6) (ad 3 0) .w) m1 ∧ goesTo m1 0x20000 .read 0x20000 = true ∧ linkHolds m1 0x20000 = false
    ∧ (∀ e ∈ m1.myCore.journal, ¬(e.2.state = 1 ∧ e.2.ctx = m1.curCtx ∧ e.2.inc = m1.me.inc ∧ hitsFlat 0x20000 4 e.2 = true))
    ∧ requests (fillTlbs (countIssue m1) 0 0x20000 2 lf2 .read) [4] (servingDie (fillTlbs (countIssue m1) 0 0x20000 2 lf2 .read) 0x20000 0x20000) false = true
    ∧ postedOver m1.myCore 0x20000 4 = false
    ∧ m1.myCore.l1.find? (fun x => x.1 == 0x20000 / 64) = none
    ∧ (readAt (fillTlbs (countIssue m1) 0 0x20000 2 lf2 .read) 4).map (fun w => cleanBytes (lineBytes w 0 0x20000 0x20000 4))
      = some ([0x11, 0, 0, 0x80], none) := by decide +kernel
/-- A line that L1 holds, at its last bytes, and an access that leaves it. -/
theorem test_meets_line_of_L1 : (({ l1 := [(0x800, (List.range 64).map (fun n => (BitVec.ofNat 8 n, false)))] } : Core).l1.find? (fun x => x.1 == 0x20038 / 64)).map
      (fun x => cleanBytes ((x.2.drop (0x20038 % 64)).take 8)) = some ([56, 57, 58, 59, 60, 61, 62, 63], none)
    ∧ 0x20038 % 64 + 8 ≤ 64 ∧ ¬(0x20038 % 64 + 16 ≤ 64) := by decide +kernel
theorem test_meets_PrefetchesAndFences : Issues (.pref {} (ad 1 0)) m1 ∧ prefetchAt (countIssue m1) 0x100 .read = none
    ∧ prefetchAt (countIssue m1) (0x100 &&& ~~~255#64) .fetch = none ∧ Issues (.pref { hint := 1 } (ad 3 0)) m1
    ∧ prefetchAt (countIssue m1) 0x20000 .read = some 0x20000 ∧ requests (countIssue m1) [64] (homeDie 0x20000) false = true
    ∧ Issues (.prefi {} (ad 3 0) 2) m1 ∧ prefiLines (countIssue m1) 0x20000 2 = [(0x20000, 0x20000), (0x20100, 0x20100)]
    ∧ admitsItems (countIssue m1) [256, 256] [] = true ∧ unserved (countIssue m1) 0 (homeDie 0x20100) = false ∧ homeDie 0x20100 = 0 ∧ ({ icache := [0x20000] } : Cluster).hasLine 0x20000 = true
    ∧ Issues (.fence {} .sys) m1 ∧ MayRelease m1
    ∧ ¬MayRelease (ts (tc []) { journal := [(0, { state := 1 })] }) ∧ pathsDone (countIssue m1) 127 = true
    ∧ pathsDone (ts (tc []) { journal := [(0, { state := 1 })] }) 1 = false := by decide +kernel
theorem test_pref_brings : ((after (.pref {} (ad 3 0)) m1).cluster (flatHome 0x20000 0x20000)).slice.map (·.tag) = [flatTag 0 0x20000] := by decide +kernel
theorem test_prefi_flies : ((after (.prefi {} (ad 3 0) 2) m1).cluster 0).inflight.map (·.1) = [0x20000, 0x20100] := by decide +kernel
/-- `xfence` waits for the lines that a `prefi` of its context has requested over FD, until they have come. -/
theorem test_prefi_is_awaited : (let t := after (.prefi {} (ad 3 0) 2) m1
    (pathsDone t 64, pathsDone t 63, pathsDone (after .icacheFill (after .icacheFill { t with pick := { num := 0x20000 } } |>.setMe t.me |> fun t => { t with pick := { num := 0x20100 } })) 64))
    = (false, true, true) := by decide +kernel
theorem test_meets_Tills : Issues (.tilset {} (sr 3) (sr 1)) (till1 0) ∧ 8192 ≤ (readS (till1 0).me (sr 3)).toNat
    ∧ (readS (till1 0).me (sr 4)).toNat < 8192 ∧ ((till1 5).till 7).owned = true ∧ ((till1 5).till 7).owner ≠ (till1 5).myTenant
    ∧ reachable (till1 0) 0 (tillSector 7) = true ∧ exchanges (countIssue (till1 0)) (tillSector 7) true = true ∧ LocalOk (till1 0) 0x400 64 64 false ∧ LocalClean (till1 0) 0x400 64
    ∧ LocalOk (till1 0) 0x440 64 64 false ∧ (∀ i, i < 64 → memByte (till1 0).myCore.mem (0x440 + i) = 0)
    ∧ actKind (BitVec.ofNat 64 (localNat (till1 0) 0x418 8)) = 3
    ∧ tillRecFault (countIssue (till1 0)) (memBytes (till1 0).myCore.mem 0x400 64) = none
    ∧ (after (.tilset {} (sr 2) (sr 1)) (till1 0)).me.pc = 0x1010
    ∧ ((after (.tilset {} (sr 2) (sr 1)) (till1 0)).till 7).total = 2 ∧ ((after (.tilset {} (sr 2) (sr 1)) (till1 0)).till 7).armed = true := by
  decide +kernel
theorem test_meets_Rings : Issues (.rdef {} (sr 1) (cn 6) (cn 2) 3) (r1 .free .free) ∧ ringOverlap (r1 .free .free).myCore 3 0x1000 128 = some 2
    ∧ ringOverlap (r1 .free .free).myCore 3 0x1080 128 = none ∧ ((r1 .free .free).myCore.ring 3).defined = false
    ∧ ((r1 .free .free).myCore.ring 2).deviceReserved = false ∧ ((r1 .free .free).myCore.ring 2).deviceTaken = false
    ∧ Issues (.rrel {} (sr 3) 2) (r1 .free .free) ∧ (∀ k, k < 2 → (readS (r1 .free .free).me (sr 3)).toNat ≠ 0x1000 + k * 2 ^ 6)
    ∧ Issues (.rpub {} (sr 1) 2) (r1 (.reserved me0) .free) ∧ MayRelease (r1 (.reserved me0) .free)
    ∧ (r1 (.taken me0) .free).myHandle = mkHandle 0 0 0 ∧ reportsSettled (r1 .free (.filled []) 0 [1]) = true
    ∧ (ring2 .free .free).waitFree = [] ∧ (ring2 .free .free).waitFill = [] ∧ hears (ring2 .free .free).heardFree 0 rankCtx = true
    ∧ hears (ring2 .free .free).heardFill 0 rankCtx = true ∧ (r1 (.taken me0) .free).myCore.workTouches (mkHandle 0 0 0) false 0x1000 64 = false
    ∧ (r1 (.reserved me0) .free).myCore.workTouches (mkHandle 0 0 0) true 0x1000 64 = false := by decide +kernel

/-! ## Contexts, messages, signals, barriers, exchange phases -/

/-- s1 = 0x2000, s2 the target 0.0.0.0 context 1, s3 the handle of context 0, s4 a domain of level 1 with barrier 5. -/
def e1 : State := ts (tc [(1, 0x2000), (2, 0x11), (3, 0), (4, 0x500000001), (5, 0x2008), (6, 0x10000000), (7, 0xFFFFF)])

theorem test_start_lowest : ((after (.start {} (sr 6) (sr 1) (cn 5) (cn 6)) e1).myCore.ctx 1).pc = 0x2000
    ∧ ((after (.start {} (sr 6) (sr 1) (cn 5) (cn 6)) e1).myCore.ctx 1).getS 2 = 6 := by decide +kernel
theorem test_start_handle : getS (.start {} (sr 6) (sr 1) (cn 5) (cn 6)) e1 6 = 0x100001 := by decide +kernel
theorem test_start_align : trapped (.start {} (sr 6) (sr 5) (cn 5) (cn 6)) e1 = some (0x04, 0x2008) := by decide +kernel
theorem test_exit_idle : (after (.exit {}) e1).me.run = .idle := by decide +kernel
theorem test_yield_clears : (after (.yield {}) (ts { tc [] with wdogCount := 5 })).me.wdogCount = 0 := by decide +kernel
theorem test_amsg_holds : (after (.amsg {} (sr 2) (sr 1) (sr 3)) e1).net.length = 1 := by decide +kernel
theorem test_amsg_no_core : trapped (.amsg {} (sr 7) (sr 1) (sr 3)) e1 = some (0x01, 50) := by decide +kernel
theorem test_sig_sends : ((after (.sig {} (sr 3) (cn 2)) e1).net.map (·.msg)) = [.signal 0 2] := by decide +kernel
theorem test_wait_takes : getS (.wait {} (sr 6) (cn 6)) (ts { tc [] with events := 0x12 }) 6 = 2
    ∧ (after (.wait {} (sr 6) (cn 6)) (ts { tc [] with events := 0x12 })).me.events = 0x10 := by decide +kernel
theorem test_wait_holds : holds (.wait {} (sr 6) (cn 6)) e1 = true := by decide +kernel
theorem test_dom_sets : (after (.dom {} (sr 4)) e1).myCore.dom = 0x500000001 := by decide +kernel
/-- A core that leaves flowing mode with a helper at work stays in its pool. -/
theorem test_dom_leaving : (after (.dom {} (sr 4)) (ts (tc [(4, 0)]) { dom := 8, ctxs := [(1, tc [])] })).myCore.leaving = true
    ∧ (after (.mtc {} (rg 4) .dom) (ts (tc [(4, 0)]) { dom := 8 })).myCore.leaving = false := by decide +kernel
theorem test_dom_reserved : trapped (.dom {} (sr 1)) (ts (tc [(1, 2 ^ 46)])) = some (0x01, 128 + 46) := by decide +kernel
theorem test_bar_holds : (after (.bar {}) e1).myCore.arrival = true ∧ (after (.bar {}) e1).me.pc = 0x1000 := by decide +kernel
theorem test_arrive_goes_on : (after (.arrive {}) e1).me.pc = 0x1010 := by decide +kernel
theorem test_xsend_channel : trapped (.xsend {} (vs 1) (rg 7)) e1 = some (0x0A, 1) := by decide +kernel

/-- Core 0 in an exchange phase since cycle 0, at cycle 3 of its die; a word was driven by its own core at cycle 0. -/
def x1 : State := { ts (tc [(1, 64)]) { exch := some 0 } with
  dies := [(0, { cycle := 3, piste := [{ ch := 5, val := { bits := 40, tag := .i32 }, x := 0, y := 0, cycle := 0 }] })] }

theorem test_xsel_hears : getV (.xsel {} (vr 2) (cn 5)) x1 2 = { bits := 40, tag := .i32 } := by decide +kernel
/-- Two words meet at the core in cycle 3 of its die. -/
def x2 (g : Tag) : State := { x1 with dies := [(0, { cycle := 3, piste := [{ ch := 5, val := { bits := 40, tag := .i32 }, x := 0, y := 0, cycle := 0 }
  , { ch := 5, val := { bits := 3, tag := g }, x := 0, y := 0, cycle := 0 }] })] }
theorem test_xsel_common_tag : getV (.xsel {} (vr 2) (cn 5)) (x2 .i32) 2 = { bits := 43, tag := .i32 }
    ∧ getV (.xsel {} (vr 2) (cn 5)) (x2 .i8) 2 = { bits := 43, tag := .b128 } := by decide +kernel
theorem test_xsel_other_channel : getV (.xsel {} (vr 2) (cn 6)) x1 2 = { bits := 0, tag := .b128 } := by decide +kernel

-- what the statements ask for can be met
theorem test_meets_ContextLives : Issues (.start {} (sr 6) (sr 1) (cn 0) (cn 0)) e1 ∧ e1.curCtx = 0 ∧ readS e1.me (sr 1) % 16 = 0
    ∧ readS e1.me (sr 5) % 16 ≠ 0 ∧ MayRelease e1 ∧ (e1.myCore.ctx 1).run = .idle ∧ (∀ m : CtxNum, 1 ≤ m.toNat → m.toNat < 1 → False)
    ∧ (∀ m ∈ e1.myCore.msgs, m.target ≠ e1.curCtx) ∧ reportsSettled e1 = true ∧ e1.me.resid = none ∧ messageDue (countIssue e1) 0 1 = false
    ∧ dispatchFor (countIssue e1) 0 = none ∧ Issues (.exit {}) (th (tc []))
    ∧ Issues (.yield {}) e1 ∧ Issues (.startTry {} (sr 6) (kr 1) (sr 1) (cn 0) (cn 0)) e1
    ∧ Issues (.start {} (sr 6) (sr 1) (cn 0) (cn 0)) (th (tc [])) := by
  refine ⟨by decide +kernel, by decide +kernel, by decide +kernel, by decide +kernel, by decide +kernel, by decide +kernel, ?_, by decide +kernel⟩
  intro m h1 h2; omega
/-- Every helper of core 0 is live. -/
def busy : State := ts (tc [(1, 0x2000)]) { ctxs := (List.range 10).map (fun n => (n + 1, tc [])) }
/-- A record waits for the idle helper of core 0. -/
def due : State :=
  { ts (tc [(1, 0x2000)]) { stage := some (0, 1) } with
    tenants := [(0, { stages := [(1, { declared := true, queue := [{ r := { id := 5, pc := 0x3000, stage := 1 } }] })] })] }
theorem test_meets_ContextLives_due : (dispatchFor (countIssue due) 0).isSome = true ∧ Issues (.startTry {} (sr 6) (kr 1) (sr 1) (cn 0) (cn 0)) due
    ∧ holds (.startTry {} (sr 6) (kr 1) (sr 1) (cn 0) (cn 0)) due = true := by decide +kernel
theorem test_meets_ContextLives_full : ∀ m : CtxNum, 1 ≤ m.toNat → m.toNat ≤ 10 → (busy.myCore.ctx m).run ≠ .idle := by decide +kernel
theorem test_meets_MessagesAndSignals : Issues (.amsg {} (sr 2) (sr 1) (sr 3)) e1 ∧ e1.me.pend = .none
    ∧ coreExists 1 = true ∧ coreExists 0xFFFF = false ∧ e1.tenantOf 1 = e1.myTenant ∧ MayRelease e1 ∧ admits (countIssue e1) [24] (coreDie 1) = true
    ∧ reachable e1 0 (coreDie 1) = true ∧ Issues (.sig {} (sr 3) (cn 0)) e1 ∧ (readS e1.me (sr 3)).toNat < 2 ^ 28
    ∧ 2 ^ 28 ≤ (readS e1.me (sr 6)).toNat ∧ Issues (.wait {} (sr 6) (cn 2)) e1 ∧ 2 ^ 16 ≤ (readSC e1.me (rg 7)).toNat
    ∧ reportsSettled e1 = true ∧ Issues (.amsgTry {} (kr 1) (sr 2) (sr 1) (sr 3)) (ts { tc [] with pend := .turnedAway }) := by
  decide +kernel
theorem test_meets_foreign_message : ({ e1 with clusters := [(0, { tenant := 5 })] } : State).tenantOf 0x100 ≠ ({ e1 with clusters := [(0, { tenant := 5 })] } : State).myTenant := by
  decide +kernel
theorem test_meets_DomainsAndBarriers : Issues (.dom {} (sr 4)) e1 ∧ domFault e1.curCore (readS e1.me (sr 4)) = none
    ∧ (∀ cl ∈ domClusters e1.curCore (readS e1.me (sr 4)), (e1.cluster cl).tenant = e1.myTenant) ∧ e1.myCore.arrival = false
    ∧ domFault 0 (2 ^ 46) = some 46 ∧ domFault 0 4 = some 0 ∧ domFault 0 3 = some 24 ∧ Issues (.bar {}) e1 ∧ Issues (.arrive {}) e1 ∧ MayRelease e1
    ∧ admits (countIssue e1) [8] (BitVec.ofNat 3 (domHome 0 0)) = true ∧ Issues (.dom {} (sr 4)) (th (tc [])) := by decide +kernel
/-- In an exchange phase `bar` arrives at once, with a report still owed. -/
theorem test_meets_bar_in_phase : inPhase x1.myCore 0 = true ∧ x1.curCtx = 0 ∧ x1.myCore.arrival = false ∧ Issues (.bar {}) x1
    ∧ exchangeFault (.barX {}) x1 = some 0 ∧ reachable x1 0 (BitVec.ofNat 3 (domHome 0 0)) = true ∧ x1.me.pend = .none
    ∧ (after (.bar {}) (x1.setMe { x1.me with reports := [{ cause := .uncorrectable, epc := 0, einfo := 0 }] })).myCore.arrival = true := by decide +kernel
theorem test_meets_bar_outside : e1.myCore.exch = none ∧ reachable e1 0 (BitVec.ofNat 3 (domHome 0 0)) = true := by decide +kernel
/-- A released `bar` goes on, and YLD of its header lets its core pass over the context. -/
theorem test_bar_goes_on : (let c := (after (.bar { yld := true }) (ts { tc [] with pend := .released false, wdogCount := 7 })).me
    (c.pc, c.pend, c.wdogCount, c.passOver)) = (0x1010, .none, 0, true) := by decide +kernel
theorem test_meets_Piste : Issues (.xsel {} (vr 2) (cn 63)) x1 ∧ Issues (.xsend {} (vs 1) (cn 63)) x1 ∧ (readSC x1.me (cn 63)).toNat ≤ 63
    ∧ 63 < (readSC x1.me (rg 1)).toNat ∧ modBad (x1.me.getV 1) 0 = false
    ∧ modBad { bits := 0, tag := .i64 } 0x400 = true := by decide +kernel

/-! ## Continuations, stages and calls -/

/-- Stage 2 of tenant 0 is declared at die 0 with room for two records. A record stands at 0x400, a declaration at 0x740, a
record for stage 2 at 0x600. -/
def k1 : State :=
  { ts (tc [(1, 0x400), (2, 0x1080000000000000), (3, 6), (4, 0x740), (5, 0x600), (6, 0x0000020000000000), (7, 0xFFFFFF)])
      { mem := [(0x408, 0x10), (0x409, 0x20), (0x600, 8), (0x608, 0x20)
               , (0x740, 2), (0x741, 0x80), (0x742, 1), (0x74A, 5), (0x751, 0x30)]
        rings := [(2, ring2 .free .free)] } with
    tenants := [(0, { page2 with stages := [(2, { declared := true, cap := 2, min := 0, max := 5, dies := 1, distPc := 0x3000 })] })] }
/-- The same with no records left in the quota. -/
def k0 : State :=
  { k1 with tenants := [(0, { page2 with
      stages := [(2, { declared := true, cap := 2, min := 0, max := 5, dies := 1, distPc := 0x3000 })]
      limits := [(1, 1), (2, 0)] })] }

theorem test_park_idle : (after (.park {} (sr 2) (sr 3)) k1).me.run = .idle := by decide +kernel
theorem test_park_event_word : trapped (.park {} (sr 0) (sr 3)) k1 = some (0x01, 50) := by decide +kernel
theorem test_enq_queues : ((after (.enq {} (cn 2) (sr 1)) k1).stage 0 2).queue.map (·.r.pc) = [0x2010] := by decide +kernel
theorem test_enq_undeclared : trapped (.enq {} (cn 3) (sr 1)) k1 = some (0x01, 50) := by decide +kernel
theorem test_jinit_zero : trapped (.jinit {} (sr 8) (cn 0) (sr 5)) k1 = some (0x01, 50) := by decide +kernel
theorem test_jdone_foreign : trapped (.jdone {} (sr 6)) k1 = some (0x41, 0) := by decide +kernel
theorem test_stdecl_declares : ((after (.stdecl {} (cn 3) (sr 4)) k1).stage 0 3).cap = 2 ∧ ((after (.stdecl {} (cn 3) (sr 4)) k1).stage 0 3).distPc = 0x3000 := by
  decide +kernel
theorem test_dist_begins : (((after (.dist {} (cn 2) (sr 0) (sr 3) 4) k1).stage 0 2).range.map (·.total)) = some 2 := by decide +kernel
theorem test_dist_empty : ((after (.dist {} (cn 2) (sr 3) (sr 0) 4) k1).stage 0 2).range = none := by decide +kernel
theorem test_scall_counts : (after (.scall {} 0x802 2) k1).me.callSeq = 1 := by decide +kernel
theorem test_scall_no_ring : trapped (.scall {} 0x802 3) k1 = some (0x23, 3) := by decide +kernel

-- what the statements ask for can be met
theorem test_meets_park : Issues (.park {} (sr 2) (sr 3)) k1 ∧ k1.curCtx ≠ 15 ∧ eventWordOk k1 (readS k1.me (sr 2)) = true
    ∧ eventWordOk (countIssue k1) (readS k1.me (sr 2)) = true ∧ eventWordOk (countIssue k1) 0 = false
    ∧ (maskBits (readS k1.me (sr 3))).length ≤ 16 ∧ 16 < (maskBits (readS k1.me (sr 7))).length ∧ (maskBits 0xFFFF).length ≤ 16
    ∧ reportsSettled k1 = true ∧ reachable k1 0 (k1.stage 0 2).home = true ∧ quotaFits k1 0 2 0 1 = true ∧ quotaFits k0 0 2 0 1 = false
    ∧ exchanges ((countIssue k1).setMe { (countIssue k1).me with pend := .checked }) (k1.stage 0 2).home true = true
    ∧ (k1.stage 0 2).full = false ∧ (∀ m ∈ k1.myCore.msgs, m.target ≠ k1.curCtx)
    ∧ Issues (.park {} (sr 2) (sr 3)) (th (tc [])) ∧ Issues (.parkTry {} (kr 1) (sr 2) (sr 3)) k0 := by decide +kernel
/-- The same with a stage 2 that holds no record. -/
def kf : State := { k1 with tenants := [(0, { page2 with stages := [(2, { declared := true, cap := 0 })] })] }
theorem test_meets_full_stage : (kf.stage 0 2).full = true ∧ quotaFits kf 0 2 0 1 = true ∧ quotaFits kf 0 3 0 1 = true
    ∧ (kf.stage 0 2).declared = true ∧ eventWordOk (countIssue kf) (readS kf.me (sr 2)) = true ∧ kf.me.pend ≠ .checked
    ∧ Issues (.parkTry {} (kr 1) (sr 2) (sr 3)) kf ∧ Issues (.enqTry {} (kr 1) (cn 2) (sr 1)) kf ∧ LocalOk kf 0x400 320 64 false ∧ LocalClean kf 0x400 320
    ∧ Issues (.jinit {} (sr 8) (cn 1) (sr 5)) kf ∧ Issues (.jinitTry {} (sr 8) (kr 1) (cn 1) (sr 5)) kf ∧ LocalOk kf 0x600 320 64 false
    ∧ LocalClean kf 0x600 320 ∧ reachable kf 0 (kf.stage 0 2).home = true := by decide +kernel
theorem test_try_forms_write_0 : getS (.jinitTry {} (sr 8) (kr 1) (cn 1) (sr 5)) (kf.setMe (kf.me.setS 8 7)) 8 = 0
    ∧ (after (.enqTry {} (kr 1) (cn 2) (sr 1)) (kf.setMe (kf.me.setK 1 true))).me.getK 1 = false := by decide +kernel
theorem test_meets_jinit_quota : Issues (.jinit {} (sr 8) (cn 1) (sr 5)) k0 ∧ Issues (.jinitTry {} (sr 8) (kr 1) (cn 1) (sr 5)) k0
    ∧ (k0.stage 0 2).declared = true ∧ quotaFits k0 0 2 0 1 = false ∧ LocalOk k0 0x600 320 64 false ∧ LocalClean k0 0x600 320 := by decide +kernel
theorem test_meets_enq : Issues (.enq {} (cn 2) (sr 1)) k1 ∧ Issues (.enqTry {} (kr 1) (cn 63) (sr 1)) k1 ∧ (readSC k1.me (cn 2)).toNat ≤ 63
    ∧ 63 < (readSC k1.me (rg 1)).toNat ∧ (k1.stage 0 2).declared = true ∧ LocalOk k1 0x400 320 64 false ∧ LocalClean k1 0x400 320
    ∧ recFault false (memBytes k1.myCore.mem 0x400 320) = none ∧ recFault false (memBytes k1.myCore.mem 0x600 320) = some 0
    ∧ MayRelease k1 ∧ requests (countIssue k1) [320] 0 true = true ∧ (k1.stage 0 2).home = 0 ∧ exchanges (countIssue k1) 0 true = true := by decide +kernel
theorem test_meets_jinit : Issues (.jinit {} (sr 8) (cn 1) (sr 5)) k1 ∧ LocalOk k1 0x600 320 64 false ∧ LocalClean k1 0x600 320
    ∧ recFault true (memBytes k1.myCore.mem 0x600 320) = none ∧ (wordAt (memBytes k1.myCore.mem 0x600 320) 0).extractLsb' 2 6 = 2
    ∧ (wordAt (memBytes k1.myCore.mem 0x400 320) 0).extractLsb' 2 6 = 0 ∧ (k1.stage 0 0).declared = false ∧ quotaFits k1 0 3 0 1 = true
    ∧ 0 < (readSC k1.me (cn 1)).toNat ∧ (readSC k1.me (rg 7)).toNat < 2 ^ 24 ∧ 2 ^ 24 ≤ (readSC k1.me (rg 2)).toNat := by decide +kernel
theorem test_meets_jdone : Issues (.jdone {} (sr 1)) k1 ∧ (readS k1.me (sr 1)).extractLsb' 41 7 = k1.myTenant
    ∧ (readS k1.me (sr 6)).extractLsb' 41 7 ≠ k1.myTenant ∧ admits (countIssue k1) [8] (counterHome 0x400) = true
    ∧ reachable k1 0 (counterHome 0x400) = true := by decide +kernel
theorem test_meets_Stages : Issues (.stdecl {} (cn 3) (sr 4)) k1 ∧ k1.curCtx = 0 ∧ LocalOk k1 0x740 32 32 false ∧ LocalClean k1 0x740 32
    ∧ declFault (memBytes k1.myCore.mem 0x740 32) = none ∧ declFault (memBytes k1.myCore.mem 0x400 32) ≠ none
    ∧ (wordAt (memBytes k1.myCore.mem 0x740 32) 0).getLsbD 15 = true ∧ (k1.stage 0 3).declared = false ∧ quotaFits k1 0 1 0 2 = true
    ∧ quotaFits k0 0 1 0 2 = false ∧ Issues (.stdecl {} (cn 3) (sr 4)) (th (tc [])) ∧ Issues (.dist {} (cn 2) (sr 0) (sr 3) 4) k1
    ∧ (k1.stage 0 2).declared = true ∧ (k1.stage 0 2).distPc ≠ 0 ∧ (k1.stage 0 2).range = none ∧ tillNames k1 0 2 = false
    ∧ (k1.stage 0 2).queue = [] ∧ (k1.stage 0 2).parked = [] ∧ (k1.stage 0 2).parents = 0 := by decide +kernel
/-- A withdrawal of stage 2: a declaration with ENABLE clear and legal fields; the bounds of `dist`: 2^24 chunks and one more. -/
theorem test_meets_Stages_bounds :
    declFault (memBytes [(0x740, 2), (0x742, 1), (0x74A, 5)] 0x740 32) = none
      ∧ (wordAt (memBytes [(0x740, 2), (0x742, 1), (0x74A, 5)] 0x740 32) 0).getLsbD 15 = false
      ∧ (2 ^ 24 - 0 + 1 - 1) / 1 ≤ 2 ^ 24 ∧ 2 ^ 24 < (2 ^ 24 + 1 - 0 + 1 - 1) / 1 := by decide +kernel
theorem test_meets_SystemCalls : Issues (.scall {} 0x802 2) k1 ∧ (k1.myCore.ring 2).defined = true ∧ 64 ≤ 2 ^ (k1.myCore.ring 2).lg
    ∧ k1.me.calls.length < 16 ∧ MayRelease k1 ∧ crosses (countIssue k1) [64] (callInstance (countIssue k1) 0x802 (k1.me.getS 1)) true = true
    ∧ (k1.die (callInstance (countIssue k1) 0x802 (k1.me.getS 1))).fenced = false ∧ (k1.myCore.ring 3).defined = false
    ∧ (({ k1 with dies := [(1, { fenced := true })] } : State).die 1).fenced = true := by decide +kernel

/-! ## Movement and the matrix engine -/

/-- Tensors of I8 at 0x20000: tiles of 16 by 32, of 16 by 16, and a vector format of rank 2 for `gemv`. -/
def dA : Desc := { base := 0x20000, tag := .i8, rank := 2, sb := 0, key := 0, aliasOk := false, ext := [64, 64], stride := [1, 64], tile := [16, 32], bytes := [] }
def dB : Desc := { dA with tile := [16, 16] }
def dF : Desc := { dA with tag := .fp32, ext := [8, 4], stride := [4, 32], tile := [8, 4] }
/-- A record in memory at 0x600 that `tdef` installs: base 0x20000, I8, rank 1, extent 64, stride 1, tile 64. -/
def recMem : List Host.Cell := [(0x602, 2), (0x608, 0x11), (0x610, 64), (0x630, 1), (0x658, 64)]
/-- A copy record at 0x400: 1 element of 8 bytes from 0x100 to 0x200. -/
def cpMem : List Host.Cell := [(0x100, 7), (0x401, 1), (0x409, 2), (0x410, 0x31), (0x420, 1)]
def v1 : State :=
  { ts { tc [(1, 0x100), (2, 0x400), (3, 1), (4, 2), (5, 0x600), (6, 0x800), (7, 20000), (8, 3), (9, 0x104), (10, 70000), (11, 0x20000)] with
      v := [(1, { bits := 0x00000003000000020000000100000000, tag := .i32 }), (2, { bits := 0, tag := .i32 }), (3, { bits := 0, tag := .i32 })
            , (4, { bits := 0xFFFFFFFF0000000300000002FFFFFFFF, tag := .i32 })] }
      { mem := cpMem ++ recMem
        rings := [(2, { ring2 .free .free with base := 0x1000, lg := 9 }), (3, { ring2 .free .free with base := 0x2000, lg := 8 })] } with
    tenants := [(0, { page2 with descs := [(1, dA), (2, dB), (3, dF)] })] }

theorem test_seal_number : getS (.seal {} (sr 11)) (ts { tc [] with batch := 17 }) 11 = 1 := by decide +kernel
theorem test_bwait_range : trapped (.bwait {} (cn 16)) v1 = some (0x01, 41) := by decide +kernel
theorem test_send_length : trapped (.send {} (sr 1) (sr 0) (cn 0) 2) v1 = some (0x01, 59) ∧ trapped (.send {} (sr 1) (sr 0) (rg 7) 2) v1 = some (0x01, 59) := by
  decide +kernel
theorem test_send_leaves : ((after (.send {} (sr 1) (sr 0) (cn 1) 2) v1).net.map (·.msg)) = [.delivery 0 2 [(7, false)]] := by decide +kernel
theorem test_cpy_accepts : (after (.cpy {} (sr 2)) v1).myCore.ops.length = 1 := by decide +kernel
theorem test_cpy_rank : trapped (.cpy {} (sr 1)) (ts (tc [(1, 0x400)])) = some (0x01, 128 + 16) := by decide +kernel
theorem test_tsub_invalid : trapped (.tsub {} (cn 0) (cn 1) 9 2) v1 = some (0x35, 9) := by decide +kernel
theorem test_tsub_count : trapped (.tsub {} (cn 0) (cn 9) 1 2) v1 = some (0x01, 41) := by decide +kernel
theorem test_tnear_mask : trapped (.tnear {} (cn 0) (cn 4) 1) v1 = some (0x01, 50) := by decide +kernel
theorem test_thalo_die : trapped (.thalo {} (cn 0) (cn 8) 1) v1 = some (0x01, 50) := by decide +kernel
theorem test_tdef_installs : ((after (.tdef {} (cn 9) (sr 5)) v1).desc 0 9).map (·.ext) = some [64] := by decide +kernel
theorem test_tdef_zero : trapped (.tdef {} (cn 0) (sr 5)) v1 = some (0x35, 0) := by decide +kernel
theorem test_tkill_invalid : trapped (.tkill {} (cn 9)) v1 = some (0x35, 9) := by decide +kernel
theorem test_gath_beyond : (getV (.gath {} (vr 5) (vr 1) 3 0) v1 5).tag = .fp32 := by decide +kernel
theorem test_mzero_enters : (after (.mzero {} (mr 1)) v1).myCore.engine.map (·.m) = [1] := by decide +kernel
theorem test_mma_captures : (after (.mma {} (mr 1) (sr 3) (sr 4) 2 3 5) v1).myCore.engine.map (·.shape) = [5] := by decide +kernel
theorem test_mma_tag : trapped (.mma {} (mr 1) (sr 8) (sr 4) 2 3 0) v1 ≠ none := by decide +kernel
theorem test_mload_align : trapped (.mload {} (mr 1) (sr 9)) v1 = some (0x04, 0x104) := by decide +kernel
theorem test_mmv_put_tag : trapped (.mmvPut {} (mr 1) (vs 1) (cn 0)) v1 = some (0x03, 9) := by decide +kernel
theorem test_mmv_get_piece : trapped (.mmvGet {} (vr 5) (mr 1) (rg 7)) v1 = some (0x01, 59) := by decide +kernel
theorem test_mrest_align : trapped (.mrest {} (sr 9)) v1 = some (0x04, 0x104) := by decide +kernel

-- what the statements ask for can be met
theorem test_meets_BatchesAndSends : Issues (.seal {} (sr 11)) v1 ∧ v1.me.sealed.length < 15
    ∧ 15 ≤ (ts { tc [] with sealed := List.range 15 }).me.sealed.length ∧ Issues (.bwait {} (cn 15)) v1 ∧ v1.me.sealed.length ≤ (readSC v1.me (cn 15)).toNat
    ∧ 15 < (readSC v1.me (cn 16)).toNat ∧ (readSC v1.me (cn 14)).toNat < (ts { tc [] with sealed := List.range 15 }).me.sealed.length
    ∧ Issues (.send {} (sr 1) (sr 0) (cn 1) 2) v1 ∧ MayRelease v1 ∧ CopyRoom v1 ∧ v1.tenantOf 0 = v1.myTenant
    ∧ (∀ o ∈ v1.myCore.ops, False) ∧ itemBytes 1 = [1] ∧ itemBytes 513 = [512, 1] ∧ admits (leftCopyWait (countIssue v1)) [1] 0 = true ∧ reachable v1 0 0 = true
    ∧ coreExists ((readS v1.me (sr 10)).setWidth 16) = true ∧ ¬((readS v1.me (sr 10)).toNat < 2 ^ 16)
    ∧ (readS v1.me (sr 9)).toNat % 16 ≠ 0 ∧ 16384 < (readS v1.me (sr 7)).toNat := by decide +kernel
theorem test_meets_Copies : Issues (.cpy {} (sr 2)) v1 ∧ LocalOk v1 0x400 160 32 false ∧ LocalClean v1 0x400 160 ∧ CopyRoom v1
    ∧ (wordAt (memBytes v1.myCore.mem 0x400 160) 0x10).getLsbD 8 = false ∧ copyRecFault (memBytes v1.myCore.mem 0x400 160) = none
    ∧ copyRecFault (memBytes v1.myCore.mem 0x600 160) ≠ none ∧ (wordAt (memBytes v1.myCore.mem 0x400 160) 0).toNat % 2 ^ 3 = 0 := by decide +kernel
theorem test_meets_TileMoves : Issues (.tsub {} (cn 0) (cn 8) 1 2) v1 ∧ Issues (.tdrain {} (cn 0) (cn 8) 1 2) v1 ∧ CopyRoom v1 ∧ v1.desc v1.myTenant 1 = some dA
    ∧ dA.tileCount = 8 ∧ dA.tileSize = 512 ∧ 2 ^ (v1.myCore.ring 2).lg = 512 ∧ (v1.myCore.ring 2).defined = true ∧ v1.desc v1.myTenant 9 = none
    ∧ 2 ^ (v1.myCore.ring 3).lg < dA.tileSize ∧ 65535 < (readSC v1.me (rg 10)).toNat := by decide +kernel
/-- Every address is on a mapped page of a stack. -/
def maps (s : State) (k : AccKind) (as : List Word) : Bool := as.all (fun a => match translate s s.curCore s.myTenant a k with
  | .ok _ _ l => !l.host
  | _ => false)
theorem maps_mapped (s : State) (k : AccKind) (as : List Word) (h : maps s k as = true) : Mapped s k as := by
  refine .inl (fun a ha => ?_)
  have := List.all_eq_true.1 h a ha
  split at this
  · exact ⟨_, _, _, by assumption, by simpa using this⟩
  · simp at this
/-- The record of TID n and the state that its look-up leaves. -/
def looked (s : State) (n : Tid) : Option Desc × State := match lookDesc s n with
  | some (d, t) => (some d, t)
  | none => (none, s)
theorem test_meets_looks : (looked (leftCopyWait (countIssue v1)) 1).1 = some dA ∧ (looked (countIssue v1) 3).1 = some dF
    ∧ (looked (leftCopyWait (countIssue v1)) 9).1 = none ∧ (looked (countIssue v1) 0).1 = none
    ∧ maps (looked (leftCopyWait (countIssue v1)) 1).2 .read (tileEnds dA (List.range 8)) = true
    ∧ maps (looked (leftCopyWait (countIssue v1)) 1).2 .write (tileEnds dA (List.range 8)) = true := by decide +kernel
/-- The first 16 bytes of tile 0 of the record of TID 1. -/
def tile1 : List Word := (tileAddrs dA 0 0 16).map (fun x => canon x.2)
theorem test_meets_TileAccesses : ∃ c2 c3 fr, Translates (looked (countIssue v1) 1).2 .write tile1 c2 fr ∧ Issues (.stt {} (cn 0) (cn 0) (vr 1) 1) v1
    ∧ admits c2 [16] (homeDie ((physOf c2 c2.myTenant (dA.tileAddr 0)).getD 0)) = true
    ∧ unserved c2 0 (homeDie ((physOf c2 c2.myTenant (dA.tileAddr 0)).getD 0)) = false
    ∧ (∀ go, withPages .read ((pageHeads (looked (countIssue v1) 1).2 tile1).map va57) (looked (countIssue v1) 1).2 go = go c3)
    ∧ Issues (.ldt {} (vr 2) (cn 0) (cn 0) 1 .i8) v1
    ∧ (∀ go, withTileLinks 0 1 dA [(0, (tileAddrs dA 0 0 16).map (·.2))] c3 go = go c3)
    ∧ (∀ e ∈ c3.myCore.journal, ¬(e.2.state = 1 ∧ e.2.ctx = c3.curCtx ∧ e.2.inc = c3.me.inc ∧ hitsTile 1 0 e.2 = true))
    ∧ requests c3 [16] (dieOf c3 0 (dA.tileAddr 0)) false = true :=
  ⟨_, _, _, fun _ => rfl, by decide +kernel, by decide +kernel, by decide +kernel, fun _ => rfl, by decide +kernel, fun _ => rfl, by decide +kernel,
    by decide +kernel⟩
theorem test_ldt_reads : getV (.ldt {} (vr 2) (cn 0) (cn 0) 1 .i8) { v1 with mem := [(0x20001, 7), (0x20010, 9)] } 2 = { bits := 0x700, tag := .i8 } := by
  decide +kernel
theorem test_stt_posts : ((after (.stt {} (cn 0) (cn 16) (vr 1) 1) v1).myCore.jentry 0).addr = 0x0001000000000001 := by decide +kernel
/-- Elements 2 and 3 of the record of TID 3, in its first tile. -/
def inside3 : List (Nat × Nat) := [2, 3].map dF.elemAt
theorem test_meets_gath_reads : ∃ c2 fr, Translates (looked (countIssue v1) 3).2 .read
    (inside3.flatMap (fun e => (tileAddrs dF e.1 (dF.bits * e.2 / 8) 4).map (fun a => canon a.2))) c2 fr ∧ c2.linkUp = true
    ∧ unserved c2 0 (dieOf v1 0 (dF.tileAddr 0)) = false ∧ linkFull c2 0 (dieOf v1 0 (dF.tileAddr 0)) = false
    ∧ (exchangeAll c2 0 [dieOf v1 0 (dF.tileAddr 0)]).isSome = true ∧ admitsItems c2 [16] [] = true :=
  ⟨_, _, fun _ => rfl, by decide +kernel, by decide +kernel, by decide +kernel, by decide +kernel, by decide +kernel⟩
/-- One poisoned element of those that are read makes every lane zero bits. -/
theorem test_gath_poison : getV (.gath {} (vr 5) (vr 4) 3 0) { v1 with mem := [(0x20008, 7), (0x2000C, 9)], poison := [.flat (0x20000 / 64)] } 5
    = { bits := 0, tag := .fp32 } := by decide +kernel
theorem test_meets_tfind : (tileSlot (looked (countIssue v1) 1).2 0 1 7).isSome = true ∧ exchanges (looked (countIssue v1) 1).2 0 false = true
    ∧ Issues (.tfind {} (kr 1) (cn 5) 0) v1 ∧ (tileSlot (countIssue v1) 0 0 256).isSome = true ∧ tileSlot (countIssue v1) 0 0 5 = none := by
  decide +kernel
theorem test_gath_reads : getV (.gath {} (vr 5) (vr 4) 3 0) { v1 with mem := [(0x20008, 7), (0x2000C, 9)] } 5 = { bits := 0x00000000000000090000000700000000, tag := .fp32 } := by
  decide +kernel
theorem test_meets_gath : Issues (.gath {} (vr 5) (vr 4) 3 0) v1 ∧ v1.desc v1.myTenant 3 = some dF ∧ (v1.me.getV 4).tag = .i32 ∧ dF.tag.lanes = 4
    ∧ dA.tag.lanes ≠ 4 ∧ lane (v1.me.getV 4) 0 = 0xFFFFFFFF ∧ dF.ext.foldl (· * ·) 1 = 32 ∧ Issues (.tfind {} (kr 1) (cn 0) 1) v1
    ∧ (readSC v1.me (cn 7)).toNat < dA.tileCount ∧ dA.tileCount ≤ (readSC v1.me (cn 8)).toNat := by decide +kernel
theorem test_meets_TileOperations : CopyRoom v1 ∧ Issues (.tnear {} (cn 0) (cn 3) 1) v1 ∧ (readSC v1.me (cn 3)).toNat < 2 ^ dA.rank
    ∧ 2 ^ dA.rank ≤ (readSC v1.me (cn 4)).toNat ∧ Issues (.thalo {} (cn 0) (cn 7) 1) v1 ∧ (readSC v1.me (cn 7)).toNat ≤ 7
    ∧ 7 < (readSC v1.me (cn 8)).toNat ∧ Issues (.tdrop {} 1) v1 ∧ Issues (.tflush {} 1) v1 ∧ v1.desc v1.myTenant 9 = none := by decide +kernel
theorem test_meets_Descriptors : Issues (.tdef {} (cn 9) (sr 5)) v1 ∧ readSC v1.me (cn 9) ≠ 0 ∧ (readSC v1.me (cn 9)).toNat < 1024
    ∧ 1024 ≤ (readSC v1.me (rg 2)).toNat ∧ LocalOk v1 0x600 128 128 false ∧ LocalClean v1 0x600 128
    ∧ descFault (countIssue v1) (memBytes v1.myCore.mem 0x600 128) = none ∧ descFault (countIssue v1) (memBytes v1.myCore.mem 0x400 128) ≠ none
    ∧ quotaFits v1 0 5 0 1 = true ∧ Issues (.tget {} (cn 1) (sr 5)) v1 ∧ LocalOk v1 0x600 128 128 true ∧ Issues (.tkill {} (cn 1)) v1
    ∧ tidBusy (countIssue v1) 0 1 = false ∧ tidDown (looked (countIssue v1) 1).2 0 1 dA = none ∧ 65536 ≤ (readSC v1.me (rg 10)).toNat := by decide +kernel
/-- A tensor of one row of 64 bytes in tiles of 16. -/
def dS : Desc := { dA with rank := 1, ext := [64], stride := [1], tile := [16] }
/-- Core 0 has a copy, a load, a drain and a tile operation; a delivery is on its way to ring 2. -/
def w1 (op : BatchOp) (a b : Slot) (filled : List Nat) : State :=
  { ts (tc []) { mem := [(0x100, 7)], rings := [(2, { ring2 a b 0 filled with lg := 4 })], ops := [{ id := 4, owner := 0, batch := 0, tenant := 0, op := op }] } with
    tenants := [(0, { page2 with descs := [(1, dS)] })], pick := { id := 4 }
    net := [{ id := 4, src := 0, srcDie := 0, dst := 0, phase := .delivered, msg := .delivery 0 2 [(9, false)] }] }
theorem test_delivery_fills : ((after .sendDelivery (w1 .delivery .free .free [])).core 0 |>.ring 2).slots = [.filled [], .free]
    ∧ memByte ((after .sendDelivery (w1 .delivery .free .free [])).core 0).mem 0x1000 = 9 := by decide +kernel
theorem test_copy_moves : memByte ((after .copyComplete (w1 (.copy 0x100 0x200 3 [1] [0] [0] none) .free .free [])).core 0).mem 0x200 = 7 := by decide +kernel
theorem test_meets_MovementEvents :
    (findPkt (w1 .delivery .free .free []) 4).isSome = true ∧ (findPkt (w1 .delivery .free .free []) 4).map (·.tenant) = some 0
    ∧ (w1 .delivery .free .free []).tenantOf 0 = 0 ∧ ((w1 .delivery .free .free []).core 0).cuts.contains ((2 : BitVec 4), Waiter.pkt 4) = false
    ∧ ((w1 .delivery .free .free []).core 0).splitting = false
    ∧ cpFirst ((w1 (.copy 0x100 0x200 3 [1] [0] [0] none) .free .free []).core 0) { id := 4, owner := 0, batch := 0, tenant := 0, op := .copy 0x100 0x200 3 [1] [0] [0] none } = true
    ∧ (after .loaderTilePush (w1 (.load 1 0 2 2 0) .free .free []) |>.core 0).ops.map (·.op) = [.load 1 0 2 2 1]
    ∧ ((after .storerTileWrite (w1 (.drain 1 0 1 2 0) .free (.filled []) [1])).core 0).ops = []
    ∧ ((after .tileOperationComplete (w1 (.tile 2 1 0 0 0) .free .free [])).core 0).ops = []
    ∧ stFirst ((w1 (.load 1 0 2 2 0) .free .free []).core 0) { id := 4, owner := 0, batch := 0, tenant := 0, op := .load 1 0 2 2 0 } = true
    ∧ hears (ring2 .free .free).heardFree 0 (rankDelivery 0 0) = true ∧ hears (ring2 .free .free).heardFree 0 rankMover = true := by decide +kernel
/-- The next tile of a load and of a drain is admitted, and its home answers. -/
def tileGoes (op : BatchOp) (a b : Slot) (f : List Nat) : Bool :=
  let s := w1 op a b f
  (match s.myCore.ops with
    | [o] => !ringLost s.myCore o 2 dS.tileSize && !tileDown s o dS 2
        && !unserved s 0 (dieOf s 0 (dS.tileAddr 2)) && !(s.die (dieOf s 0 (dS.tileAddr 2))).fenced && (exchange s 0 (dieOf s 0 (dS.tileAddr 2)) false).isSome
        && (match admitTile s 0 o dS.tileSize (dieOf s 0 (dS.tileAddr 2)) with
          | .ok _ => true
          | _ => false)
        && (match admitOp s 0 o [1] [] with
          | .ok _ => true
          | _ => false)
    | _ => false)
theorem test_meets_tiles : tileGoes (.load 1 2 2 2 0) .free .free [] = true ∧ tileGoes (.drain 1 2 1 2 0) .free (.filled []) [1] = true
    ∧ (let s := w1 (.drain 1 2 1 2 0) .free (.filled []) [1]
       probesGo s 0 (tagHolders s (tensorTag 0 1 2)) = true ∧ tileEntry s (tileHome s 0 1 dS 2) (tensorTag 0 1 2) false = none) := by
  decide +kernel
theorem test_meets_tile_operation : (let s := w1 (.tile 3 1 0 0 0) .free .free []
    s.myCore.ops.all (fun o => !tilesDown s o dS 3 [] && cpFirst s.myCore o)
      && (exchangeAll s 0 (tidDies s 0 1 dS true)).isSome && (after .tileOperationComplete s).myCore.ops.isEmpty) = true := by decide +kernel
/-- The loader's slot holds the tile's bytes and zeros behind them, and a storer's bytes stand in the entry of its tile. -/
theorem test_loader_bytes : memBytes ((after .loaderTilePush { w1 (.load 1 0 1 2 0) .free .free [] with mem := [(0x20000, 5), (0x2000F, 6), (0x20010, 7)] }).core 0).mem 0x100F 2
    = [6, 0] := by decide +kernel
theorem test_meets_EngineQueue : EngineRoom v1 ∧ Issues (.mzero {} (mr 1)) v1 ∧ Issues (.mload {} (mr 1) (sr 6)) v1 ∧ AreaOk v1 0x800 2048 64
    ∧ (readS v1.me (sr 9)).toNat % 64 ≠ 0 ∧ isLocal 0x20000 = false ∧ Issues (.mma {} (mr 1) (sr 3) (sr 4) 2 3 0) v1
    ∧ v1.desc v1.myTenant 2 = some dB ∧ ktOk .i8 16 = true ∧ (capOf dA).tile1 = 32 ∧ flatTile dA = true ∧ (capOf dB).tile0 = 16 ∧ (capOf dB).tile1 = (capOf dA).tile0
    ∧ (capOf dA).size ≤ 2 ^ (v1.myCore.ring 2).lg ∧ (capOf dB).size ≤ 2 ^ (v1.myCore.ring 3).lg ∧ mmaTag .i8 = true ∧ mmaTag .fp32 = false
    ∧ 65536 ≤ (readS v1.me (sr 10)).toNat ∧ 16 % (capOf dB).tile0 = 0 ∧ 32 % (capOf dB).tile1 = 0 ∧ Issues (.mcvt {} (mr 1) (sr 4) 2) v1 := by decide +kernel
theorem test_meets_Gemv : Issues (.gemv {} (sr 6) (cn 32) (sr 6) 3 2 false false) v1 ∧ Issues (.gemv {} (sr 6) (cn 32) (sr 11) 3 0 false true) v1
    ∧ (looked (leftEngWait (countIssue v1)) 3).1 = some dF ∧ (readSC v1.me (cn 32)).toNat = 32 ∧ dF.rank = 2 ∧ dF.tag ≠ .b128
    ∧ dF.ext.headD 0 * dF.bits = 8 * 32 ∧ AreaOk v1 0x800 32 16 ∧ dF.ext.getD 1 0 = 4 ∧ (v1.myCore.ring 2).defined = true
    ∧ (v1.myCore.ring 0).defined = false ∧ readS v1.me (sr 11) = 0x20000 ∧ (looked (leftEngWait (countIssue v1)) 9).1 = none
    ∧ dA.rank = 2 ∧ dA.tag = .i8 ∧ 8 * 32 ≠ dA.ext.headD 0 * dA.bits := by decide +kernel
/-- Packets to several dies are delivered with no hold. -/
def crossesTo (s : State) (mem fab : List Nat) (dies : List Die) : Bool :=
  (dies.filter (· != coreDie s.curCore)).all (fun d => !linkFull s (coreDie s.curCore) d) && (crossAll s (coreDie s.curCore) dies).isSome
    && admitsItems s mem fab
/-- The pages of B and of a result in memory translate, and the packets of the vector cross. -/
theorem test_meets_Gemv_pages : ∃ c2 f2 c3 f3,
    Translates (looked (leftEngWait (countIssue v1)) 3).2 .read [canon 0x20000, canon (0x20000 + 3 * 32 + 8 * 32 / 8 - 1)] c2 f2
    ∧ (∀ go, withPageList .write [0x20000, 0x20000 + BitVec.ofNat 64 (4 * resBytes false - 1)] f2 c2 go = go c3 f3)
    ∧ gemvDies (looked (leftEngWait (countIssue v1)) 3).2 dF = [0]
    ∧ crossesTo c3 [32, 4 * resBytes false] (gemvFab c3 [0] 32 (4 * resBytes false)) [0] = true := ⟨_, _, _, _, fun _ => rfl, fun _ => rfl, by decide +kernel, by decide +kernel⟩
theorem test_gemv_enters : (after (.gemv {} (sr 6) (cn 32) (sr 11) 3 0 false true) v1).myCore.engine.map (fun e => (e.toMem, e.gN, e.gK)) = [(true, 4, 8)]
    ∧ (after (.gemv {} (sr 6) (cn 32) (sr 6) 3 2 false false) v1).myCore.engine.map (·.ringA) = [2] := by decide +kernel
theorem test_meets_Accumulators : Issues (.mwait {} (mr 1)) v1 ∧ v1.me.pend = .none ∧ engineNames v1.myCore 1 v1.nextId = false
    ∧ Issues (.mmvGet {} (vr 5) (mr 1) (rg 6)) v1 ∧ 127 < (readSC v1.me (rg 6)).toNat ∧ (readSC v1.me (cn 63)).toNat ≤ 127
    ∧ (∀ l, l < 4 → accKey 1 (63 / 4 * 16 + 4 * (63 % 4) + l) ∉ v1.myCore.accPoison) ∧ Issues (.mmvPut {} (mr 1) (vs 1) (cn 0)) v1
    ∧ modBad (v1.me.getV 1) 0 = false := by decide +kernel
/-- An engine whose head is one entry. -/
def g1 (e : EngEntry) : State := { ts (tc []) { engine := [e], mem := [(0x800, 5)], rings := [(2, { ring2 .free .free with lg := 9 })], acc := [(512, 7)] } with pick := { num := 1 } }
theorem test_mzero_clears : ((after .engineInstrComplete (g1 { id := 1, owner := 0, op := .mzero, word := 0, m := 1 })).core 0).acc = [] := by decide +kernel
theorem test_meets_EngineEvents : (engineHead ((g1 { id := 1, owner := 0, op := .mma, word := 0, capA := capOf dA, capB := capOf dB, slotA := some { ring := 2, addr := 0x1000, defNum := 0 }, slotB := some { ring := 2, addr := 0x1200, defNum := 0 } }).core 0)).isSome = true ∧ (capOf dA).tag ≠ .q4 ∧ 0 < (capOf dA).tile0
    ∧ ((after .mcvtTilePublish (g1 { id := 1, owner := 0, op := .mcvt, word := 0, ringA := 2, capA := capOf dB })).core 0 |>.ring 2).slots = [.filled [], .free]
    ∧ engineCut ((g1 { id := 1, owner := 0, op := .mcvt, word := 0, ringA := 2, capA := capOf dB }).core 0) { id := 1, owner := 0, op := .mcvt, word := 0, ringA := 2, capA := capOf dB } 2 (capOf dB).size = false := by
  decide +kernel
/-- A `gemv` of two results from a page at 0x20000 into ring 2; a vector of FP32 ones and a column of 1.0 and 2.0. -/
def gv1 : GemvOp :=
  { id := 4, owner := 0, tenant := 0, tid := 3, a := good ([0, 0, 0x80, 0x3F, 0, 0, 0x80, 0x3F]), capB := capOf { dF with ext := [2, 2], tile := [2, 2] }
    gK := 2, gN := 2, gBase := 0x20000, gStride := 8, bf16 := false, toMem := false, ring := 2, res := 0 }
def gd1 : State :=
  { pg (ts (tc []) { gemvs := [gv1], rings := [(2, ring2 .free .free)] }) with
    pick := { id := 4 }, stack := [(0x20002, 0x80), (0x20003, 0x3F), (0x20007, 0x40)] }
theorem test_gemv_delivers : memBytes ((after .gemvResultDelivery gd1).core 0).mem 0x1000 4 = [0, 0, 0x40, 0x40]
    ∧ ((after .gemvResultDelivery gd1).core 0 |>.ring 2).slots = [.filled [], .free] := by decide +kernel
theorem test_meets_gemv_results : gv1.next (2 ^ 6) = [0, 1] ∧ gv1.held gd1 0 ((gv1.next (2 ^ 6)).flatMap gv1.column) .read = none
    ∧ gvFirst (gd1.core 0) gv1 = true ∧ (crossing gd1 (gv1.die gd1 gv1.done) 0 false).isSome = true ∧ hears (ring2 .free .free).heardFree 0 rankGemv = true
    ∧ hears (ring2 .free .free).heardFree 0 rankEngine = true := by decide +kernel
/-- A saved idle engine at 0x800: the header word 0x4D53 at offset 0x2000. -/
def v2 : State := ts (tc [(6, 0x800), (9, 0x104), (10, 0x3FFC0)]) { mem := [(0x2800, 0x53), (0x2801, 0x4D)] }
theorem test_meets_EngineSpill : Issues (.mspill {} (sr 6)) v2 ∧ AreaOk v2 0x800 8704 64 ∧ v2.myCore.engine = [] ∧ Issues (.mrest {} (sr 6)) v2
    ∧ (readS v2.me (sr 9)).toNat % 64 ≠ 0 ∧ (readS v2.me (sr 10)).toNat % 64 = 0
    ∧ v2.myCore.scratch < (readS v2.me (sr 10)).toNat + 8704 := by decide +kernel
theorem test_meets_spill_area : areaFault (decodeEnv v2) (memBytes v2.myCore.mem 0x800 8704) = none
    ∧ lapsedRing v2.myCore (memBytes v2.myCore.mem 0x800 8704) 0 = none ∧ areaFault (decodeEnv v2) (memBytes v2.myCore.mem 0x900 8704) ≠ none := by decide +kernel
theorem test_meets_spill_clean : LocalClean v2 0x800 8704 := fun _ _ => List.not_mem_nil

/-! ## Folding, control registers, traps and the fetch -/

/-- Tenant 0 owns handle slot 1, generation 1, with one kept word. -/
def hSlot : HandleSlot := { used := true, rescnt := 1, bytes := 272, points := [{ code := [.keep 0x500 0 []] }] }
def fh1 (x : HandleSlot) : State :=
  { ts (tc [(1, mkFoldHandle 1 0 1), (2, mkFoldHandle 1 1 1), (3, mkFoldHandle 2 0 1), (4, 0x2000), (5, 0x2008)]) with
    tenants := [(0, { page2 with handles := [(1, x)] })] }

theorem test_fold_align : trapped (.fold {} (sr 6) (sr 7) (sr 5) 0) (fh1 hSlot) = some (0x04, 0x2008) := by decide +kernel
theorem test_fold_waits : holds (.fold {} (sr 6) (sr 7) (sr 4) 0) (fh1 hSlot) = true ∧ (after (.fold {} (sr 6) (sr 7) (sr 4) 0) (fh1 hSlot)).me.pend = .folding := by
  decide +kernel
theorem test_callh_enters : (after (.callh {} (sr 1)) (fh1 hSlot)).me.link = [0x1010] ∧ (after (.callh {} (sr 1)) (fh1 hSlot)).me.resid.isSome = true := by
  decide +kernel
theorem test_callh_stale : trapped (.callh {} (sr 3)) (fh1 hSlot) = some (Cause.handleStale.code, mkFoldHandle 2 0 1) := by decide +kernel
theorem test_relh_frees : sparseGet {} ((after (.relh {} (sr 1)) (fh1 hSlot)).tenantSt 0).handles 1 = { gen := 2 } := by decide +kernel
theorem test_relh_tenant : trapped (.relh {} (sr 2)) (fh1 hSlot) = some (Cause.tenant.code, 0) := by decide +kernel
theorem test_hstat_pins : getS (.hstat {} (sr 9) (sr 1)) (fh1 { hSlot with pins := 3, released := true }) 9 = 2 + 3 * 4 + 2 ^ 47 := by decide +kernel
theorem test_hstat_stale : getS (.hstat {} (sr 1) (sr 3)) (fh1 hSlot) 1 = 0 := by decide +kernel

/-- A cluster whose fold queue has one request, of context 0 of core 0. -/
def fh2 : State :=
  { ts { tc [] with pend := .folding } with
    clusters := [(0, { folds := [(0, 0, 0x2000, 0)] })] }
theorem test_meets_FoldRequests : Issues (.fold {} (sr 6) (sr 7) (sr 4) 0) (fh1 hSlot) ∧ (fh1 hSlot).me.pend = .none ∧ (readS (fh1 hSlot).me (sr 4)) % 16 = 0
    ∧ (readS (fh1 hSlot).me (sr 5)) % 16 ≠ 0 ∧ ((fh1 hSlot).cluster 0).folds.length < 8
    ∧ Issues (.fold {} (sr 6) (sr 7) (sr 4) 0) (ts { tc [] with pend := .folded 3 4 }) ∧ Issues (.fold {} (sr 6) (sr 7) (sr 4) 0) (ts { tc [] with pend := .foldTrap .quota 0 0 })
    ∧ (fh2.cluster fh2.pick.cluster).folds = (0, 0, 0x2000, 0) :: [] ∧ (fh2.ctx 0 0).pend = .folding := by decide +kernel
theorem test_fold_serves : ((after .foldRequestServe fh2).cluster 0).folds = [] := by decide +kernel
theorem test_fold_granted : (match grantHandle (fh1 hSlot) 0 { emitted := 3 } 0 with
    | (_, .folded h st) => (h, st.extractLsb' 0 3, st.extractLsb' 15 17)
    | _ => (0, 7, 0)) = (mkFoldHandle 1 0 0, 0, 3) := by decide +kernel
theorem test_meets_Handles : (∀ i ∈ ([.callh {} (sr 1), .relh {} (sr 1), .hstat {} (sr 9) (sr 1)] : List Instr), Issues i (fh1 hSlot))
    ∧ (readS (fh1 hSlot).me (sr 2)).extractLsb' 41 7 ≠ (fh1 hSlot).myTenant ∧ handleSlot (fh1 hSlot) (mkFoldHandle 1 0 1) = some hSlot
    ∧ hSlot.released = false ∧ handleSlot (fh1 hSlot) (mkFoldHandle 2 0 1) = none ∧ (fh1 hSlot).me.link.length < 16
    ∧ (seatAt hSlot.points 2 0 0) = some (0, 0, .keep 0x500 0 []) := by decide +kernel

/-- The handler handles a trap of context 3. -/
def hh1 : State :=
  th (tc [(1, 5), (2, 2 ^ 53), (3, 0), (4, 0x1000)]) { ctxs := [(3, { run := .trapped, cause := 0x3101, epc := 0x40, einfo := 9, jrnl := 7 }), (4, { run := .idle }), (5, { run := .saved })], handling := some (.trap 3), journal := [(5, { state := 2, addr := 0x77, d0 := 1, d1 := 2 })] }
theorem test_mfc_handled : getS (.mfc {} (sr 9) .einfo) hh1 9 = 9 ∧ getS (.mfc {} (sr 9) .cause) hh1 9 = 0x3101 := by decide +kernel
theorem test_mfc_ctxid : getS (.mfc {} (sr 9) .ctxid) (ts { tc [] with inc := 3 }) 9 = 3 * 2 ^ 20 := by decide +kernel
theorem test_mtc_fatal_stays : ((after (.mtc {} (rg 3) .cause) hh1).core 0 |>.ctx 3).cause = 0x100 := by decide +kernel
theorem test_mtc_reserved : trapped (.mtc {} (rg 2) .scale) (ts (tc [(2, 0x100)])) = some (0x01, 0) := by decide +kernel
theorem test_mtc_status_reserved : trapped (.mtcStatus {} (rg 2)) (ts (tc [(2, 2)])) = some (0x01, 0) := by decide +kernel
theorem test_mtc_status_dzt : (after (.mtcStatus {} (rg 3)) (ts (tc []))).me.dzt = false := by decide +kernel
theorem test_mtc_mxcnt : (after (.mtcMxcnt {} (rg 2)) (ts (tc [(2, 2 ^ 42 + 5)]))).myCore.mxOvf = 1 ∧ trapped (.mtcMxcnt {} (rg 2)) (ts (tc [(2, 2 ^ 63)])) = some (0x01, 0) := by
  decide +kernel
theorem test_mtc_lmcfg : (after (.mtcLmcfg {} (rg 2)) (ts (tc [(2, 5)]))).myCore.sp = 5 ∧ trapped (.mtcLmcfg {} (rg 2)) (ts (tc [(2, 9)])) = some (0x01, 0) := by
  decide +kernel
theorem test_time_reads : getS (.time {} (sr 1)) { ts (tc []) with time := 99 } 1 = 99 := by decide +kernel
theorem test_jrnl_drops : ((after (.jrnl {} (sr 9) (sr 10) (rg 5)) (th (tc [(5, 0xA5)]) { journal := [(5, { state := 2, addr := 0x77, d0 := 1, d1 := 2 })] })).myCore.jentry 5).state = 0
    ∧ getS (.jrnl {} (sr 9) (sr 10) (rg 5)) (th (tc [(5, 0xA5)]) { journal := [(5, { state := 2, addr := 0x77, d0 := 1, d1 := 2 })] }) 10 = 2 := by decide +kernel
theorem test_csave_state : (after (.csave {} (cn 4)) hh1).myCore.hflt = true := by decide +kernel
theorem test_nispl_forwards : ((after (.nispl {} (cn 5)) hh1).myCore.ctx 5).forwarding = true := by decide +kernel
theorem test_jrnl_priv : trapped (.jrnl {} (sr 9) (sr 10) (rg 5)) (ts (tc [])) = some (Cause.priv.code, 0) := by decide +kernel
theorem test_tlbi_drops : (after (.tlbi {} (sr 4)) (pg (ts (tc [(4, 0x20008)]) { tlb := [2, 3] }))).myCore.tlb = [3] := by decide +kernel
theorem test_tlbi_all : (after (.tlbiAll {}) (ts (tc []) { tlb := [2, 3] })).myCore.tlb = [] := by decide +kernel
theorem test_meets_ControlReads : Issues (.mfc {} (sr 9) .mxcnt) hh1 ∧ Issues (.time {} (sr 9)) hh1 ∧ hh1.myCore.mxNar < 2 ^ 21 ∧ hh1.myCore.journal.length ≤ 32 := by
  decide +kernel
theorem test_meets_ControlWrites : Issues (.mtc {} (rg 1) .dom) hh1 ∧ hh1.curCtx ≠ 0 ∧ Issues (.mtc {} (rg 3) .epc) hh1 ∧ Issues (.mtcStatus {} (rg 3)) hh1
    ∧ (readSC hh1.me (rg 2)).extractLsb' 8 56 ≠ 0 ∧ Issues (.mtcMxcnt {} (rg 3)) hh1 ∧ engineHead hh1.myCore = none ∧ hh1.myCore.gemvs = []
    ∧ engineHead ({ engine := [{ id := 1, owner := 0, op := .mzero, word := 0 }] } : Core) ≠ none
    ∧ Issues (.mtc {} (rg 4) .dom) e1 ∧ domFault 0 (readSC e1.me (rg 4)) = none ∧ e1.curCtx = 0
    ∧ Issues (.mtcLmcfg {} (rg 1)) (ts (tc [(1, 4)])) ∧ splitBad (ts (tc [])).myCore 4 = false ∧ splitBad (ts (tc [])).myCore 8 = false
    ∧ splitReady (countIssue (ts (tc []))) = true := by decide +kernel
/-- Local memory holds a spill area at 0x4000 for context 4 and a register image of a live context whose program counter is 0x40. -/
def imgMem : List Host.Cell := [(imageBase {} 4, 0x40), (imageBase {} 4 + 0x410, 1), (0x1FEC1, 0x40)]
def hh2 : State := th (tc [(4, 4)]) { ctxs := [(3, { run := .trapped }), (4, {}), (5, { run := .saved })], mem := imgMem }
theorem memBytes_blank (m : List Host.Cell) (a n : Nat) (h : ∀ e ∈ m, e.1 < a ∨ a + n ≤ e.1) : memBytes m a n = List.replicate n 0 := by
  have key : ∀ (m : List Host.Cell) (b : Nat), (∀ e ∈ m, e.1 ≠ b) → memByte m b = 0 := by
    intro m
    induction m with
    | nil => intro b _; rfl
    | cons e t ih =>
      intro b hb
      have h1 : e.1 ≠ b := hb e (List.mem_cons_self ..)
      have h2 := ih b (fun x hx => hb x (List.mem_cons_of_mem _ hx))
      simp only [memByte, sparseGet] at h2 ⊢
      rw [if_neg h1]
      exact h2
  refine List.ext_getElem (by simp [memBytes]) (fun i h1 h2 => ?_)
  simp only [memBytes, List.getElem_map, List.getElem_range, List.getElem_replicate]
  refine key m (a + i) (fun e he hh => ?_)
  have := h e he
  simp [memBytes] at h1
  omega
theorem wordAt_blank (n i : Nat) : wordAt (List.replicate n (0 : Byte)) i = 0 := by
  have : ∀ k, bytesNat (List.replicate k (0 : Byte)) = 0 := by
    intro k
    induction k with
    | zero => rfl
    | succ k ih => simpa [bytesNat, List.replicate_succ] using ih
  rw [wordAt, List.drop_replicate, List.take_replicate, this]
  rfl
theorem spillFault_blank (c : CoreId) (n : Nat) : spillFault c (List.replicate n 0) = none := by
  simp only [spillFault, wordAt_blank, Option.map_eq_none_iff, List.find?_eq_none]
  intro i _
  simp
theorem area_local (s : State) (x : Area) (c : CoreId) (n : Nat) (h : isLocal x.addr = true) (hc : x.core = some c) :
    (x.readPoisoned s 0 n).map (·.1) = memBytes (s.core c).mem x.addr.toNat n := by
  simp [Area.readPoisoned, Core.readLocal, memBytes, h, hc, Function.comp_def]
theorem area_clean (s : State) (x : Area) (c : CoreId) (n : Nat) (h : isLocal x.addr = true) (hc : x.core = some c) (hp : (s.core c).poison = []) :
    ∀ b ∈ x.readPoisoned s 0 n, b.2 = false := by simp [Area.readPoisoned, Core.readLocal, h, hc, hp]
theorem area_open (x : Area) (k : AccKind) (s : State) (h : isLocal x.addr = true) (hs : x.addr.toNat + 4096 ≤ s.myCore.scratch) :
    SpillOpen x k s s := by
  intro go
  simp [withSpillArea, h, Nat.not_lt.2 hs]
theorem test_meets_crest : Issues (.crest {} (rg 4)) hh2 ∧ isLocal (spillArea hh2 0 4).addr = true
    ∧ (spillArea hh2 0 4).addr.toNat + 4096 ≤ (countIssue hh2).myCore.scratch ∧ (hh2.myCore.ctx 4).run = .idle
    ∧ imageFault (memBytes hh2.myCore.mem (imageBase hh2.myCore 4) 1088) = none
    ∧ (keptCtx (countIssue hh2) 0 0 4 0).reports = [] ∧ hh2.myCore.poison = [] := by decide +kernel
theorem test_meets_crest_area : SpillOpen (spillArea hh2 0 4) .read (countIssue hh2) (countIssue hh2)
    ∧ (∀ b ∈ (spillArea hh2 0 4).readPoisoned (countIssue hh2) 0 4096, b.2 = false)
    ∧ spillFault 0 (((spillArea hh2 0 4).readPoisoned (countIssue hh2) 0 4096).map (·.1)) = none := by
  refine ⟨area_open _ _ _ (by decide +kernel) (by decide +kernel), area_clean _ _ 0 _ (by decide +kernel) rfl rfl, ?_⟩
  rw [area_local _ _ 0 _ (by decide +kernel) rfl, memBytes_blank _ _ _ (by decide +kernel)]
  exact spillFault_blank 0 4096
theorem test_meets_csave : Issues (.csave {} (cn 3)) hh2 ∧ hh2.myCore.spillBase ≠ 0 ∧ hh2.myCore.spillBase.toNat % 4096 = 0
    ∧ hh2.myCore.spillSlot / 16 ∉ hh2.myCore.poison := by decide +kernel
/-- A poisoned SPILLBASE is consumed: `csave` retires, and the context stays trapped. -/
theorem test_csave_poisoned : (let t := after (.csave {} (cn 3)) { hh2 with cores := hh2.cores.map (fun e => (e.1, { e.2 with poison := [e.2.spillSlot / 16] })) }
    (t.me.pc, (t.myCore.ctx 3).run, t.me.reports.map (·.cause.code))) = (0x1010, .trapped, [Cause.uncorrectable.code]) := by decide +kernel
theorem test_meets_csave_area : SpillOpen (spillArea hh2 0 3) .write (countIssue hh2) (countIssue hh2) :=
  area_open _ _ _ (by decide +kernel) (by decide +kernel)
theorem test_meets_SavedContexts : Issues (.jrnl {} (sr 9) (sr 10) (cn 5)) hh1 ∧ Issues (.csave {} (cn 3)) hh1 ∧ Issues (.crest {} (cn 4)) hh1 ∧ Issues (.nispl {} (cn 5)) hh1
    ∧ hh1.curCtx = 15 ∧ (hh1.myCore.ctx 3).run = .trapped ∧ (hh1.myCore.ctx 4).run = .idle ∧ (hh1.myCore.ctx 5).run = .saved ∧ hh1.myCore.spillBase = 0
    ∧ (readSC hh1.me (cn 5)).extractLsb' 8 56 = 0 ∧ (readSC hh1.me (rg 2)).extractLsb' 8 56 ≠ 0 ∧ midway (hh1.myCore.ctx 3).pend = false
    ∧ journalBusy hh1.myCore 3 0 = false ∧ Issues (.tlbi {} (sr 4)) hh1 ∧ Issues (.tlbiAll {}) hh1 ∧ isLocal (readS hh1.me (sr 4)) = true
    ∧ (leafOf page2 0x20008).isSome = true ∧ hh1.myCore.spillSlot / 16 ∉ hh1.myCore.poison ∧ (spillArea hh1 0 5).bad (countIssue hh1) = false
    ∧ hh1.linkUp = true := by decide +kernel

-- traps, the handler and the fetch
/-- The handler is idle and a delivery waits; the handler entry is at 0x800. -/
def hq1 (d : Delivery) (evec : Word) : State :=
  ts (tc [(1, 7)]) { evec := evec, hqueue := [(0, d)], ctxs := [(3, { run := .trapped, cause := 0x3101, epc := 0x40, einfo := 9 })] }
theorem test_trap_saves : (trapMe (ts (tc [(1, 7)])) .priv 5).me.epc = 0x1000 ∧ (trapMe (ts (tc [(1, 7)])) .priv 5).me.getS 1 = 7 := by decide +kernel
theorem test_handler_entry : ((after .handlerEntry (hq1 (.trap 3) 0x800)).ctx 0 15).pc = 0x800 ∧ ((after .handlerEntry (hq1 (.trap 3) 0x800)).ctx 0 15).getS 3 = 0x40 := by
  decide +kernel
theorem test_handler_absent : ((after .handlerEntry (hq1 (.trap 3) 0)).ctx 0 3).run = .idle := by decide +kernel
theorem test_preempt_queues : ((after .preempt { hq1 (.trap 3) 0x800 with pick := { num := 2 } }).core 0).hqueue.length = 2 := by decide +kernel
theorem test_watchdog_fires : ((after .watchdog (ts { tc [] with wdogLimit := 16, wdogCount := 65536, fline := some (0x1000, []) })).me.cause).extractLsb' 0 8 = Cause.watchdog.code := by
  decide +kernel
/-- An exchange phase does not keep the watchdog from the next instruction. -/
theorem test_watchdog_in_phase : ((after .watchdog (ts { tc [] with wdogLimit := 16, wdogCount := 65536, fline := some (0x1000, []) } { exch := some 0 })).me.cause).extractLsb' 0 8 = Cause.watchdog.code := by
  decide +kernel
theorem test_async_trap : (after .asyncTrapTake (ts { tc [] with reports := [{ cause := .storeRefused, einfo := 4, epc := 0x20 }] })).me.epc = 0x20 := by decide +kernel
/-- A context that a purse holds leaves it when it traps. -/
theorem test_trap_leaves_purse : (let s : State := { ts (tc []) with tenants := [(0, { mem := [(0, { held := [(.ctx 0 0, 2), (.ctx 0 3, 1)] })] })] }
    ((trapMe s .priv 5).purse 0 false 0).held) = [(.ctx 0 3, 1)] := by decide +kernel
theorem test_meets_TakingTraps : (ts (tc [])).curCtx ≠ 15 ∧ hh1.curCtx = 15 ∧ hh1.myCore.handling = some (.trap 3) ∧ hh1.myCore.msgs = []
    ∧ (trapMe hh1 .priv 0).myCore.hflt = true := by decide +kernel
theorem test_meets_HandlerEntries : ((hq1 (.trap 3) 0x800).core 0).handling = none ∧ hh1.myCore.handling ≠ none
    ∧ ((hq1 (.trap 3) 0x800).core 0).hqueue.find? (fun e => mayEnter ((hq1 (.trap 3) 0x800).core 0) e.2) = some (0, .trap 3)
    ∧ ((hq1 (.message 1 2 3 []) 0x800).core 0).hqueue.find? (fun e => mayEnter ((hq1 (.trap 3) 0x800).core 0) e.2) = some (0, .message 1 2 3 [])
    ∧ ((hq1 (.preempt 2) 0x800).core 0).hqueue.find? (fun e => mayEnter ((hq1 (.trap 3) 0x800).core 0) e.2) = some (0, .preempt 2)
    ∧ inPhase ({} : Core) 0 = false ∧ lineHeld { tc [] with fline := some (0x1000, []) } = true ∧ (41 : BitVec 41).toNat ≠ 0 := by decide +kernel
/-- The page of the program counter: execution allowed, forbidden, or absent. -/
def if1 (ex : Bool) (cl : Cluster) (k : Core) : State :=
  { ts { tc [] with pc := 0x20010 } k with
    tenants := [(0, { leaves := [(2, { p := true, rd := true, ex := ex, frame := 2 })] })], clusters := [(0, cl)] }
theorem test_fetch_absent : ((after .ifetchLookup (if1 true {} {})).cluster 0).inflight = [(0x20000, [(0, 0)])] := by decide +kernel
theorem test_fetch_fault : ((after .ifetchLookup (if1 false {} {})).me.einfo, (after .ifetchLookup (if1 false {} {})).me.run) = (0x20010, .trapped) := by decide +kernel
theorem test_fill : ((after .icacheFill { if1 true { inflight := [(0x20000, [(0, 0)])] } {} with pick := { num := 0x20000 } }).cluster 0).icache = [0x20000] := by decide +kernel
theorem test_meets_InstructionFetch : (if1 true {} {}).me.run = .live ∧ lineHeld (if1 true {} {}).me = false ∧ (if1 true {} {}).me.resid = none
    ∧ (match fetchAt (if1 true {} { ibuf := [0x20000] }) 0 0x20010 with
      | .line bs => bs.length == 256
      | _ => false) = true
    ∧ (match fetchAt (if1 true {} {}) 0 0x20010 with
      | .absent _ key l => key == 2 && l.ex
      | _ => false) = true
    ∧ linkHolds (if1 true {} {}) 0x20000 = false ∧ unserved (if1 true {} {}) 0 (homeDie 0x20000) = false ∧ inPhase (if1 true {} {}).myCore 0 = false
    ∧ (fetchCrossing { if1 true { inflight := [(0x20000, [(0, 0)])] } {} with pick := { num := 0x20000 } } 0 0x20000).isSome = true
    ∧ (match fetchAt (if1 false {} {}) 0 0x20010 with
      | .bad _ => true
      | _ => false) = true
    ∧ (match fetchAt (ts { tc [] with pc := 0x20010 }) 0 0x20010 with
      | .wait _ => true
      | _ => false) = true := by decide +kernel

/-! ## Arrivals, homes, the kernel, errors, the host, and every instruction -/

/-- A message on its way to core 0, of context 0 of core 0 which waits for it. -/
def a1p (msg : Msg) : Pkt := { id := 4, src := 0, srcDie := 0, dst := 0, phase := .delivered, msg := msg }
def n1 (msg : Msg) (k : Core := {}) : State := { ts { tc [] with pend := .sent 4 } k with pick := { id := 4 }, net := [a1p msg] }
/-- A join counter of sector 0 in slot 2, generation 1. -/
def jc (count : Nat) (msg : Msg) : State :=
  { n1 msg with sectors := [(0, { counters := [(2, { used := true, count := count })] })], tenants := [(0, { stages := [(0, { declared := true, cap := 4 })] })] }
theorem test_message_starts : ((after .activeMessageArrival (n1 (.amsg 3 0x2000 7 8 false))).ctx 0 3).getS 2 = 8
    ∧ ((after .activeMessageArrival (n1 (.amsg 3 0x2000 7 8 false))).ctx 0 0).pend = .accepted := by decide +kernel
theorem test_message_orphan : ((after .activeMessageArrival (n1 (.amsg 11 0x2000 7 8 false))).core 0).orph = 1 := by decide +kernel
theorem test_signal_latches : ((after .signalArrival (n1 (.signal 0 5))).ctx 0 0).events = 5 ∧ ((after .signalArrival (n1 (.signal 3 5))).core 0).orph = 1 := by
  decide +kernel
theorem test_jdone_lowers : (sparseGet {} ((after .joinDecrement (jc 2 (.jdone (2 ^ 48 + 2)))).sector 0).counters 2).count = 1 := by decide +kernel
theorem test_jdone_frees : (sparseGet {} ((after .joinDecrement (jc 1 (.jdone (2 ^ 48 + 2)))).sector 0).counters 2) = { gen := 2 } := by decide +kernel
theorem test_meets_Arrivals : findPkt (n1 (.amsg 3 0x2000 7 8 false)) 4 = some (a1p (.amsg 3 0x2000 7 8 false)) ∧ ((n1 (.amsg 3 0x2000 7 8 false)).ctx 0 3).run = .idle
    ∧ (n1 (.amsg 3 0x2000 7 8 false)).handleLive 0 = true ∧ findPkt (n1 (.amsg 10 0x2000 7 8 true)) 4 = some (a1p (.amsg 10 0x2000 7 8 true))
    ∧ ((n1 (.amsg 0 0x2000 7 8 false)).ctx 0 0).run ≠ .idle ∧ (List.replicate 8 (0 : Nat)).length = 8 ∧ (n1 (.amsg 15 0 7 8 false)).myCore.evmask = true
    ∧ findPkt (n1 (.signal 0 5)) 4 = some (a1p (.signal 0 5)) ∧ (n1 (.signal 3 5)).handleLive 3 = false
    ∧ findPkt (jc 1 (.jdone (2 ^ 48 + 2))) 4 = some (a1p (.jdone (2 ^ 48 + 2))) ∧ counterHome (2 ^ 48 + 2) = 0 ∧ counterSlot (2 ^ 48 + 2) = 2
    ∧ (crossing (n1 (.amsg 3 0x2000 7 8 false)) 0 0 false).isSome = true ∧ (n1 (.amsg 3 0x2000 7 8 false)).tenantOf 0 = (a1p (.amsg 3 0x2000 7 8 false)).tenant
    ∧ (hearMessage (n1 (.amsg 3 0x2000 7 8 false)) 0 0).isSome = true ∧ sparseFind (n1 (.signal 3 5)).away 3 = none := by decide +kernel
/-- The cluster of the target belongs to tenant 5 by the time the message comes. -/
theorem test_message_of_another_tenant : (let s : State := { n1 (.amsg 3 0x2000 7 8 false) with clusters := [(0, { tenant := 5 })] }
    (s.tenantOf 0 == (a1p (.amsg 3 0x2000 7 8 false)).tenant, ((after .activeMessageArrival s).core 0).orph, ((after .activeMessageArrival s).ctx 0 3).run))
    = (false, 1, .idle) := by decide +kernel

/-- Core 0 alone is the domain of LEVEL 0, and has arrived at barrier 3. -/
def b1 (x : Bool) : State :=
  { ts { tc [] with pend := .arrived false } { arrival := true, barX := x } with
    pick := { num := 3 }, sectors := [(0, { barriers := [(3, { arrivals := [{ core := 0, who := 0, dom := 3 * 2 ^ 32, upTo := 0, rel := [] }] })] })] }
theorem test_episode_releases : ((after .barrierEpisodeComplete (b1 true)).core 0).ep = 1 ∧ ((after .barrierEpisodeComplete (b1 true)).core 0).exch = none
    ∧ ((after .barrierEpisodeComplete (b1 true)).core 0).exchNext = some (some 1) := by
  decide +kernel
theorem test_meets_BarrierEpisodes : findPkt (n1 (.arrival 0 (3 * 2 ^ 32) 0)) 4 = some (a1p (.arrival 0 (3 * 2 ^ 32) 0))
    ∧ ((n1 (.arrival 0 (3 * 2 ^ 32) 0)).barrier 0 3).arrivals = [] ∧ episodeDone (b1 false) ((b1 false).barrier 0 3) = true
    ∧ (((b1 false).barrier 0 3).arrivals.map (·.core)).Nodup ∧ releasesGo (b1 false) 0 ((b1 false).barrier 0 3) = true ∧ episodeDone (b1 false) {} = false := by decide +kernel

/-- Stage 1 of tenant 0 has a queued record, or a range of 16 chunks of 4 from 0; core 0 serves it. -/
def q0 : RecEntry := { r := { id := 5, pc := 0x3000, evval := 3, join := 9, stage := 1 } }
def w0 (x : Stage) (p : Pick := {}) : State :=
  { ts (tc []) { stage := some (0, 1) } with pick := { p with stage := 1 }, tenants := [(0, { stages := [(1, { x with declared := true, distPc := 0x5000, dies := 3 })] })] }
def rg0 : Range := { id := 1, first := 0, last := 62, chunk := 4, total := 16 }
theorem test_record_starts : ((after .recordDispatch (w0 { queue := [q0] })).ctx 0 1).pc = 0x3000 ∧ ((after .recordDispatch (w0 { queue := [q0] })).ctx 0 1).getS 1 = 3 := by
  decide +kernel
theorem test_record_returns_quota : (let s := w0 { queue := [{ q0 with quota := true }] }
    let t : State := { s with tenants := s.tenants.map (fun e => (e.1, { e.2 with counts := [(countKey 2 0, 3)] })) }
    (quotaCount t 0 2 0, quotaCount (after .recordDispatch t) 0 2 0)) = (3, 2) := by decide +kernel
theorem test_chunk_starts : ((after .recordDispatch (w0 { range := some { rg0 with nextDeal := 16, dealt := [(0, 15)] } })).ctx 0 1).getS 2 = 62 := by decide +kernel
theorem test_park_completes : (((after .parkEventComplete (w0 { parked := [{ q0 with ev := some (.batch 2) }] } { id := 5 })).stage 0 1).queue).map (·.r.evval) = [0] := by
  decide +kernel
theorem test_deal : ((after .distChunkDeal (w0 { range := some rg0 })).stage 0 1).range.map (·.dealt) = some ((List.range 8).map (fun q => (0, q))) := by decide +kernel
theorem test_chunk_recorded : ((after .distChunkComplete (w0 { range := some { rg0 with nextDeal := 8, started := [(2, 0)] } } { num := 2 })).stage 0 1).range.map (·.master) = some [2] := by
  decide +kernel
theorem test_meets_StageWork : idleHelper (w0 {}) 0 = some 1 ∧ (w0 {}).inService 0 = true ∧ workFor (w0 {}) 0 1 0 = none
    ∧ (match workFor (w0 { queue := [q0] }) 0 1 0 with
      | some (.record e) => e == q0
      | _ => false) = true
    ∧ (match workFor (w0 { range := some { rg0 with nextDeal := 16, dealt := [(0, 15)] } }) 0 1 0 with
      | some (.chunk q) => q == 15
      | _ => false) = true
    ∧ eventValue (w0 {}) { q0 with ev := some (.batch 2) } = some 0 ∧ eventValue (w0 {}) { q0 with ev := some (.ring 2 false) } = none
    ∧ (0 : Die) ∈ distributors (w0 {}) ((w0 {}).stage 0 1) ∧ 2 ≤ (distributors (w0 {}) ((w0 {}).stage 0 1)).length
    ∧ lineageAlive (w0 {}) { tenant := 0, stage := 1, range := 1, chunk := 2, run := 0 } = false
    ∧ (crossing (w0 {}) ((w0 {}).stage 0 1).home 0 true).isSome = true ∧ dispatchFor (w0 {}) 0 = none
    ∧ (dispatchFor (w0 { queue := [q0] }) 0).isSome = true := by decide +kernel
/-- Core 1 serves the same stage and has asked before core 0. -/
def rival : State :=
  { w0 { queue := [q0] } with cores := [(0, { ctxs := [(0, tc [])], stage := some (0, 1), asked := 9 }), (1, { stage := some (0, 1), asked := 4 })] }
theorem test_rival_first : after .recordDispatch rival = rival := by decide +kernel
theorem test_meets_rival : (1 : CoreId) ≠ rival.pick.core ∧ (1 : Nat) ∈ rival.cores.map (·.1) ∧ (rival.core 1).stage = some (0, 1) ∧ rival.inService (coreDie 1) = true
    ∧ (rival.core 1).hasIdle = true ∧ sameWork (workFor rival 0 1 1) (.record q0) = true ∧ (rival.core 1).asked < (rival.core 0).asked
    ∧ (∀ e ∈ rival.cores, e.1 < 65536 ∧ sparseGet {} rival.cores e.1 = e.2) := by decide +kernel

/-- A reply to the call 7 of context 0 of core 0 for ring 2. -/
def rp : Reply := { id := 5, owner := 0, ring := 2, seq := 7, svc := 0x802, status := 0, res := [11, 12] }
def y1 (a : Slot) : State :=
  { ts { tc [] with calls := [(7, false)] } { rings := [(2, ring2 a .free)] } with replies := [rp], pick := { id := 5 } }
theorem test_reply_words : ((after .replyPublish (y1 .free)).core 0).mem = [(0x1000, 7), (0x1004, 2), (0x1005, 8), (0x1008, 11), (0x1010, 12)] := by decide +kernel
/-- A packet of die 1 that has reached die 0 over a link. -/
def l1p (ph : Phase) : Pkt := { id := 5, src := 0x2000, srcDie := 1, dst := 0, phase := ph, stamp := List.replicate 8 0, msg := .signal 0 1 }
def l1 (ph : Phase) : State :=
  { ts (tc []) with net := [l1p ph], pick := { id := 5 }, dies := [(0, { early := if ph = .early then [5] else [] })] }
theorem test_packet_early : ((after .filidPacketArrival (l1 .link)).die 0).early = [5] := by decide +kernel
theorem test_packet_delivered : ((after .filidPacketDeliver (l1 .early)).die 0).deliv.getD 1 0 = 1 := by decide +kernel
theorem test_meets_RepliesAndPackets : (y1 .free).replies.find? (fun r => r.id == 5) = some rp ∧ (y1 .free).handleLive 0 = true ∧ (ring2 .free .free).defined = true
    ∧ 6 ≤ (ring2 .free .free).lg ∧ (ring2 .free .free).slots.getD 0 (.filled []) = .free ∧ (y1 .free).handleLive 0x100000 = false
    ∧ earlyRoom (l1 .link) ((l1 .link).die 0) (l1p .link) = true ∧ (l1p .link).gen = ((l1 .link).die 0).gen
    ∧ { l1p .link with gen := 1 }.gen ≠ ((l1 .link).die 0).gen ∧ oldest (deliverables (l1 .early) 0) = some (l1p .early)
    ∧ (crossing (y1 .free) rp.die 0 true).isSome = true ∧ hears (ring2 .free .free).heardFree 0 rankReply = true ∧ (ring2 .free .free).waitFree = []
    ∧ (∀ q ∈ (l1 .early).net, q.phase ≠ .held)
    ∧ (∀ q ∈ (l1 .link).net, ¬(q.phase = .link ∧ q.srcDie = 1 ∧ q.dst = 0 ∧ q.id < 5)) := by decide +kernel

-- posted writes and page faults
def je : JEntry := { state := 1, size := 3, addr := 0x20000, d0 := 0x44332211, phys := 0x20000, epc := 0x40 }
def p1 (frz : Bool) : State :=
  { ts (tc []) { journal := [(3, je)] } with
    pick := { id := 3 }, tenants := [(0, { leaves := [(2, { p := true, wr := true, frz := frz, frame := 2 })] })] }
theorem test_write_performed : (after .postedWritePerformed (p1 false)).mem = [(0x20000, 0x11), (0x20001, 0x22), (0x20002, 0x33), (0x20003, 0x44)] := by decide +kernel
theorem test_write_refused : ((after .postedWritePerformed (p1 true)).core 0).journal.map (fun e => (e.2.state, e.2.cause, e.2.reason)) = [(2, 0x60, 3)]
    ∧ ((after .postedWriteRefused (p1 true)).ctx 0 0).reports.map (fun r => (r.epc, r.einfo)) = [(0x40, 0x8000000000000003)] := by decide +kernel
theorem test_meets_PostedWriteOutcomes : entryReady (p1 false) 0 3 = true ∧ homeRefuses (p1 false) 0 je = none ∧ homeRefuses (p1 true) 0 je = some 3
    ∧ (p1 true).handleLive 0 = true ∧ (match performEntry (p1 false) 0 je with
      | .ok _ => true
      | _ => false) = true
    ∧ isHost je.phys = false ∧ tillsCounting (p1 false) 0 (addrRange 0x20000 4) = [] ∧ je.bytes.length = 4 := by decide +kernel
/-- Context 0 waits for the page 0x20 of tenant 0; row 2 of die 0 has it outstanding, and a message of it is under way. -/
def wt (ats : Option Nat) (kind : AccKind) : PageWait := { page := 0x20, kind := kind, addr := 0x20008, ats := ats }
def tm : TrapMsg := { id := 5, die := 0, row := 2, tenant := 0, kind := .read, page := 0x20, cores := [0] }
def g0 (leaves : Sparse Leaf) (out : List Outstanding) (kind : AccKind := .read) : State :=
  { ts { tc [] with pageWait := some (wt none kind) } with
    pick := { id := 5, other := 0, row := 2, num := 0x20 }, tenants := [(0, { leaves := leaves })]
    dies := [(0, { trapMsgs := [tm, { tm with id := 0, cores := [1] }], collectors := [(2, out)] })] }
def ou (kind : AccKind) : Outstanding := { tenant := 0, kind := kind, page := 0x20, cores := [0] }
theorem test_collect : (collector (after .trapMessageCollect (g0 [] [])) 0 2).length = 1 ∧ (collector (after .trapMessageCollect (g0 [] [ou .read])) 0 2).length = 1 := by
  decide +kernel
theorem test_merge : ((after .trapMessageMerge (g0 [] [])).die 0).trapMsgs.length = 1 := by decide +kernel
theorem test_answer_replays : ((after .faultAnswer (g0 [(2, { p := true, rd := true, frame := 2 })] [ou .read])).ctx 0 0).pageWait = none := by decide +kernel
theorem test_answer_fails : (let c := (after .faultAnswer (let s := g0 [] [ou .read]; { s with pick := { s.pick with answer := .notResolved } })).ctx 0 0
    (c.run, c.einfo, c.cause.extractLsb' 0 8)) = (.trapped, 0x20008, 0x10) := by decide +kernel
theorem test_prg_fails : ((after .prgResponse (let s := g0 [] [ou .host] .host
    { s with pick := { id := 9, num := 1 }, tagTable := [(9, { tenant := 0, pasid := 0, page := 0x20, waiting := [(0, 2, 0, 0x20)] })] })).ctx 0 0).cause.extractLsb' 0 8 = 0x12 := by
  decide +kernel
theorem test_prg_off : (after .prgResponse { g0 [] [ou .host] .host with pick := { id := 9, num := 15 }, tagTable := [(9, { tenant := 0, pasid := 0, page := 0x20, waiting := [] })] }).priOff.length = 65 := by
  decide +kernel
theorem test_meets_PageFaults : (((g0 [] []).die 0).trapMsgs.find? (fun m => m.id == 5)) = some tm ∧ (collector (g0 [] []) 0 2).any (sameFault tm) = false
    ∧ (collector (g0 [] [ou .read]) 0 2).any (sameFault tm) = true ∧ (List.replicate 32 (ou .write)).any (sameFault tm) = false ∧ tm.kind ≠ .host
    ∧ pageWaiters (g0 [] []) [0] 0x20 false = [(0, 0, wt none .read)] ∧ pageWaiters (g0 [] [] .host) [0] 0x20 true = [(0, 0, wt none .host)]
    ∧ leafOf ((g0 [] []).tenantSt 0) (0x20 * 4096) = none ∧ (g0 [] []).priOff = []
    ∧ (collector (g0 [] [ou .host] .host) 0 2).find? (fun o => o.tenant == 0 && o.kind == .host && o.page == 0x20) = some (ou .host) := by decide +kernel
/-- Context 0 waits for the translation of 0x20, which has been asked for. -/
def rq (stale : Bool) : AtsReq := { tenant := 0, pasid := 0, page := 0x20, noWrite := false, execute := false, stale := stale }
def wn (k : AccKind) : PageWait := { page := 0x20, kind := .host, addr := 0x20008, need := k, ats := some 0x20 }
def t0 (stale : Bool) (ats : AtsResult) (k : AccKind := .read) : State :=
  { ts { tc [] with pageWait := some (wn k) } with pick := { num := 0x20, ats := ats }, clusters := [(0, { atsReqs := [rq stale] })] }
/-- The translation of a host page. -/
def ht (page hpa : Nat) (wr : Bool) : HostTrans := { tenant := 0, page := page, hpa := hpa, rd := true, wr := wr }
theorem test_ats_installs : ((after .translationCompletion (t0 false (.mapped 0x9000 0 true false false))).cluster 0).hostTlb = [ht 0x20 0x9000 false]
    ∧ ((after .translationCompletion (t0 false (.mapped 0x9000 0 true false false))).core 0).hostTlb = [ht 0x20 0x9000 false] := by decide +kernel
theorem test_ats_no_write : (let c := (after .translationCompletion (t0 false (.mapped 0x9000 0 true false false) .write)).ctx 0 0
    (c.run, c.einfo, c.cause.extractLsb' 0 8)) = (.trapped, 0x20008, 0x12) := by decide +kernel
theorem test_ats_refused : ((after .translationCompletion (t0 false .refused)).ctx 0 0).einfo = 0x20008 := by decide +kernel
theorem test_ats_not_present : ((after .translationCompletion (t0 false .notPresent)).die 0).trapMsgs.map (fun m => (m.page, m.kind, m.cores)) = [(0x20, .host, [0])] := by
  decide +kernel
theorem test_ats_overtaken : ((after .translationCompletion (t0 true .refused)).cluster 0).atsReqs = [rq false] := by decide +kernel
/-- Translations of three pages in the cluster and the core; the host invalidates the first two. -/
def iv : State :=
  { ts (tc []) { hostTlb := [ht 0x21 2 true, ht 0x22 3 true] } with
    tenants := [(0, {})], pick := { id := 3, other := 0x20, words := [2] }, clusters := [(0, { hostTlb := [ht 0x20 1 true, ht 0x21 2 true, ht 0x22 3 true] })] }
theorem test_invalidate : ((after .invalidateRequest iv).cluster 0).hostTlb = [ht 0x22 3 true] ∧ ((after .invalidateRequest iv).core 0).hostTlb = [ht 0x22 3 true]
    ∧ (after .invalidateRequest iv).invDone = [3] := by decide +kernel
theorem test_meets_HostTranslations : atsWaiters (t0 false .refused) 0 0x20 = [(0, 0, wn .read)] ∧ atsWaiters (t0 false .refused .write) 0 0x20 = [(0, 0, wn .write)]
    ∧ ((t0 false .refused).cluster 0).atsReqs.find? (fun e => e.tenant == 0 && e.page == 0x20) = some (rq false)
    ∧ (t0 true .refused).invWait.any (fun e => e.1 == 0) = false ∧ iv.invWait = [] := by decide +kernel
/-- Die 0 at a cycle; the memory purse of tenant 0 has a held request of 50 bytes. -/
def d1 (cy : Nat) (p : Purse) (pk : Pick := {}) : State :=
  { ts { tc [] with passOver := true } with
    pick := pk, dies := [(0, { cycle := cy, rate := 12, supplyGood := true })], tenants := [(0, { mem := [(0, p)] })], svc := 1, time := 65536
    sectors := [(0, { modes := [(2, { rd := 64, wr := 2 }), (3, { rd := 63, wr := 0 }), (4, { rd := 64, wr := 3 })] })] }
/-- The admission of an item of a request counts for it. -/
theorem test_item_admitted : (let s : State := { ts { tc [] with pend := .admitted 0 0 } with tenants := [(0, { mem := [(0, { rate := 100, depth := 150, bal := 1, held := [(.ctx 0 0, 50)] })] })] }
    ((after .purseAdmit s).ctx 0 0).pend) = .admitted 1 0 := by decide +kernel
def pu (bal : Int) : Purse := { rate := 100, depth := 150, bal := bal, held := [(.ctx 0 0, 50)] }
theorem test_purse_window : ((after .purseWindow (d1 4096 (pu 80))).purse 0 false 0).bal = 150 ∧ ((after .purseWindow (d1 4095 (pu 80))).purse 0 false 0).bal = 80 := by decide +kernel
theorem test_purse_admits : ((after .purseAdmit (d1 0 (pu 1))).purse 0 false 0).bal = -49 ∧ ((after .purseAdmit (d1 0 (pu 0))).purse 0 false 0).held.length = 1 := by decide +kernel
theorem test_page_modes : ((after .pageModeWindow (d1 65536 (pu 1))).sector 0).modes.map (·.2.replicated) = [true] := by decide +kernel
theorem test_level_rises : (after .serviceLevelChange (d1 0 (pu 1) { num := 3 })).svc = 3 ∧ (after .serviceLevelChange (d1 0 (pu 1) { num := 1 })).svc = 1 := by decide +kernel
theorem test_sag : ((after .supplySag (d1 0 (pu 1) { power := .sag 9 })).die 0).rate = 9 ∧ ((after .supplySag (d1 0 (pu 1) { power := .sag 20 })).die 0).rate = 8 := by decide +kernel
theorem test_recovers : ((after .clockRecover (d1 0 (pu 1))).die 0).rate = 13 := by decide +kernel
theorem test_balance : ((after .stageBalance (d1 4096 (pu 1))).die 0).balWin = 1 := by decide +kernel
theorem test_meets_WindowsAndClocks : ((d1 4096 (pu 1)).die 0).purseWin < ((d1 4096 (pu 1)).die 0).cycle / 4096 ∧ ((d1 65536 (pu 1)).die 0).pageWin < ((d1 65536 (pu 1)).die 0).cycle / 65536
    ∧ ((d1 0 (pu 1)).sector 0).modes.Pairwise (fun a b => a.1 < b.1) ∧ (pu 1).rate ≠ 0 ∧ (0 : Int) < (pu 1).bal ∧ (pu 0).bal ≤ 0
    ∧ (d1 0 (pu 1)).svc.toNat < 3 ∧ ((d1 0 (pu 1)).die 0).hot = false ∧ ((d1 0 (pu 1)).die 0).rateAt + 65536 ≤ (d1 0 (pu 1)).time := by decide +kernel

/-! ## The service kernel, errors, the host, and every instruction -/

def call (svc : BitVec 12) (args : List Word) (t : Tenant := 0) : Call :=
  { id := 5, owner := 0, ring := 2, strong := false, tenant := t, svc := svc, seq := 7, prev := none, args := args }
def lf : Leaf := { p := true, rd := true, frame := 2 }
/-- A call at the instance of sector 0; tenant 0 has the page at 0x20000. -/
def sv (c : Call) (l : Leaf := lf) : State :=
  { ts (tc []) with pick := { id := 5 }, sectors := [(0, { calls := [c] })], tenants := [(0, { leaves := [(2, l)] }), (1, { limits := [(0, 1), (8, 1)] })] }
def status (i : Instr) (s : State) : List (BitVec 16 × List Word) := (after i s).replies.map (fun r => (r.status, r.res))
def leaf0 (i : Instr) (s : State) : Option Leaf := sparseFind ((after i s).tenantSt 0).leaves 2
theorem test_query : status .query (sv (call 0x015 [0x20000])) = [(0, [2 ^ 63 + 2 ^ 44 + 2])] := by decide +kernel
theorem test_query_unmapped : status .query (sv (call 0x015 [0x30000])) = [(7, [])] := by decide +kernel
theorem test_protect : leaf0 .protect (sv (call 0x010 [0x20000, 3])) = some { lf with rd := false, wr := true, ex := true } := by decide +kernel
theorem test_freeze : leaf0 .freeze (sv (call 0x011 [0x20000])) = some { lf with frz := true } ∧ status .freeze (sv (call 0x011 [0x20000]) { lf with wr := true }) = [(4, [])] := by
  decide +kernel
theorem test_unfreeze : leaf0 .unfreeze (sv (call 0x012 [0x20000]) { lf with frz := true }) = some lf ∧ status .unfreeze (sv (call 0x012 [0x20000]) { lf with frz := true }) = [(0, [0])] := by
  decide +kernel
theorem test_todev : leaf0 .todev { sv (call 0x013 [0x20000]) { lf with host := true } with pick := { id := 5, die := 4 }, sectors := [(4, { calls := [call 0x013 [0x20000]] })] } = some { lf with host := true, mig := true } := by decide +kernel
theorem test_tohost : leaf0 .tohost (sv (call 0x014 [0x20000, 0x1000])) = some { lf with mig := true } := by decide +kernel
theorem test_unmap : leaf0 .unmap (sv (call 0x016 [0x20000])) = some { lf with mig := true } ∧ status .unmap (sv (call 0x016 [0x20000])) = [] := by decide +kernel
theorem test_unknown_service : status .query (sv (call 0x017 [])) = [(2, [])] := by decide +kernel
theorem test_map : (sparseFind ((after .map (sv (call 0x801 [0, 0x40000, 0, 6]))).tenantSt 0).leaves 4).map (fun l => (l.p, l.rd, l.wr, l.ex)) = some (true, true, true, false) := by
  decide +kernel
theorem test_quota : status .quota (sv (call 0x802 [0, 6])) = [(0, [BitVec.ofNat 64 (((sv (call 0x802 [0, 6])).tenantSt 0).limit 0 6 0), 0])] := by decide +kernel
theorem test_assign_perm : status .assign (sv (call 0x803 [0, 1, 0] 1)) = [(1, [])] := by decide +kernel
theorem test_setquota : ((after .setquota (sv (call 0x804 [0, 0, 6, 9]))).tenantSt 0).limit 0 6 0 = 9 := by decide +kernel
theorem test_setpurse : ((after .setpurse (sv (call 0x805 [0, 1, 0, 7, 90]))).purse 1 false 0) = { rate := 7, depth := 90, bal := 90 } := by decide +kernel
theorem test_keyassign : (after .keyassign (sv (call 0x806 [0, 3, 1]))).keyHolder 3 = 1 := by decide +kernel
theorem test_arena : status .arena (sv (call 0x807 [0, 1, 1000])) ≠ [] := by decide +kernel
/-- A call of service n, which may be served, names the page at 0x20000, homed in the picked sector. -/
def serves (n : BitVec 12) (args : List Word) (l : Leaf) : Bool :=
  decide (Calls (sv (call n args) l) (call n args) n.toNat) && decide (CallPage (sv (call n args) l) (call n args) 2 l)
def hostLeaf : Leaf := { lf with host := true }
/-- The same at the sector of die.4, where pages of the host are homed. -/
def sv4 : State := { sv (call 0x013 [0x20000]) hostLeaf with pick := { id := 5, die := 4 }, sectors := [(4, { calls := [call 0x013 [0x20000]] })] }
theorem test_meets_PageServices : [serves 0x015 [0x20000] lf, serves 0x010 [0x20000, 7] lf, serves 0x010 [0x20000, 5] { lf with frz := true },
    serves 0x010 [0x20000] { lf with mig := true }, serves 0x011 [0x20000] lf, serves 0x011 [0x20000] { lf with wr := true },
    serves 0x012 [0x20000] { lf with frz := true }, serves 0x014 [0x20000, 2 ^ 54 - 4096] lf, serves 0x016 [0x20000] lf].all id = true := by decide +kernel
theorem test_meets_PageServices_pages : Calls sv4 (call 0x013 [0x20000]) 0x013 ∧ CallPage sv4 (call 0x013 [0x20000]) 2 hostLeaf
    ∧ tillArmedOn (sv (call 0x016 [])) 0 2 lf = false ∧ tillArmedOn sv4 0 2 hostLeaf = false ∧ lf.mig = false ∧ lf.wr = false ∧ lf.size = 0
    ∧ pageBusy (sv (call 0x011 [0x20000])) 0 2 lf = false
    ∧ (5 : Word).getLsbD 1 = false ∧ (2 ^ 54 - 4096 : Word).toNat % 4096 = 0 := by decide +kernel
theorem test_meets_PageServices_refused : knownService 0x016 = true ∧ knownService 0x017 = false ∧ Calls (sv (call 0x017 [])) (call 0x017 []) 0x017
    ∧ canonical (2 ^ 56) = false ∧ leafOf ((sv (call 0x016 [])).tenantSt 0) 0x30000 = none
    ∧ dieOf (sv (call 0x016 []) { lf with frame := 2 + 2 ^ 21 }) 0 0x20000 ≠ 0 ∧ Calls (sv (call 0x010 [2 ^ 56, 7])) (call 0x010 [2 ^ 56, 7]) 0x010
    ∧ (leafOf ((sv (call 0x016 []) { lf with p := false }).tenantSt 0) 0x20000).isSome = true := by decide +kernel
/-- An unmapping of the page in progress; another one of a page that a descriptor load still uses. -/
def fl (l : Leaf) (k : Core := {}) : State :=
  { sv (call 0x016 []) { l with mig := true } with
    sectors := [(0, { flips := [{ id := 5, call := call 0x016 [], tenant := 0, va := 0x20000, kind := 2 }] })], cores := [(0, { k with ctxs := [(0, tc [])] })] }
theorem test_flip_ends : leaf0 .pageFlipComplete (fl lf) = some { lf with p := false } ∧ status .pageFlipComplete (fl lf) = [(0, [])] := by decide +kernel
theorem test_meets_PageFlips : flipPage (fl lf) { id := 5, call := call 0x016 [], tenant := 0, va := 0x20000, kind := 2 } = some (2, { lf with mig := true })
    ∧ pageBusy (fl lf) 0 2 { lf with mig := true } = false
    ∧ pageBusy (fl lf { journal := [(0, { state := 1, addr := 0x20000, phys := 0x20000 })] }) 0 2 { lf with mig := true } = true := by decide +kernel
/-- A flip of the page: toward the host, whose frames are the sixteen that the pick names, and toward the device. -/
def fr16 : List Word := (List.range 16).map (fun i => BitVec.ofNat 64 (0x100000 + 4096 * i))
def flh : State :=
  { fl lf with
    sectors := [(0, { flips := [{ id := 5, call := call 0x014 [], tenant := 0, va := 0x20000, kind := 1, hostAddr := 0x30000 }] })]
    pick := { id := 5, words := fr16 }, mem := [(0x20003, 9)] }
def fld : State :=
  { fl { lf with host := true, frame := 0x30 } with
    sectors := [(0, { flips := [{ id := 5, call := call 0x013 [], tenant := 0, va := 0x20000, kind := 0 }] })]
    pick := { id := 5, words := fr16 }, hostMem := [(0x101003, 9)] }
theorem test_tohost_moves : (after .pageFlipComplete flh).hostMem = [(0x100003, 9)] ∧ (after .pageFlipComplete flh).mem = []
    ∧ leaf0 .pageFlipComplete flh = some { lf with host := true, key := 0, frame := 0x30 } ∧ status .pageFlipComplete flh = [(0, [])] := by decide +kernel
theorem test_todev_moves : (after .pageFlipComplete fld).mem = [((fld.sector 0).nextFrame * 65536 + 0x1003, 9)]
    ∧ (leaf0 .pageFlipComplete fld).map (fun l => (l.host, l.mig)) = some (false, false) := by decide +kernel
theorem test_meets_flips_that_move : (hostFrames flh 0 (0x30000 / 4096)).isSome = true ∧ flh.linkUp = true ∧ pageBusy flh 0 2 { lf with mig := true } = false
    ∧ (fr16.map (fun w => w.toNat / 4096 * 4096)).Nodup
    ∧ (takeFrames (fld.sector 0) 1).map (fun e => isHost (frameBase 0 e.1 + 65535)) = some false := by decide +kernel
theorem test_meets_flips_memory : flh.memOk ∧ fld.memOk := ⟨⟨by decide +kernel, rfl, rfl⟩, rfl, rfl, by decide +kernel⟩
def served (n : BitVec 12) (args : List Word) (t : Tenant := 0) : Prop := Calls (sv (call n args t)) (call n args t) n.toNat
theorem test_meets_ResourceServices : served 0x803 [0, 1, 0] 1 ∧ served 0x801 [7, 0x40000, 2, 2 ^ 15 - 1] ∧ served 0x802 [7, 8] ∧ served 0x804 [0, 64, 8, 9]
    ∧ served 0x807 [0, 1, 1000] ∧ served 0x805 [7, 64, 1, 65535, 2 ^ 20] ∧ served 0x803 [0, 1, 0] ∧ served 0x806 [0, 4095, 127]
    ∧ (sv (call 0x801 [])).keyHolder 0 = 0 ∧ (sv (call 0x801 [])).keyHolder 0 ≠ 1 ∧ mapped ((sv (call 0x801 [])).tenantSt 0) 4 1 = false
    ∧ (takeFrames ((sv (call 0x801 [])).sector 0) 1).isSome = true ∧ va57 0x40000 % pageBytes 0 = 0 ∧ countHome 0 6 0 = 0 ∧ countHome 1 7 0 = 1
    ∧ (1000 : Nat) ≤ largestLimit 7 ∧ quotaCount (sv (call 0x807 [])) 0 7 0 ≤ 1000 := by
  unfold served
  decide +kernel
theorem test_meets_ResourceServices_assign : ((sv (call 0x803 [])).cluster 0).tenant ≠ 1 ∧ quotaFits (sv (call 0x803 [])) 2 0 0 (1 + pendingAssigns (sv (call 0x803 [])) 2) = false
    ∧ quotaFits (sv (call 0x803 [])) 1 0 0 (1 + pendingAssigns (sv (call 0x803 [])) 1) = true ∧ (sv (call 0x803 [])).pick.flag = false ∧ (call 0x803 []).preempted = false
    ∧ (clusterCores 0).all (fun c => !toPreempt ((sv (call 0x803 [])).core c) && !preempting ((sv (call 0x803 [])).core c)) = true
    ∧ clusterEmpty ((clusterCores 0).foldl endContexts ((clusterCores 0).foldl keepContexts (sv (call 0x803 [])))) 0 = true ∧ (0 : CoreId) ∈ clusterCores 0
    ∧ toPreempt ({ evec := 0x800, ctxs := [(0, tc [])] } : Core) = true
    ∧ keyMapped (sv (call 0x806 [])) 3 = false ∧ keyMapped (sv (call 0x806 [])) 0 = true ∧ quotaFits (sv (call 0x806 [])) 1 8 0 1 = true := by decide +kernel
theorem test_assign_preempts : (let s := sv (call 0x803 [0, 1, 0]); (after .assign { s with cores := [(0, { evec := 0x800, ctxs := [(0, tc [])] })] }).core 0 |>.hqueue.map (·.2))
    = [.preempt 1] := by decide +kernel

-- storage errors, the link, fencing
def st (store : Storage) (row : Nat) (b : Banks) : State :=
  { ts (tc []) with time := 77, pick := { store := { store := store, row := row }, words := [3] }, banks := [(store, b)] }
theorem test_patrol_corrects : (after .patrolScrub (st (.localMem 0) 2 { bad := [(2, [3])] })).log.map (fun e => (e.cls, e.time)) = [(1, 77)] := by decide +kernel
theorem test_patrol_poisons : (after .patrolScrub (st (.localMem 0) 2 { bad := [(2, [3, 4])] })).log.map (·.cls) = [4] := by decide +kernel
theorem test_soft_error : sparseGet [] ((after .softError (st (.localMem 0) 2 {})).banksOf (.localMem 0)).bad 2 = [3] := by decide +kernel
theorem test_rebuild_ends : (after .bankRebuildRow (st (.localMem 0) 2 { rebuild := some (1, storageRows (.localMem 0) - 1) })).log.map (·.cls) = [3] := by decide +kernel
theorem test_meets_StorageErrors : rowExists { store := .localMem 0, row := 2 } = true ∧ rowExists { store := .stack 0, row := 2 } = true
    ∧ rowExists { store := .localMem 0, row := storageRows (.localMem 0) } = false ∧ (st (.localMem 0) 2 { bad := [(2, [3])] }).log.length + 2 ≤ 4096
    ∧ sparseGet [] ((st (.localMem 0) 2 { bad := [(2, [3])] }).banksOf (.localMem 0)).bad 2 = [3] := by decide +kernel
theorem test_link_down : (after .cxlLinkDown (ts (tc []))).msix.map (·.2) = [35, 34] ∧ (after .cxlLinkDown (ts (tc []))).linkUp = false := by decide +kernel
theorem test_link_up : (after .cxlLinkRetrain { ts (tc []) with linkUp := false, linkDownAt := some 3 }).log.map (·.cls) = [7] := by decide +kernel
theorem test_retention : (after .retentionTimeout { ts (tc []) with linkUp := false, linkDownAt := some 3, time := 2000000003 }).linkDownAt = none := by decide +kernel
theorem test_fence_zero : (after .dieFence (ts (tc []))).removed = true := by decide +kernel
theorem test_meets_LinkAndFences : (ts (tc [])).log.length < 4096 ∧ (ts (tc [])).linkUp = true ∧ ((ts (tc [])).die 4).fenced = false ∧ (ts (tc [])).removed = false
    ∧ 3 + 2000000000 ≤ 2000000003 ∧ (ts (tc [])).time < 3 + 2000000000 := by decide +kernel

-- the host
def launchRec : List Byte := natBytes 8 0x13 ++ natBytes 8 0x2000 ++ natBytes 8 7 ++ natBytes 8 8
def ho (p : Pick) : State := { ts (tc []) with pick := p, sectors := [(0, {})] }
theorem test_launch : ((after .launch (ho { bytes := launchRec, num := 0 })).ctx 1 3).pc = 0x2000 ∧ (after .launch (ho { bytes := launchRec })).lstat = [(0, 1)] := by decide +kernel
theorem test_launch_drops : (after .launch (ho { bytes := launchRec, num := 4 })).lstat = [(0, 2 ^ 32)] := by decide +kernel
theorem test_kcmd : (after .kcmd { ho { num := 1 } with kslot := 9 }).kcmd = 1 ∧ (after .kcmd { ho { num := 1 } with kslot := 9 }).keyLoad = some (9, 0) := by decide +kernel
theorem test_key_done : (after .keyLoadDone { ho {} with keyLoad := some (9, 5) }).keys = [(9, 5)] := by decide +kernel
theorem test_bar_write : (after .barRegisterWrite (ho { num := 0x1000, bytes := natBytes 8 0x123 })).kslot = 0x123 := by decide +kernel
theorem test_fence_register : after .fenceRegister (ho { num := 8 }) = ho { num := 8 } := by decide +kernel
theorem test_route_write : ((after .scaleRouteWrite (ho { num := 0x80000 + 5, bytes := [0x85] })).sector 0).routes = [(5, 0x85)] := by decide +kernel
theorem test_flr : (after .functionLevelReset { ho { tenant := 1 } with tenants := [(1, { stages := [(1, { declared := true })] })] }).stage 1 1 = {} := by decide +kernel
/-- The host writes a byte of the page of tenant 0. -/
def hw (l : Leaf) : State := { sv (call 0x016 []) l with pick := { num := 0x20003, bytes := [9] }, hdm := [(0, 2)] }
/-- Cluster 1 and its core 8 belong to tenant 1, whose context 0 is live. -/
def flr1 (k : Core) : State :=
  { ho { tenant := 1 } with
    clusters := [(1, { tenant := 1 })], cores := [(8, { k with ctxs := [(0, tc [])] })], tenants := [(1, { mem := [(0, { rate := 5 })] })] }
theorem test_flr_returns_clusters : (let v := after .functionLevelReset (flr1 { mem := [(0x100, 7)] })
    ((v.cluster 1).tenant, (v.ctx 8 0).run, (v.core 8).mem, (v.purse 1 false 0).rate, v.flrWait)) = (0, .idle, [], 0, []) := by decide +kernel
theorem test_meets_flr : tenantClusters (flr1 {}) 1 = [1]
    ∧ ([(1 : ClusterId)].all (clusterEmpty (([(1 : ClusterId)].flatMap clusterCores).foldl resetCore (flr1 {})))) = true
    ∧ ([(1 : ClusterId)].all (clusterEmpty (([(1 : ClusterId)].flatMap clusterCores).foldl resetCore (flr1 { journal := [(0, { state := 1 })] })))) = false := by decide +kernel
theorem test_msix_entry : (after .barRegisterWrite (ho { tenant := 64, other := 2, num := 16 * 30, bytes := List.replicate 16 0xFF })).msixEntry (msixPlace 64 30)
    = BitVec.ofNat 128 (2 ^ 97 - 1) := by decide +kernel
theorem test_hdm_maps : (after .barRegisterWrite { hw lf with pick := { other := 3, num := 0x20003, flag := true } }).hdm = [(0, 2)] := by decide +kernel
theorem test_meets_HostRegisters : (ho {}).svc ≠ 0 ∧ (ho {}).removed = false ∧ launchRec.length = 32 ∧ (wordAt launchRec 0).extractLsb' 20 44 = 0 ∧ wordAt launchRec 8 % 16 = 0
    ∧ coreExists 1 = true ∧ (ho {}).tenantOf 1 = 0 ∧ (ho {}).inService 0 = true ∧ ((ho {}).ctx 1 3).run = .idle ∧ ((ho {}).core 1).msgHeard.2 ≤ 65536 ∧ (ho {}).kcmd ≠ 1
    ∧ (∀ c ∈ (ho {}).clusters, c.2.tenant ≠ 1) ∧ (ho {}).pick.tenant.toNat ≤ 64 ∧ (ho {}).pick.tenant = 0 ∧ (ho { tenant := 1 }).pick.tenant ≠ 0
    ∧ (0x80000 : Nat) + 65536 * (7 : Die).toNat + 65535 = 0xFFFFF := by decide +kernel
theorem test_bar_reads : barRead (ho {}) 0 0x3000 8 = some (List.replicate 8 0) ∧ barRead (ho {}) 1 0x100 8 = none
    ∧ barByte { ho {} with svc := 0 } 0 0x20 = none ∧ barByte { ho {} with svc := 0 } 0 0x10000 = some 0 := by decide +kernel
theorem test_virtual_ignores : after .kcmd (ho { num := 1, tenant := 1 }) = ho { num := 1, tenant := 1 } := by decide +kernel
theorem test_host_write : (after .hostCxlWrite (hw lf)).mem = [(0x20003, 9)] ∧ (after .hostCxlWrite (hw { lf with frz := true })).hostErrors = 1 := by decide +kernel
def tl : State := { ho { scale := some (.tillAdd 1 2 5 6) } with sectors := [(0, { tills := [(5, { owned := true, armed := true, owner := 2, total := 9, count := 2 })] })] }
theorem test_scale_adds : ((after .scalePacketArrival tl).till 5).count = 8 := by decide +kernel
theorem test_versions : (after .getVersion (ho {})).spdmOut = [.version] := by decide +kernel
theorem test_function_other : after .getVersion (ho { tenant := 1 }) = ho { tenant := 1 } := by decide +kernel
/-- A packet of core 0 for module 5, which is reached on lane 3 of scale.6s+L, or is not. -/
def sco (route : BitVec 8) : State :=
  { ho { scale := some (.tillAdd 0 2 5 6), flag := true, num := 5 } with modnum := 9, sectors := [(0, { routes := [(5, route)] })] }
theorem test_scale_leaves : (after .scalePacketArrival (sco 0x83)).scaleOut = [(3, 5, .tillAdd 9 2 5 6)]
    ∧ ((after .scalePacketArrival (sco 0)).core 0).orph = 1 := by decide +kernel
theorem test_meets_HostTraffic : hdmPage (hw lf) 0 0x20003 1 = some (lf, 0x20003) ∧ tl.pick.flag = false ∧ (sco 0).pick.flag = true ∧ (hw lf).removed = false ∧ isHost 0x20003 = false ∧ tillsCounting (hw lf) 0 (addrRange 0x20003 1) = []
    ∧ hdmPage (hw lf) 0 0x2003F 1 = some (lf, 0x2003F) ∧ hdmPage (hw lf) 0 0x2003F 2 = none ∧ tl.inService 0 = true ∧ 2 + 6 < 9
    ∧ coreExists 1 = true ∧ tl.tenantOf 1 = 0 ∧ reachable tl 0 0 = true := by decide +kernel
/-- A load request of one image of one byte: no header. -/
def ld1 : LoadRequest := { tenant := 0, images := [{ bytes := [1], base := [], sector := [], deferred := [] }] }
theorem test_meets_ImageLoads : (ho { load := some ld1 }).pick.load = some ld1 ∧ (match relocateRequest ld1 with
    | .error _ => true
    | _ => false) = true ∧ (match relocateRequest { tenant := 0, images := [] } with
    | .ok us => basesOk (ho {}) { tenant := 0, images := [] } us
    | _ => false) = true := by decide +kernel
theorem test_load_refused : (after .imageLoad (ho { load := some ld1 })).loads ≠ [] := by decide +kernel
theorem test_reset_clears : after .reset (ho { num := 8 }) = State.reset := by decide +kernel

-- every instruction, the step, the encoding, the invariant
def g0f : Header := { g0 := 1 }
def step1 : State := { ts { tc [] with fline := some (0x1000, List.replicate 256 (0, false)) } with agenda := [.turn 0] }
theorem test_guard_fails : (after (.add g0f (sr 3) (rg 1) (rg 2)) (ts (tc [(1, 5)]))).me.s = [(1, 5)] := by decide +kernel
theorem test_meets_GuardsAndExchange : (encode (.add g0f (sr 3) (rg 1) (rg 2))).isSome = true ∧ (ts (tc [])).me.pend = .none
    ∧ exchangeFault (.add g0f (sr 3) (rg 1) (rg 2)) (ts (tc [])) = none ∧ sourcesReady (.add g0f (sr 3) (rg 1) (rg 2)) (ts (tc [])).me 0 = true
    ∧ guardsPass g0f (ts (tc [])).me = false ∧ sourcesReady (.add {} (sr 3) (rg 1) (rg 2)) { tc [] with ready := [(1, 9)] } 0 = false
    ∧ exchangeFault (.exit {}) (ts (tc []) { exch := some 0 }) = some 0 := by decide +kernel
theorem test_meets_RegisterFrame : scalarOnly (.add {} (sr 3) (rg 1) (rg 2)) = true ∧ exec (.add {} (sr 3) (rg 1) (rg 2)) (ts (tc [])) = .next (after (.add {} (sr 3) (rg 1) (rg 2)) (ts (tc []))) := ⟨rfl, rfl⟩
theorem test_meets_LocalAccessFrame : accessOf (.st {} (sr 3) (ad 1 0) .d) (ts (tc [(1, 0x100), (3, 9)])).me = some (0x100, 8, 8, true) ∧ isLocal 0x100 = true
    ∧ memByte (after (.st {} (sr 3) (ad 1 0) .d) (ts (tc [(1, 0x100), (3, 9)]))).myCore.mem 0x100 = 9
    ∧ memByte (after (.st {} (sr 3) (ad 1 0) .d) (ts (tc [(1, 0x100), (3, 9)]))).myCore.mem 0x108 = 0 := by decide +kernel
theorem test_meets_StepRunsInstruction : (pickCtx { step1 with agenda := [] } 0).map (·.1) = some 0 ∧ step1.me.reports = [] ∧ step1.me.resid = none
    ∧ watchdogDue step1.me = false ∧ cleanBytes (wordIn (List.replicate 256 (0, false)) 0x1000) = (List.replicate 16 0, none)
    ∧ decodeWord (decodeEnv step1) (wordOfBytes (List.replicate 16 0)) = .ok (.nop {}) ∧ decodeWord {} (2 ^ 31) = .error 31 := by decide +kernel
theorem test_step_runs : (match step step1 with
    | .next t => t.me.pc == 0x1010
    | _ => false) = true := by decide +kernel
theorem test_meets_DecodeEncode : (Instr.add {} (sr 3) (rg 1) (rg 2)).wellFormed = true
    ∧ encode (.add {} (sr 3) (rg 1) (rg 2)) = some (0x10 + 3 * 2 ^ 32 + 1 * 2 ^ 50 + 2 * 2 ^ 59) := by decide +kernel
theorem test_meets_MemoryStaysCanonical : State.reset.memOk ∧ (∃ t, step step1 = .next t) := ⟨⟨rfl, rfl, rfl⟩, _, rfl⟩

end Sys2Proof.Tests
end

/-! Every instruction of the opcode map runs through the shared issue, so that the exchange checks, the hold for sources and the
guards come before its own meaning (R56, R109, R218). -/

namespace Sys2Proof.Machine

/-- An outcome is what the shared issue of the instruction makes of some latency and some meaning of its own. -/
def ThroughIssue (i : Instr) (s : State) (o : Host.Outcome State Fault Refusal) : Prop :=
  ∃ lat body, o = issueLat i lat body s

/-- The issuing context is in no barrier: at one that has arrived it only waits, and one that is released retires without an
issue (R216). -/
def NotAtBarrier (s : State) : Prop := ∀ p, s.me.pend ≠ .arrived p ∧ s.me.pend ≠ .released p

section
variable {i : Instr} {lat : State → Nat} {body : State → Eff} {s : State}

theorem issueLat_throughIssue : ThroughIssue i s (issueLat i lat body s) := ⟨lat, body, rfl⟩

theorem issue_throughIssue : ThroughIssue i s (issue i body s) := issueLat_throughIssue

theorem barTurn_of_notAtBarrier (hpend : NotAtBarrier s) (h : Header) (go : State → Host.Outcome State Fault Refusal) :
    barTurn h go s = go s := by
  unfold barTurn
  split
  case h_1 p hp => exact absurd hp (hpend p).2
  case h_2 p hp => exact absurd hp (hpend p).1
  case h_3 => rfl

theorem barTurn_throughIssue (hpend : NotAtBarrier s) (h : Header) : ThroughIssue i s (barTurn h (issue i body) s) := by
  rw [barTurn_of_notAtBarrier hpend]
  exact issue_throughIssue

/-- The arms of the dispatch: a word of no row is no instruction and an event has no word; the barriers look first whether they
wait already; the accesses and the divisions issue with a latency of their operands, and every other arm with that of its row. -/
theorem exec_throughIssue (hword : (encode i).isSome = true) (hrow : ∀ w, i ≠ .unassignedOp w) (hpend : NotAtBarrier s) :
    ThroughIssue i s (exec i s) := by
  cases i
  case unassignedOp w => exact absurd rfl (hrow w)
  -- for an event `hword` says `false = true`
  all_goals cases hword
  all_goals delta exec
  case bar h | barX h => exact barTurn_throughIssue hpend h
  case ld | ldSx | st | ldv | stv | ldc | ldcSx | div | divu | rem | remu => exact issueLat_throughIssue
  all_goals exact issue_throughIssue

end

/-- Settles O53: the dispatch leads to the shared issue, whose first three ends are the three clauses. -/
theorem guardsAndExchange : Obligations.GuardsAndExchange := by
  unfold Obligations.GuardsAndExchange
  intro i s hword hrow hpend
  obtain ⟨lat, body, hexec⟩ := exec_throughIssue hword hrow hpend
  rw [hexec]
  exact ⟨issueLat_skip, issueLat_wait, fun _ => issueLat_exchange⟩

end Sys2Proof.Machine

/-! The scalar unit (R110 to R115): each operation of the model on words is the operation on numbers that its rule names. -/

namespace Sys2Proof.Machine

/-! ## Integer arithmetic and logic (R110, R111) -/


theorem add_eq_ofNat (a b : Word) : a + b = BitVec.ofNat 64 (a.toNat + b.toNat) := by simp [BitVec.ofNat_add]

theorem sub_eq_ofInt (a b : Word) : a - b = BitVec.ofInt 64 (a.toInt - b.toInt) :=
  BitVec.eq_of_toInt_eq (by simp [BitVec.toInt_sub])

theorem mul_eq_ofInt (a b : Word) : a * b = BitVec.ofInt 64 (a.toInt * b.toInt) := by simp [BitVec.ofInt_mul]

theorem and_eq_ofNat (a b : Word) : a &&& b = BitVec.ofNat 64 (a.toNat &&& b.toNat) := by simp [BitVec.ofNat_and]

theorem or_eq_ofNat (a b : Word) : a ||| b = BitVec.ofNat 64 (a.toNat ||| b.toNat) := by simp [BitVec.ofNat_or]

theorem xor_eq_ofNat (a b : Word) : a ^^^ b = BitVec.ofNat 64 (a.toNat ^^^ b.toNat) := by simp [BitVec.ofNat_xor]

theorem aluAndn_eq_ofNat (a b : Word) : aluAndn a b = BitVec.ofNat 64 (a.toNat &&& (2 ^ 64 - 1 - b.toNat)) := by
  rw [aluAndn, and_eq_ofNat, BitVec.toNat_not]

theorem shiftLeft_eq_ofNat (a : Word) (n : Nat) : a <<< n = BitVec.ofNat 64 (a.toNat * 2 ^ n) :=
  BitVec.eq_of_toNat_eq (by rw [BitVec.toNat_shiftLeft, Nat.shiftLeft_eq, BitVec.toNat_ofNat])

theorem ushiftRight_eq_ofNat (a : Word) (n : Nat) : a >>> n = BitVec.ofNat 64 (a.toNat / 2 ^ n) := by
  rw [← Nat.shiftRight_eq_div_pow, ← BitVec.toNat_ushiftRight, BitVec.ofNat_toNat, BitVec.setWidth_eq]

theorem aluSra_eq_ofInt (a b : Word) : aluSra a b = BitVec.ofInt 64 (a.toInt / 2 ^ (b.toNat % 64)) := by
  have hdiv : (a.toInt / 2 ^ (b.toNat % 64) : Int) = (aluSra a b).toInt := by
    rw [aluSra, BitVec.toInt_sshiftRight, Int.shiftRight_eq_div_pow]; norm_cast
  rw [hdiv, BitVec.ofInt_toInt]

/-- The bits that a rotation brings in at the bottom lie below those it moves up. -/
theorem aluRol_eq_ofNat (a b : Word) :
    aluRol a b = BitVec.ofNat 64 (a.toNat * 2 ^ (b.toNat % 64) + a.toNat / 2 ^ (64 - b.toNat % 64)) := by
  set n := b.toNat % 64 with hn
  have hlow : a.toNat / 2 ^ (64 - n) < 2 ^ n := by
    rw [Nat.div_lt_iff_lt_mul (by positivity), ← pow_add, Nat.add_sub_of_le (by omega)]
    exact a.isLt
  have hor : a.toNat * 2 ^ n + a.toNat / 2 ^ (64 - n) = a.toNat * 2 ^ n ||| a.toNat / 2 ^ (64 - n) := by
    rw [← Nat.shiftLeft_eq, Nat.shiftLeft_add_eq_or_of_lt hlow]
  rw [hor, BitVec.ofNat_or, ← shiftLeft_eq_ofNat, ← ushiftRight_eq_ofNat, aluRol, BitVec.rotateLeft_def, Nat.mod_mod]

theorem aluMin_eq (a b : Word) : aluMin a b = if a.toInt ≤ b.toInt then a else b := by
  simp only [aluMin, BitVec.slt_iff_toInt_lt]
  split_ifs <;> exact BitVec.eq_of_toInt_eq (by omega)

theorem aluMax_eq (a b : Word) : aluMax a b = if b.toInt ≤ a.toInt then a else b := by
  simp only [aluMax, BitVec.slt_iff_toInt_lt]
  split_ifs <;> exact BitVec.eq_of_toInt_eq (by omega)

theorem aluMinu_eq (a b : Word) : aluMinu a b = if a.toNat ≤ b.toNat then a else b := by
  simp only [aluMinu, BitVec.ult_iff_toNat_lt]
  split_ifs <;> exact BitVec.eq_of_toNat_eq (by omega)

theorem aluMaxu_eq (a b : Word) : aluMaxu a b = if b.toNat ≤ a.toNat then a else b := by
  simp only [aluMaxu, BitVec.ult_iff_toNat_lt]
  split_ifs <;> exact BitVec.eq_of_toNat_eq (by omega)

/-! ## Extensions and bit fields (R114, R115) -/

theorem bitSext_eq_ofInt (a w : Word) : bitSext a w = BitVec.ofInt 64 (Int.bmod a.toNat (2 ^ extWidth w)) := by
  rw [bitSext, BitVec.signExtend, BitVec.toInt_setWidth]

theorem bitZext_eq_ofNat (a w : Word) : bitZext a w = BitVec.ofNat 64 (a.toNat % 2 ^ extWidth w) := by
  rw [bitZext, ← BitVec.ofNat_toNat, BitVec.toNat_setWidth]

theorem bitBext_eq_ofNat (len : Nat) (a p : Word) :
    bitBext len a p = BitVec.ofNat 64 (a.toNat / 2 ^ (p.toNat % 64) % 2 ^ len) := by
  rw [bitBext, lowMask, ushiftRight_eq_ofNat, ← BitVec.ofNat_and, Nat.and_two_pow_sub_one_eq_mod]

/-! ## The instructions -/

section
variable {s : State}

theorem alu2_countIssue (f : Word → Word → Word) (d : SReg) (a b : SCon) (s : State) :
    alu2 f d a b (countIssue s) = .done (wrS (countIssue s) d (f (readSC s.me a) (readSC s.me b))) := by simp [alu2]

theorem alu2i_countIssue (f : Word → Word → Word) (d : SReg) (a : SCon) (x : Word) (s : State) :
    alu2i f d a x (countIssue s) = .done (wrS (countIssue s) d (f (readSC s.me a) x)) := by simp [alu2i]

/-- The operation on two words that an instruction of R110, R111, R114 or `bext` of R115 runs in the model. -/
def aluOp : Instr → Option (Word → Word → Word)
  | .add .. | .addImm .. => some (· + ·)
  | .sub .. | .subImm .. => some (· - ·)
  | .and .. | .andImm .. => some (· &&& ·)
  | .or .. | .orImm .. => some (· ||| ·)
  | .xor .. | .xorImm .. => some (· ^^^ ·)
  | .andn .. | .andnImm .. => some aluAndn
  | .shl .. | .shlImm .. => some aluShl
  | .shr .. | .shrImm .. => some aluShr
  | .sra .. | .sraImm .. => some aluSra
  | .rol .. | .rolImm .. => some aluRol
  | .min .. | .minImm .. => some aluMin
  | .max .. | .maxImm .. => some aluMax
  | .minu .. | .minuImm .. => some aluMinu
  | .maxu .. | .maxuImm .. => some aluMaxu
  | .mul .. => some (· * ·)
  | .mulh .. => some aluMulh
  | .mulhu .. => some aluMulhu
  | .sext .. => some bitSext
  | .zext .. => some bitZext
  | .bext _ _ _ _ len => some (bitBext len.toNat)
  | _ => none

/-- An instruction with operands of the integer unit writes its operation's result on them. -/
theorem exec_of_aluOp {i : Instr} {d : SReg} {a b : Word} {f : Word → Word → Word} (hop : aluOperands i s.me = some (d, a, b))
    (hf : aluOp i = some f) (h : Issues i s) : exec i s = .next (retired i s (wrS (countIssue s) d (f a b))) := by
  cases i
  all_goals cases hop <;> cases hf
  case add | sub | and | or | xor | andn | shl | shr | sra | rol | min | max | minu | maxu | mul | mulh | mulhu | sext | zext | bext =>
    exact issue_done h (alu2_countIssue ..)
  all_goals exact issue_done h (alu2i_countIssue ..)


end

/-- Every operation of the rules is one of the model, with the result that the rules give. -/
theorem aluOp_of_aluSpec {i : Instr} {a b r : Word} (h : aluSpec i a b = some r) : ∃ f, aluOp i = some f ∧ f a b = r := by
  cases i
  all_goals cases h
  case add | addImm => exact ⟨_, rfl, add_eq_ofNat a b⟩
  case sub | subImm => exact ⟨_, rfl, sub_eq_ofInt a b⟩
  case and | andImm => exact ⟨_, rfl, and_eq_ofNat a b⟩
  case or | orImm => exact ⟨_, rfl, or_eq_ofNat a b⟩
  case xor | xorImm => exact ⟨_, rfl, xor_eq_ofNat a b⟩
  case andn | andnImm => exact ⟨_, rfl, aluAndn_eq_ofNat a b⟩
  case shl | shlImm => exact ⟨_, rfl, shiftLeft_eq_ofNat a _⟩
  case shr | shrImm => exact ⟨_, rfl, ushiftRight_eq_ofNat a _⟩
  case sra | sraImm => exact ⟨_, rfl, aluSra_eq_ofInt a b⟩
  case rol | rolImm => exact ⟨_, rfl, aluRol_eq_ofNat a b⟩
  case min | minImm => exact ⟨_, rfl, aluMin_eq a b⟩
  case max | maxImm => exact ⟨_, rfl, aluMax_eq a b⟩
  case minu | minuImm => exact ⟨_, rfl, aluMinu_eq a b⟩
  case maxu | maxuImm => exact ⟨_, rfl, aluMaxu_eq a b⟩
  case mul => exact ⟨_, rfl, mul_eq_ofInt a b⟩
  case mulh | mulhu => exact ⟨_, rfl, rfl⟩
  case sext => exact ⟨_, rfl, bitSext_eq_ofInt a b⟩
  case zext => exact ⟨_, rfl, bitZext_eq_ofNat a b⟩
  case bext len => exact ⟨_, rfl, bitBext_eq_ofNat len.toNat a b⟩

/-- Settles O1: each instruction runs one operation on two words, and that operation is the one of its rule. -/
theorem scalarResults : Obligations.ScalarResults := by
  unfold Obligations.ScalarResults
  intro i s d a b r hop hspec hissues
  obtain ⟨f, hf, rfl⟩ := aluOp_of_aluSpec hspec
  exact exec_of_aluOp hop hf hissues

end Sys2Proof.Machine

/-! Bit counts and bit-field insertion (R113, R115). -/

namespace Sys2Proof.Machine


/-- The length that R109 and R113 count is the size of a number. -/
theorem bitLen_eq_size (m : Nat) : bitLen m = m.size := by
  refine eq_of_forall_ge_iff fun k => ?_
  rw [Nat.size_le, bitLen]
  split_ifs with h
  · simp [h]
  · rw [Nat.succ_le_iff, Nat.log2_lt h]

theorem size_toNat_le (x : Word) : x.toNat.size ≤ 64 := Nat.size_le.mpr x.isLt

/-- No bit of a word at or above the size of its value is set. -/
theorem getLsbD_of_size_le {x : Word} {j : Nat} (h : x.toNat.size ≤ j) : x.getLsbD j = false :=
  Nat.testBit_lt_two_pow (Nat.size_le.mp h)

/-- The bit below the size of a word that is not zero is set. -/
theorem getLsbD_size_sub_one {x : Word} (h : 0 < x.toNat.size) : x.getLsbD (x.toNat.size - 1) = true :=
  Nat.testBit_of_two_pow_le_and_two_pow_add_one_gt (Nat.lt_size.mp (by omega))
    (by rw [Nat.sub_add_cancel h]; exact Nat.lt_size_self _)

/-- The number of zero bits below the first bit that is set. -/
def trailingZeros (x : Word) : Nat := (List.range 64).findIdx x.getLsbD

theorem trailingZeros_le (x : Word) : trailingZeros x ≤ 64 := by
  simpa [trailingZeros] using List.findIdx_le_length (xs := List.range 64) (p := x.getLsbD)

theorem getLsbD_of_lt_trailingZeros {x : Word} {j : Nat} (h : j < trailingZeros x) : x.getLsbD j = false := by
  simpa using List.not_of_lt_findIdx h

theorem getLsbD_trailingZeros {x : Word} (h : trailingZeros x < 64) : x.getLsbD (trailingZeros x) = true := by
  have hset := List.findIdx_getElem (xs := List.range 64) (p := x.getLsbD) (w := List.length_range.symm ▸ h)
  rwa [List.getElem_range] at hset

theorem bitCtz_eq (x : Word) : bitCtz x = BitVec.ofNat 64 (trailingZeros x) := by
  have htake : (List.range 64).takeWhile (fun i => !x.getLsbD i) = (List.range 64).take (trailingZeros x) := by
    simp only [List.takeWhile_eq_take_findIdx_not, Bool.not_not, trailingZeros]
  rw [bitCtz, htake, List.length_take, List.length_range, Nat.min_eq_left (trailingZeros_le x)]

theorem bitPopc_eq (x : Word) :
    bitPopc x = BitVec.ofNat 64 (Finset.univ.filter (fun j : Fin 64 => x.getLsbD j = true)).card := by
  rw [bitPopc, ← List.map_coe_finRange_eq_range, List.filter_map, List.length_map]
  simp only [Finset.card, Finset.filter_val, Finset.val_univ_fin, Multiset.filter_coe, Multiset.coe_card, Function.comp_def,
    Bool.decide_eq_true]

theorem getLsbD_lowMask (len j : Nat) : (lowMask len).getLsbD j = (decide (j < 64) && decide (j < len)) := by
  rw [lowMask, BitVec.getLsbD_ofNat, Nat.testBit_two_pow_sub_one]

theorem getLsbD_bitBins (len : Nat) (a f p : Word) {j : Nat} (h : j < 64) :
    (bitBins len a f p).getLsbD j =
      if p.toNat % 64 ≤ j ∧ j < p.toNat % 64 + len then f.getLsbD (j - p.toNat % 64) else a.getLsbD j := by
  simp only [bitBins, BitVec.getLsbD_or, BitVec.getLsbD_and, BitVec.getLsbD_not, BitVec.getLsbD_shiftLeft, getLsbD_lowMask]
  generalize p.toNat % 64 = pos
  by_cases hlo : pos ≤ j
  · have hfield : j - pos < len ↔ j < pos + len := by omega
    by_cases hhi : j < pos + len <;> simp [h, hlo, hhi, hfield, Nat.not_lt.mpr hlo, (Nat.sub_le j pos).trans_lt h]
  · simp [h, hlo, Nat.not_le.mp hlo]


/-- Settles O2: `clz` counts from the size of the value, `ctz` to the first set bit, and `bins` is read bit by bit. -/
theorem bitOperations : Obligations.BitOperations := by
  unfold Obligations.BitOperations
  refine ⟨fun h d a s => ⟨fun hi => ?clz, fun hi => ?ctz, fun hi => ?popc⟩, fun h d a f p len s hi _ _ => ?bins⟩
  case clz =>
    set x := readSC s.me a
    have hexec : execClz h d a s = .next (retired (.clz h d a) s (wrS (countIssue s) d (BitVec.ofNat 64 (64 - x.toNat.size)))) :=
      issue_done hi (by simp [x, bitClz, bitLen_eq_size])
    have hle := size_toNat_le x
    refine ⟨64 - x.toNat.size, Nat.sub_le .., fun j hj => getLsbD_of_size_le (by omega), fun hn => ?_, hexec⟩
    have htop : 63 - (64 - x.toNat.size) = x.toNat.size - 1 := by omega
    rw [htop]
    exact getLsbD_size_sub_one (by omega)
  case ctz =>
    have hexec : execCtz h d a s = .next (retired (.ctz h d a) s
        (wrS (countIssue s) d (BitVec.ofNat 64 (trailingZeros (readSC s.me a))))) := issue_done hi (by simp [bitCtz_eq])
    exact ⟨_, trailingZeros_le _, fun j => getLsbD_of_lt_trailingZeros, getLsbD_trailingZeros, hexec⟩
  case popc =>
    show execPopc h d a s = _
    exact issue_done hi (by simp [bitPopc_eq])
  case bins =>
    have hexec : execBins h d a f p len s = .next (retired (.bins h d a f p len) s
        (wrS (countIssue s) d (bitBins len.toNat (readSC s.me a) (readSC s.me f) (readSC s.me p)))) := issue_done hi (by simp)
    exact ⟨_, hexec, fun j => getLsbD_bitBins _ _ _ _⟩

end Sys2Proof.Machine

/-! Division (R109, R112). -/

namespace Sys2Proof.Machine

/-- The quotient or the remainder of R112. -/
def divResult (signed quotient : Bool) (x y : Word) : Word :=
  if quotient then (divmod signed x y).1 else (divmod signed x y).2

theorem divResult_signed_quotient (x y : Word) : divResult true true x y = BitVec.ofInt 64 (x.toInt.tdiv y.toInt) := rfl

theorem divResult_signed_remainder (x y : Word) :
    divResult true false x y = BitVec.ofInt 64 (x.toInt - y.toInt * x.toInt.tdiv y.toInt) :=
  congrArg (BitVec.ofInt 64) (Int.tmod_def ..)

theorem divResult_unsigned_quotient (x y : Word) : divResult false true x y = BitVec.ofNat 64 (x.toNat / y.toNat) := BitVec.udiv_def

theorem divResult_unsigned_remainder (x y : Word) : divResult false false x y = BitVec.ofNat 64 (x.toNat % y.toNat) := BitVec.umod_def

theorem divLatency_signed {x y : Word} (h : y ≠ 0) :
    divLatency true x y = 6 + (Nat.size (x.toInt.tdiv y.toInt).natAbs + 1) / 2 := by
  simp only [divLatency, quotientMag, bitLen_eq_size, if_neg h, if_true]

theorem divLatency_unsigned {x y : Word} (h : y ≠ 0) : divLatency false x y = 6 + (Nat.size (x.toNat / y.toNat) + 1) / 2 := by
  simp only [divLatency, quotientMag, bitLen_eq_size, if_neg h, Bool.false_eq_true, if_false]

theorem divLatency_zero (signed : Bool) (x : Word) : divLatency signed x 0 = 6 := by
  rw [divLatency, quotientMag, if_pos rfl, bitLen, if_pos rfl]

/-- What a division of R112 does: it runs `divide` with the latency of its quotient. -/
def execDivision (i : Instr) (signed quotient : Bool) (d : SReg) (a b : SCon) (s : State) : Host.Outcome State Fault Refusal :=
  issueLat i (fun t => divLatency signed (readSC t.me a) (readSC t.me b)) (divide signed quotient d a b) s

section
variable {i : Instr} {signed quotient : Bool} {d : SReg} {a b : SCon} {s : State}

theorem execDivision_of_ne_zero (h : Issues i s) (hy : readSC s.me b ≠ 0) :
    execDivision i signed quotient d a b s = .next (retiredAfter i (divLatency signed (readSC s.me a) (readSC s.me b)) s
      (wrS (countIssue s) d (divResult signed quotient (readSC s.me a) (readSC s.me b)))) := by
  have hbody : divide signed quotient d a b (countIssue s)
      = .done (wrS (countIssue s) d (divResult signed quotient (readSC s.me a) (readSC s.me b))) := by
    simp only [divide, divResult, countIssue_readSC, if_neg hy]
  rw [execDivision, issueLat_done h hbody, countIssue_readSC, countIssue_readSC]

theorem execDivision_zero_trap (h : Issues i s) (hy : readSC s.me b = 0) (hdzt : s.me.dzt = true) :
    execDivision i signed quotient d a b s = .next (trapMe (countIssue s) .divzero 0) :=
  issueLat_trap h (by simp [divide, hy, hdzt])

theorem execDivision_zero_flag (h : Issues i s) (hy : readSC s.me b = 0) (hdzt : s.me.dzt = false) :
    execDivision i signed quotient d a b s = .next (retiredAfter i 6 s
      (mergeFlags (wrS (countIssue s) d (if quotient then BitVec.allOnes 64 else readSC s.me a)) 0x02)) := by
  have hbody : divide signed quotient d a b (countIssue s)
      = .done (mergeFlags (wrS (countIssue s) d (if quotient then BitVec.allOnes 64 else readSC s.me a)) 0x02) := by
    simp [divide, hy, hdzt, flagDZ]
  rw [execDivision, issueLat_done h hbody, countIssue_readSC, countIssue_readSC, hy, divLatency_zero]

end

/-- Settles O3: the four instructions are one division, signed or not, of which the quotient or the remainder is written. -/
theorem division : Obligations.Division := by
  unfold Obligations.Division
  intro h d a b s x y lat sq i q r w hi hissues
  obtain ⟨signed, hexec, hr, hlat⟩ : ∃ signed, exec i s = execDivision i signed q d a b s ∧ r = divResult signed q x y
      ∧ (y ≠ 0 → lat w = divLatency signed x y) := by
    obtain ⟨rfl, rfl, rfl, rfl⟩ | ⟨rfl, rfl, rfl, rfl⟩ | ⟨rfl, rfl, rfl, rfl⟩ | ⟨rfl, rfl, rfl, rfl⟩ := hi
    · exact ⟨true, rfl, (divResult_signed_quotient x y).symm, fun hy => (divLatency_signed hy).symm⟩
    · exact ⟨true, rfl, (divResult_signed_remainder x y).symm, fun hy => (divLatency_signed hy).symm⟩
    · exact ⟨false, rfl, (divResult_unsigned_quotient x y).symm, fun hy => (divLatency_unsigned hy).symm⟩
    · exact ⟨false, rfl, (divResult_unsigned_remainder x y).symm, fun hy => (divLatency_unsigned hy).symm⟩
  rw [hexec, hr]
  refine ⟨fun hy => ?_, execDivision_zero_trap hissues, execDivision_zero_flag hissues⟩
  rw [hlat hy]
  exact execDivision_of_ne_zero hissues hy

end Sys2Proof.Machine

/-! Comparisons and predicate logic (R116, R118). -/

namespace Sys2Proof.Machine

/-- The comparison of two words that an instruction of R116 runs in the model. -/
def cmpOp : Instr → Option (Word → Word → Bool)
  | .cmpEq .. | .cmpEqImm .. => some (· == ·)
  | .cmpNe .. | .cmpNeImm .. => some (· != ·)
  | .cmpLt .. | .cmpLtImm .. => some BitVec.slt
  | .cmpGe .. | .cmpGeImm .. => some fun a b => !a.slt b
  | .cmpLtu .. | .cmpLtuImm .. => some BitVec.ult
  | .cmpGeu .. | .cmpGeuImm .. => some fun a b => !a.ult b
  | _ => none

/-- A comparison writes its outcome and the complement. -/
theorem exec_of_cmpOp {i : Instr} {s : State} {kt kf : KReg} {a b : Word} {f : Word → Word → Bool}
    (hop : cmpOperands i s.me = some (kt, kf, a, b)) (hf : cmpOp i = some f) (h : Issues i s) :
    exec i s = .next (retired i s (wrOutcome (countIssue s) kt kf (f a b))) := by
  cases i
  all_goals cases hop <;> cases hf
  all_goals
    delta exec
    exact issue_done h (by simp only [countIssue_readSC])

/-- Every comparison of the rules is one of the model, with the outcome that the rules give. -/
theorem cmpOp_of_cmpSpec {i : Instr} {a b : Word} {r : Bool} (h : cmpSpec i a b = some r) : ∃ f, cmpOp i = some f ∧ f a b = r := by
  cases i
  all_goals cases h
  case cmpEq | cmpEqImm => exact ⟨_, rfl, beq_eq_decide a b⟩
  case cmpNe | cmpNeImm => exact ⟨_, rfl, by rw [bne, beq_eq_decide, decide_not]⟩
  case cmpLt | cmpLtImm => exact ⟨_, rfl, BitVec.slt_eq_decide⟩
  case cmpGe | cmpGeImm => exact ⟨_, rfl, by simp only [BitVec.slt_eq_decide, ← decide_not, not_lt]⟩
  case cmpLtu | cmpLtuImm => exact ⟨_, rfl, rfl⟩
  case cmpGeu | cmpGeuImm => exact ⟨_, rfl, by simp only [BitVec.ult_eq_decide, ← decide_not, not_lt]⟩

/-- Settles O4: a comparison runs the operation of its rule, and `plog` writes its function of two predicates. -/
theorem predicates : Obligations.Predicates := by
  unfold Obligations.Predicates
  refine ⟨fun i s kt kf a b r hop hspec hissues => ?cmp, fun h d a b s => ⟨fun hi => ?and, fun hi => ?or, fun hi => ?xor, fun hi => ?andn⟩⟩
  case cmp =>
    obtain ⟨f, hf, rfl⟩ := cmpOp_of_cmpSpec hspec
    exact exec_of_cmpOp hop hf hissues
  case and =>
    show execPlogAnd h d a b s = _
    exact issue_done hi (by simp)
  case or =>
    show execPlogOr h d a b s = _
    exact issue_done hi (by simp)
  case xor =>
    show execPlogXor h d a b s = _
    exact issue_done hi (by simp)
  case andn =>
    show execPlogAndn h d a b s = _
    exact issue_done hi (by simp)

end Sys2Proof.Machine

/-! Selection, moves and address arithmetic (R117, R119 to R121). -/

namespace Sys2Proof.Machine

/-- `m_address` (R71) over the values of numbers. -/
theorem mAddress_eq_ofInt (c : Ctx) (ea : Addr) :
    mAddress c ea = BitVec.ofInt 64
      ((c.getS ea.base.r).toNat + (c.getS ea.idx.r).toNat * 2 ^ ea.scl.toNat + ea.disp.toInt) := by
  have hidx : c.getS ea.idx.r <<< ea.scl.toNat = BitVec.ofNat 64 ((c.getS ea.idx.r).toNat * 2 ^ ea.scl.toNat) :=
    shiftLeft_eq_ofNat ..
  have hsum : c.getS ea.base.r + BitVec.ofNat 64 ((c.getS ea.idx.r).toNat * 2 ^ ea.scl.toNat)
      = BitVec.ofNat 64 ((c.getS ea.base.r).toNat + (c.getS ea.idx.r).toNat * 2 ^ ea.scl.toNat) := by
    rw [BitVec.ofNat_add, BitVec.ofNat_toNat, BitVec.setWidth_eq]
  rw [mAddress, hidx, hsum, BitVec.signExtend, ← BitVec.ofInt_natCast, ← BitVec.ofInt_add]
  norm_cast

/-- Settles O5: each form writes what it reads, and a v source of `mov` is checked first. -/
theorem selectsAndMoves : Obligations.SelectsAndMoves := by
  unfold Obligations.SelectsAndMoves
  intro h d k k' a b imm ea v x s
  refine ⟨fun hi => ?sel, fun hi => ?movi, fun hi => ?movS, fun hi => ?movK, fun hi hmod => ?movV, fun hi hmod => ?movBad,
    fun hi => ?lea⟩
  case sel =>
    show execSel h d k a b s = _
    exact issue_done hi (by simp)
  case movi =>
    show execMovi h d imm s = _
    exact issue_done hi rfl
  case movS =>
    show execMov h (.s d a) s = _
    exact issue_done hi (by simp [moveEff])
  case movK =>
    show execMov h (.k k k') s = _
    exact issue_done hi (by simp [moveEff])
  case movV =>
    show execMov h (.v v x) s = _
    exact issue_done hi (by simp [moveEff, withV1, hmod, readVM])
  case movBad =>
    show execMov h (.v v x) s = _
    exact issue_trap hi (by simp [moveEff, withV1, hmod, tagTrap, tagInfo, Tag.bits])
  case lea =>
    show execLea h d ea s = _
    exact issue_done hi (by simp [mAddress_eq_ofInt])

end Sys2Proof.Machine

/-! A `ret` in residual code waits for the drop of its pin at the handle's home before it looks at the link stack (R138, R262, R351), so
that it is held, and raises no LINK, while the packet of the drop cannot cross. -/

namespace Sys2Proof.Machine

/-- The packet that drops a pin, or its reply, cannot be delivered in the step, because of what is on its way before it (R351). -/
def PinWaits (s : State) (p : ResidPos) : Prop :=
  let home : Die := BitVec.ofNat 3 (p.handle.extractLsb' 0 12).toNat
  unserved s (coreDie s.curCore) home = false ∧ exchange s (coreDie s.curCore) home false = none

theorem withPinHome_of_pinWaits {s : State} {p : ResidPos} {k : State → Eff} (hres : s.me.resid = some p) (hwait : PinWaits s p) :
    withPinHome s k = .hold s := by
  obtain ⟨hserved, hexch⟩ := hwait
  simp only [withPinHome, hres, withExchange, hserved, hexch, Bool.false_eq_true, if_false, ite_self]

/-- Whatever its link stack holds, a `ret` whose pin cannot be dropped now is held. -/
theorem exec_ret_of_pinWaits {h : Header} {s : State} {p : ResidPos} (hissues : Issues (.ret h) s) (halign : s.me.getS 63 % 16 = 0)
    (hres : s.me.resid = some p) (hwait : PinWaits (countIssue s) p) :
    exec (.ret h) s = .next (holdMe ((countIssue s).setMe { (countIssue s).me with wdogCount := s.me.wdogCount })) := by
  have hbody : retEff (countIssue s) = .hold (countIssue s) := by
    simp only [retEff, countIssue_getS, halign, ne_eq, not_true_eq_false, if_false,
      withPinHome_of_pinWaits ((countIssue_resid s).trans hres) hwait]
  show issue (.ret h) retEff s = _
  exact issueLat_hold hissues hbody

/-- The place of `residualReturn` in residual code: its handle stands at die 1. -/
def residualPlace : ResidPos := { handle := 1, point := 0, index := 0 }

/-- Context 0 of core 0 stands in residual code, and s63 is not the newest entry of its link stack. -/
def residualReturn : State :=
  let c : Ctx := { run := .live, pc := 0x1000, s := [(63, 0x3000)], link := [0x2000], resid := some residualPlace }
  { svc := 3, cores := [(0, { ctxs := [(0, c)] })] }

/-- The same once it has sent a signal to core 0 of die 1, which is still on its way. -/
def residualReturnBehindSignal : State := sendFrom residualReturn 0 residualReturn.myHandle 1 (.signal 0x20000 1) [] true

theorem residualReturnBehindSignal_pinWaits : PinWaits (countIssue residualReturnBehindSignal) residualPlace := by
  unfold PinWaits
  decide +kernel

/-- Refutes O13: its clauses for LINK do not ask that the context is in no residual code. The `ret` of `residualReturnBehindSignal`
is held behind the signal and stays live, where the clause for an entry that differs says that it is trapped. -/
theorem not_controlTransfers : ¬ Obligations.ControlTransfers := by
  unfold Obligations.ControlTransfers
  intro hclaim
  let s := residualReturnBehindSignal
  have hissues : Issues (.ret {}) s := by decide +kernel
  have hheld := exec_ret_of_pinWaits hissues (by decide +kernel) (by decide +kernel) residualReturnBehindSignal_pinWaits
  obtain ⟨-, -, -, -, -, hret⟩ := hclaim.1 {} 0 false 0 { r := 0 } s
  obtain ⟨-, haligned⟩ := hret hissues
  obtain ⟨hdiffers, -⟩ := haligned (by decide +kernel)
  have htrapped := hdiffers 0x2000 [] (by decide +kernel) (by decide +kernel)
  have hsame := Host.Outcome.next.inj (hheld.symm.trans htrapped)
  have hlive : (holdMe ((countIssue s).setMe { (countIssue s).me with wdogCount := s.me.wdogCount })).me.run = .live := by
    decide +kernel
  have htrap : (trapMe (countIssue s) .link 2).me.run = .trapped := by decide +kernel
  rw [hsame, htrap] at hlive
  cases hlive

end Sys2Proof.Machine

/-! Batches and `send` (R306 to R308, R310, R371). -/

namespace Sys2Proof.Machine

/-! ## What counting an issue leaves alone of batches and the copy engine -/

section
variable (s : State)

@[simp] theorem countIssue_ops : (countIssue s).myCore.ops = s.myCore.ops := countIssue_coreField (·.ops) (fun _ _ _ => rfl) s

@[simp] theorem countIssue_copyWait : (countIssue s).myCore.copyWait = s.myCore.copyWait :=
  countIssue_coreField (·.copyWait) (fun _ _ _ => rfl) s

@[simp] theorem countIssue_batch : (countIssue s).me.batch = s.me.batch := countIssue_ctxField (·.batch) (fun _ _ => rfl) s

@[simp] theorem countIssue_sealed : (countIssue s).me.sealed = s.me.sealed := countIssue_ctxField (·.sealed) (fun _ _ => rfl) s

@[simp] theorem countIssue_rc : (countIssue s).me.rc = s.me.rc := countIssue_ctxField (·.rc) (fun _ _ => rfl) s

@[simp] theorem countIssue_tenantOf (c : CoreId) : (countIssue s).tenantOf c = s.tenantOf c :=
  countIssue_field (·.tenantOf c) (fun _ _ => rfl) s

@[simp] theorem countIssue_myTenant : (countIssue s).myTenant = s.myTenant := countIssue_field (·.myTenant) (fun _ _ => rfl) s

@[simp] theorem countIssue_readLocal (a n : Nat) : (countIssue s).myCore.readLocal a n = s.myCore.readLocal a n := by
  simp [Core.readLocal]

@[simp] theorem countIssue_copyRoom : CopyRoom (countIssue s) ↔ CopyRoom s := by simp [CopyRoom]

end

theorem myHandle_congr {s t : State} (hcore : t.curCore = s.curCore) (hctx : t.curCtx = s.curCtx) (hinc : t.me.inc = s.me.inc) :
    t.myHandle = s.myHandle := by
  show mkHandle t.curCore t.curCtx t.me.inc = mkHandle s.curCore s.curCtx s.me.inc
  rw [hcore, hctx, hinc]

theorem myTenant_congr {s t : State} (hcore : t.curCore = s.curCore) (hclusters : t.clusters = s.clusters) :
    t.myTenant = s.myTenant := by
  simp only [State.myTenant, State.tenantOf, State.cluster, hcore, hclusters]

/-! ## What leaving the copy engine's queue leaves alone -/

section
variable (s : State)

@[simp] theorem leftCopyWait_me : (leftCopyWait s).me = s.me := by simp only [leftCopyWait, State.me_setMyCore]; rfl

@[simp] theorem leftCopyWait_myHandle : (leftCopyWait s).myHandle = s.myHandle :=
  myHandle_congr rfl rfl (congrArg Ctx.inc (leftCopyWait_me s))

@[simp] theorem leftCopyWait_ops : (leftCopyWait s).myCore.ops = s.myCore.ops := by simp [leftCopyWait]

@[simp] theorem leftCopyWait_scratch : (leftCopyWait s).myCore.scratch = s.myCore.scratch := by simp [leftCopyWait, Core.scratch]

@[simp] theorem leftCopyWait_readLocal (a n : Nat) : (leftCopyWait s).myCore.readLocal a n = s.myCore.readLocal a n := by
  simp [leftCopyWait, Core.readLocal]

end

/-! ## An admission changes the purses, and the progress of the issuing context (R371) -/

section
variable {s t : State}

theorem askPurse_eq {tn : Tenant} {fab : Bool} {d : Die} {w : Ticket} {c : Nat} (h : askPurse s tn fab d w c = .ok t) :
    ∃ ts, t = { s with tenants := ts } := by
  unfold askPurse at h
  dsimp only [] at h
  split_ifs at h
  all_goals cases h
  all_goals exact ⟨_, rfl⟩

theorem askItems_eq {tn : Tenant} {fab : Bool} {d : Die} {w : Ticket} {cs : List Nat} {n : Nat}
    (h : askItems tn fab d w n cs s = .ok t) : ∃ ts, t = { s with tenants := ts } := by
  induction cs generalizing s n with
  | nil =>
    cases h
    exact ⟨_, rfl⟩
  | cons c cs ih =>
    simp only [askItems] at h
    split at h
    case h_1 => cases h
    case h_2 u hu =>
      obtain ⟨_, rfl⟩ := askPurse_eq hu
      exact (ih h :)

theorem askBoth_eq {tn : Tenant} {d : Die} {w : Ticket} {m f : Nat} {cs fs : List Nat} (h : askBoth tn d w m f cs fs s = .ok t) :
    ∃ ts, t = { s with tenants := ts } := by
  unfold askBoth at h
  split at h
  case h_1 => cases h
  case h_2 u hu =>
    split at h
    case h_1 => cases h
    case h_2 v hv =>
      obtain ⟨_, rfl⟩ := askItems_eq hu
      cases h
      exact (askItems_eq hv :)

/-- An admission changes the tenants' tables, and no more unless the issuing context noted how far its request had come, which it
then forgets. -/
theorem admitItems_cases {P : State → Prop} {ms fs : List Nat} (h : admitItems s ms fs = .ok t)
    (keep : ∀ ts, P { s with tenants := ts })
    (clear : ∀ ts, P (({ s with tenants := ts } : State).setMe { s.me with pend := .none })) : P t := by
  unfold admitItems at h
  dsimp only [] at h
  split at h
  case h_1 => cases h
  case h_2 u hu =>
    obtain ⟨ts, rfl⟩ := askBoth_eq hu
    cases h
    split
    · exact clear ts
    · exact keep ts

variable {bs : List Nat} {d : Die}

theorem admitAll_field {α : Type} (f : State → α) (htenants : ∀ (s : State) ts, f { s with tenants := ts } = f s)
    (hme : ∀ (s : State) x, f (s.setMe x) = f s) (h : admitAll s bs d = .ok t) : f t = f s := by
  obtain ⟨u, us, hu, rfl⟩ := admitAll_ok h
  rw [htenants]
  exact admitItems_cases (P := fun u => f u = f s) hu (fun ts => htenants s ts) (fun ts => (hme _ _).trans (htenants s ts))

theorem admitAll_coreField {α : Type} (f : Core → α) (hctx : ∀ (k : Core) n x, f (k.setCtx n x) = f k)
    (h : admitAll s bs d = .ok t) : f t.myCore = f s.myCore :=
  admitAll_field (fun s => f s.myCore) (fun _ _ => rfl) (fun s x => by rw [State.myCore_setMe, hctx]) h

theorem admitAll_ctxField {α : Type} (f : Ctx → α) (hpend : ∀ (c : Ctx) p, f { c with pend := p } = f c)
    (h : admitAll s bs d = .ok t) : f t.me = f s.me := by
  obtain ⟨u, us, hu, rfl⟩ := admitAll_ok h
  have hitems : f u.me = f s.me :=
    admitItems_cases (P := fun u => f u.me = f s.me) hu (fun _ => rfl) (fun ts => by rw [State.me_setMe, hpend])
  exact hitems

theorem admitAll_myHandle (h : admitAll s bs d = .ok t) : t.myHandle = s.myHandle := by
  obtain ⟨hcore, hctx⟩ := admit_cur h
  exact myHandle_congr hcore hctx (admitAll_ctxField (·.inc) (fun _ _ => rfl) h)

theorem admitAll_readLocal (h : admitAll s bs d = .ok t) (a n : Nat) : t.myCore.readLocal a n = s.myCore.readLocal a n :=
  admitAll_coreField (·.readLocal a n) (fun _ _ _ => rfl) h

end

/-! ## A packet that leaves (R205, R351) -/

/-- A new packet stands last in the network, as it is or stamped; besides it the state of its die changes. -/
theorem sendPkt_eq (s : State) (p : Pkt) (sync : Bool) : ∃ ds q,
    sendPkt s p sync = { s with dies := ds, net := s.net ++ [q], nextId := s.nextId + 1 } ∧ q.msg = p.msg := by
  unfold sendPkt
  dsimp only []
  split
  · exact ⟨_, _, rfl, rfl⟩
  · split
    · exact ⟨_, _, rfl, rfl⟩
    · exact ⟨_, _, rfl, rfl⟩

theorem sendFrom_eq {s : State} {core : CoreId} {owner : BitVec 28} {dst : Die} {msg : Msg} {rel : List AcqEntry} {sync : Bool}
    {op : Option Nat} (h : reachable s (coreDie core) dst = true) : ∃ ds q,
    sendFrom s core owner dst msg rel sync op = { s with dies := ds, net := s.net ++ [q], nextId := s.nextId + 1 } ∧ q.msg = msg := by
  simp only [sendFrom, h, if_true]
  exact sendPkt_eq ..

/-! ## An operation joins the open batch (R306) -/

section
variable (s : State) (op : BatchOp) (pages : List Nat) (frames : Sparse Nat) (rel : List AcqEntry)

/-- The operation stands last among those of the core, with the number of the new one. -/
theorem newOp_ops : ∃ o, (newOp s op pages frames rel).1.myCore.ops = s.myCore.ops ++ [o] ∧ o.id = (newOp s op pages frames rel).2
    ∧ o.op = op ∧ o.owner = s.myHandle ∧ o.batch = s.me.batch ∧ o.tenant = s.myTenant :=
  ⟨_, congrArg Core.ops (State.myCore_setMyCore s _), rfl, rfl, rfl, rfl, rfl⟩

theorem newOp_joins : Joins s (newOp s op pages frames rel).1 op := by
  obtain ⟨o, hops, -, hjoined⟩ := newOp_ops s op pages frames rel
  exact ⟨o, hops, hjoined⟩

theorem newOp_find : ∃ o,
    (newOp s op pages frames rel).1.myCore.ops.find? (fun o => o.id == (newOp s op pages frames rel).2) = some o := by
  obtain ⟨o, hops, hid, -⟩ := newOp_ops s op pages frames rel
  refine Option.isSome_iff_exists.mp (List.find?_isSome.mpr ⟨o, ?_, beq_iff_eq.mpr hid⟩)
  rw [hops]
  exact List.mem_append_right _ (List.mem_singleton_self o)

theorem newOp_me : (newOp s op pages frames rel).1.me = s.me := State.me_setMyCore s _

end

/-! ## The delivery of a `send` (R306, R310) -/

theorem joins_congr {s s' t : State} {op : BatchOp} (hops : s'.myCore.ops = s.myCore.ops) (hhandle : s'.myHandle = s.myHandle)
    (hbatch : s'.me.batch = s.me.batch) (htenant : s'.myTenant = s.myTenant) (h : Joins s' t op) : Joins s t op := by
  simpa only [Joins, hops, hhandle, hbatch, htenant] using h

/-- The state after a `send` has released and its delivery has joined the open batch, before its packet leaves. -/
def deliveryJoined (u : State) : State := (newOp (releaseMine u).2 .delivery []).1

section
variable (u : State)

theorem releaseMine_eq : (releaseMine u).2 = u.setMe { u.me with rc := u.me.rc + 1 } := rfl

theorem deliveryJoined_rc : (deliveryJoined u).me.rc = u.me.rc + 1 := by
  rw [deliveryJoined, newOp_me, releaseMine_eq, State.me_setMe]

@[simp] theorem deliveryJoined_net : (deliveryJoined u).net = u.net := rfl

theorem deliveryJoined_reachable (a b : Die) : reachable (deliveryJoined u) a b = reachable u a b := rfl

theorem deliveryJoined_joins : Joins u (deliveryJoined u) .delivery := by
  have hhandle : (releaseMine u).2.myHandle = u.myHandle := myHandle_congr rfl rfl (by rw [releaseMine_eq, State.me_setMe])
  refine joins_congr ?_ hhandle ?_ rfl (newOp_joins (releaseMine u).2 .delivery [] [] [])
  · rw [releaseMine_eq, State.myCore_setMe]
    rfl
  · rw [releaseMine_eq, State.me_setMe]

end

section
variable {s u : State} {bs : List Nat} {d : Die} {tc : CoreId}

/-- A delivery that leaves after an admission has joined the open batch, and is the last packet of the network. -/
theorem sendDelivery_leaves (hadmit : admitAll (leftCopyWait s) bs d = .ok u)
    (hreach : reachable u (coreDie s.curCore) (coreDie tc) = true) (o : CopyOp) (ring : BitVec 4) (data : List PByte)
    (rel : List AcqEntry) :
    ∃ t q, sendDeliveryFrom (deliveryJoined u) u.curCore o tc ring data rel = t ∧ Joins s t .delivery ∧ t.net = u.net ++ [q]
      ∧ q.msg = .delivery tc ring data ∧ t.me.rc = s.me.rc + 1 := by
  have hcore : u.curCore = s.curCore := (admit_cur hadmit).1
  have hreach : reachable (deliveryJoined u) (coreDie u.curCore) (coreDie tc) = true := by
    rwa [hcore, deliveryJoined_reachable]
  obtain ⟨ds, q, hsent, hmsg⟩ := sendFrom_eq (owner := o.owner) (msg := .delivery tc ring data) (rel := rel) (sync := false)
    (op := some o.id) hreach
  refine ⟨_, q, (if_pos hreach).trans hsent, ?joins, by rw [deliveryJoined_net], hmsg, ?rc⟩
  case joins =>
    refine joins_congr ?_ ((admitAll_myHandle hadmit).trans (leftCopyWait_myHandle s)) ?_ ?_ (deliveryJoined_joins u)
    · exact (admitAll_coreField (·.ops) (fun _ _ _ => rfl) hadmit).trans (leftCopyWait_ops s)
    · rw [admitAll_ctxField (·.batch) (fun _ _ => rfl) hadmit, leftCopyWait_me]
    · have hclusters : u.clusters = (leftCopyWait s).clusters :=
        admitAll_field (·.clusters) (fun _ _ => rfl) (fun _ _ => rfl) hadmit
      exact myTenant_congr hcore hclusters
  case rc =>
    calc (deliveryJoined u).me.rc = u.me.rc + 1 := deliveryJoined_rc u
      _ = s.me.rc + 1 := by rw [admitAll_ctxField (·.rc) (fun _ _ => rfl) hadmit, leftCopyWait_me]

end

/-! ## The checks of `send` (R310) -/

section
variable {s : State}

theorem withCopyRoom_ok {k : State → Eff} (h : CopyRoom s) : withCopyRoom s k = k (leftCopyWait s) := by
  obtain ⟨hwait, hroom⟩ := h
  unfold withCopyRoom leftCopyWait
  cases hlist : s.myCore.copyWait with
  | nil => simp [hlist, hroom]
  | cons n ns =>
    obtain rfl : n = s.curCtx := by simpa [hlist] using hwait
    simp [hlist, hroom]

theorem extractLsb'_high_eq_zero_iff (v : Word) : v.extractLsb' 16 48 = 0 ↔ v.toNat < 2 ^ 16 := by
  rw [← BitVec.toNat_inj, BitVec.extractLsb'_toNat, Nat.shiftRight_eq_div_pow]
  show v.toNat / 2 ^ 16 % 2 ^ 48 = 0 ↔ _
  have hlt : v.toNat < 2 ^ 64 := v.isLt
  omega

/-- S2 of a `send` names a core that exists. -/
abbrev NamesCore (v : Word) : Prop := v.toNat < 2 ^ 16 ∧ coreExists (v.setWidth 16) = true

theorem withTarget_ok {v : Word} {k : CoreId → Eff} (h : NamesCore v) : withTarget v k = k (v.setWidth 16) := by
  obtain ⟨hword, hcore⟩ := h
  simp [withTarget, (extractLsb'_high_eq_zero_iff v).mpr hword, hcore]

theorem withTarget_bad {v : Word} {k : CoreId → Eff} (h : ¬NamesCore v) : withTarget v k = .trap .illegal 50 := by
  refine if_pos ?_
  rwa [NamesCore, ← extractLsb'_high_eq_zero_iff, Classical.not_and_iff_not_or_not, Bool.not_eq_true, ← Bool.not_eq_true'] at h

theorem withTenantOf_ok {c : CoreId} {k : Eff} (h : s.tenantOf c = s.myTenant) : withTenantOf c s k = k := if_neg (not_not.mpr h)

theorem withTenantOf_other {c : CoreId} {k : Eff} (h : s.tenantOf c ≠ s.myTenant) : withTenantOf c s k = .trap .tenant (c.setWidth 64) :=
  if_pos h

/-- The bytes of a source that check 4 of R310 refuses. -/
theorem beyond_iff (k : Core) (src : Word) (len : Nat) : (!isLocal src || decide (k.scratch < src.toNat + len)) = true
    ↔ isLocal src = false ∨ k.scratch < src.toNat + len := by simp

theorem not_beyond {k : Core} {src : Word} {len : Nat} (hlocal : isLocal src = true) (hscratch : src.toNat + len ≤ k.scratch) :
    ¬(!isLocal src || decide (k.scratch < src.toNat + len)) = true := by
  rw [beyond_iff]
  exact not_or.mpr ⟨by simp [hlocal], Nat.not_lt.mpr hscratch⟩

theorem umod_sixteen_eq_zero_iff (v : Word) : v % 16 = 0 ↔ v.toNat % 16 = 0 := BitVec.toNat_inj.symm

end

/-- A `send` may begin: its context may release, the copy engine has room, and its operands are a source, a target and a length. -/
structure SendBegins (s : State) (a c : SReg) (n : SCon) (src target : Word) (len : Nat) : Prop where
  release : MayRelease s
  room : CopyRoom s
  src_eq : readS s.me a = src
  target_eq : readS s.me c = target
  len_eq : (readSC s.me n).toNat = len

theorem countIssue_sendBegins {s : State} {a c : SReg} {n : SCon} (hrelease : MayRelease s) (hroom : CopyRoom s) :
    SendBegins (countIssue s) a c n (readS s.me a) (readS s.me c) (readSC s.me n).toNat :=
  ⟨(countIssue_mayRelease s).mpr hrelease, (countIssue_copyRoom s).mpr hroom, countIssue_readS s a, countIssue_readS s c,
    congrArg BitVec.toNat (countIssue_readSC s n)⟩

section
variable {s : State} {a c : SReg} {n : SCon} {ring : BitVec 4} {src v : Word} {len : Nat} (hbegin : SendBegins s a c n src v len)
include hbegin

theorem sendEff_bad_length (hlen : len < 1 ∨ 16384 < len) : sendEff a c n ring s = .trap .illegal 59 := by
  obtain ⟨hrelease, hroom, rfl, rfl, rfl⟩ := hbegin
  simp only [sendEff, withRelease_ok hrelease, withCopyRoom_ok hroom, leftCopyWait_me, if_pos hlen]

variable (hlen : ¬(len < 1 ∨ 16384 < len))
include hlen

theorem sendEff_bad_target (htarget : ¬NamesCore v) : sendEff a c n ring s = .trap .illegal 50 := by
  obtain ⟨hrelease, hroom, rfl, rfl, rfl⟩ := hbegin
  simp only [sendEff, withRelease_ok hrelease, withCopyRoom_ok hroom, leftCopyWait_me, if_neg hlen, withTarget_bad htarget]

variable (htarget : NamesCore v)
include htarget

theorem sendEff_misaligned (halign : src.toNat % 16 ≠ 0) : sendEff a c n ring s = .trap .align src := by
  obtain ⟨hrelease, hroom, rfl, rfl, rfl⟩ := hbegin
  have hsrc := mt (umod_sixteen_eq_zero_iff _).mp halign
  simp only [sendEff, withRelease_ok hrelease, withCopyRoom_ok hroom, leftCopyWait_me, if_neg hlen, withTarget_ok htarget, if_pos hsrc]

variable (halign : src.toNat % 16 = 0)
include halign

theorem sendEff_not_local (hfar : isLocal src = false ∨ s.myCore.scratch < src.toNat + len) :
    sendEff a c n ring s = .trap .xlatePerm src := by
  obtain ⟨hrelease, hroom, rfl, rfl, rfl⟩ := hbegin
  have hsrc := (umod_sixteen_eq_zero_iff _).mpr halign
  have hbytes := (beyond_iff ..).mpr hfar
  simp only [sendEff, withRelease_ok hrelease, withCopyRoom_ok hroom, leftCopyWait_me, leftCopyWait_scratch, if_neg hlen,
    withTarget_ok htarget, if_neg (not_not.mpr hsrc), if_pos hbytes]

variable (hlocal : isLocal src = true) (hscratch : src.toNat + len ≤ s.myCore.scratch)
include hlocal hscratch

theorem sendEff_other_tenant (htenant : s.tenantOf (v.setWidth 16) ≠ s.myTenant) :
    sendEff a c n ring s = .trap .tenant ((v.setWidth 16 : CoreId).setWidth 64) := by
  obtain ⟨hrelease, hroom, rfl, rfl, rfl⟩ := hbegin
  have hsrc := (umod_sixteen_eq_zero_iff _).mpr halign
  have hbytes := not_beyond hlocal hscratch
  simp only [sendEff, withRelease_ok hrelease, withCopyRoom_ok hroom, leftCopyWait_me, leftCopyWait_scratch, if_neg hlen,
    withTarget_ok htarget, if_neg (not_not.mpr hsrc), if_neg hbytes, withTenantOf_other (s := leftCopyWait s) htenant]

/-- A `send` whose checks pass, that waits for no copy of its context and is admitted, leaves from the state in which its delivery
has joined the open batch. -/
theorem sendEff_admitted {u : State} (htenant : s.tenantOf (v.setWidth 16) = s.myTenant)
    (hcopies : ∀ o ∈ s.myCore.ops, ∀ x y z w p q r, ¬(o.owner = s.myHandle ∧ o.op = .copy x y z w p q r))
    (hadmitted : Admitted (leftCopyWait s) (itemBytes len) (coreDie (v.setWidth 16)) u) :
    ∃ o, sendEff a c n ring s = .done (sendDeliveryFrom (deliveryJoined u) u.curCore o (v.setWidth 16) ring
      (u.myCore.readLocal src.toNat len) (releaseMine u).1) := by
  obtain ⟨hrelease, hroom, rfl, rfl, rfl⟩ := hbegin
  have hsrc := (umod_sixteen_eq_zero_iff _).mpr halign
  have hbytes := not_beyond hlocal hscratch
  obtain ⟨o, ho⟩ := newOp_find (releaseMine u).2 .delivery [] [] []
  refine ⟨o, ?_⟩
  simp only [sendEff, withRelease_ok hrelease, withCopyRoom_ok hroom, leftCopyWait_me, leftCopyWait_scratch, if_neg hlen,
    withTarget_ok htarget, if_neg (not_not.mpr hsrc), if_neg hbytes, withTenantOf_ok (s := leftCopyWait s) htenant,
    leftCopyWait_ops, leftCopyWait_myHandle, withAdmission_ok hadmitted, ho]
  rw [if_neg ?_]
  · rfl
  · rw [List.any_eq_true]
    rintro ⟨x, hx, hmine⟩
    obtain ⟨howner, hcopy⟩ := Bool.and_eq_true_iff.mp hmine
    split at hcopy
    case h_1 hop => exact hcopies x hx _ _ _ _ _ _ _ ⟨beq_iff_eq.mp howner, hop⟩
    case h_2 => cases hcopy

/-- Its packet is then the last of the network, with the bytes of the source, and its operation the last of the core's. -/
theorem sendEff_delivers {u : State} (htenant : s.tenantOf (v.setWidth 16) = s.myTenant)
    (hcopies : ∀ o ∈ s.myCore.ops, ∀ x y z w p q r, ¬(o.owner = s.myHandle ∧ o.op = .copy x y z w p q r))
    (hadmitted : Admitted (leftCopyWait s) (itemBytes len) (coreDie (v.setWidth 16)) u)
    (hreach : reachable u (coreDie s.curCore) (coreDie (v.setWidth 16)) = true) :
    ∃ t q, sendEff a c n ring s = .done t ∧ Joins s t .delivery ∧ t.net = u.net ++ [q]
      ∧ q.msg = .delivery (v.setWidth 16) ring (s.myCore.readLocal src.toNat len) ∧ t.me.rc = s.me.rc + 1 := by
  obtain ⟨o, heff⟩ := sendEff_admitted (ring := ring) hbegin hlen htarget halign hlocal hscratch htenant hcopies hadmitted
  obtain ⟨-, hadmit⟩ := hadmitted
  rw [admitAll_readLocal hadmit, leftCopyWait_readLocal] at heff
  obtain ⟨t, q, rfl, hleaves⟩ := sendDelivery_leaves hadmit hreach o ring (s.myCore.readLocal src.toNat len) (releaseMine u).1
  exact ⟨_, q, heff, hleaves⟩

end

/-! ## `seal` and `bwait` (R307, R308) -/

section
variable {s : State}

/-- The context of `s` after it has sealed its open batch and opened the next. -/
def sealedCtx (s : State) : Ctx :=
  { s.me with
    sealed := if batchOpen s.myCore s.myHandle s.me.batch then s.me.sealed ++ [s.me.batch] else s.me.sealed
    batch := s.me.batch + 1 }

theorem sealEff_room {d : SReg} (h : s.me.sealed.length < 15) :
    sealEff d s = .done (s.setMe ((sealedCtx s).setS d.r (BitVec.ofNat 64 (s.me.batch % 16)))) := by
  simp only [sealEff, if_neg (Nat.not_le.mpr h), wrS, State.me_setMe, State.setMe_setMe, sealedCtx]

theorem sealEff_full {d : SReg} (h : 15 ≤ s.me.sealed.length) : sealEff d s = .hold s := if_pos h

theorem bwaitEff_beyond {n : SCon} (h : 15 < (readSC s.me n).toNat) : bwaitEff n s = .trap .illegal 41 := if_pos h

theorem bwaitEff_waits {n : SCon} (h : (readSC s.me n).toNat ≤ 15) (hopen : (readSC s.me n).toNat < s.me.sealed.length) :
    bwaitEff n s = .hold s := by
  simp only [bwaitEff, if_neg (Nat.not_lt.mpr h), if_pos hopen]

theorem bwaitEff_done {n : SCon} (h : (readSC s.me n).toNat ≤ 15) (hopen : s.me.sealed.length ≤ (readSC s.me n).toNat) :
    bwaitEff n s = .done s := by
  simp only [bwaitEff, if_neg (Nat.not_lt.mpr h), if_neg (Nat.not_lt.mpr hopen)]

theorem issue_hold {i : Instr} {body : State → Eff} {t : State} (h : Issues i s) (hbody : body (countIssue s) = .hold t) :
    issue i body s = .next (holdMe (t.setMe { t.me with wdogCount := s.me.wdogCount })) := issueLat_hold h hbody

theorem execSeal_room {h : Header} {d : SReg} (hissues : Issues (.seal h d) s) (hroom : s.me.sealed.length < 15) :
    execSeal h d s = .next (retired (.seal h d) s ((countIssue s).setMe
      ((sealedCtx (countIssue s)).setS d.r (BitVec.ofNat 64 (s.me.batch % 16))))) := by
  have heff := sealEff_room (s := countIssue s) (d := d) (by rwa [countIssue_sealed])
  rw [countIssue_batch] at heff
  exact issue_done hissues heff

theorem execSeal_full {h : Header} {d : SReg} (hissues : Issues (.seal h d) s) (hfull : 15 ≤ s.me.sealed.length) :
    execSeal h d s = .next (holdMe ((countIssue s).setMe { (countIssue s).me with wdogCount := s.me.wdogCount })) :=
  issue_hold hissues (sealEff_full (by rwa [countIssue_sealed]))

theorem execBwait_beyond {h : Header} {n : SCon} (hissues : Issues (.bwait h n) s) (hbad : 15 < (readSC s.me n).toNat) :
    execBwait h n s = .next (trapMe (countIssue s) .illegal 41) :=
  issue_trap hissues (bwaitEff_beyond (by rwa [countIssue_readSC]))

theorem execBwait_done {h : Header} {n : SCon} (hissues : Issues (.bwait h n) s) (hn : (readSC s.me n).toNat ≤ 15)
    (hfew : s.me.sealed.length ≤ (readSC s.me n).toNat) : execBwait h n s = .next (retired (.bwait h n) s (countIssue s)) :=
  issue_done hissues (bwaitEff_done (by rwa [countIssue_readSC]) (by rwa [countIssue_readSC, countIssue_sealed]))

theorem execBwait_waits {h : Header} {n : SCon} (hissues : Issues (.bwait h n) s) (hn : (readSC s.me n).toNat ≤ 15)
    (hmany : (readSC s.me n).toNat < s.me.sealed.length) :
    execBwait h n s = .next (holdMe ((countIssue s).setMe { (countIssue s).me with wdogCount := s.me.wdogCount })) :=
  issue_hold hissues (bwaitEff_waits (by rwa [countIssue_readSC]) (by rwa [countIssue_readSC, countIssue_sealed]))

end

/-- Settles O27: `seal` and `bwait` look at the number of unfinished sealed batches; a `send` makes its checks in their order, and the
admission that it then passes changes neither its bytes nor the batch that it joins. -/
theorem batchesAndSends : Obligations.BatchesAndSends := by
  unfold Obligations.BatchesAndSends
  refine ⟨fun h d n s => ⟨fun hi hroom => ?sealed, execSeal_full,
    fun hi => ⟨execBwait_beyond hi, execBwait_done hi, execBwait_waits hi⟩⟩, fun h a c n ring s u => ?send⟩
  case sealed =>
    refine ⟨_, execSeal_room hi hroom, fun hd => ?_, ?_, ?_⟩
    · rw [State.me_setMe, Ctx.getS_setS _ _ hd]
    · simp [sealedCtx]
    · simp [sealedCtx, batchOpen]
  case send =>
    intro i c0 src len v tc target hi hrelease hroom
    have hbegin : SendBegins c0 a c n src v len := countIssue_sendBegins hrelease hroom
    have hsize : c0.myCore.scratch = s.myCore.scratch := countIssue_scratch s
    refine ⟨fun hbad => issue_trap hi (sendEff_bad_length hbegin hbad), fun hmin hmax => ?_⟩
    have hlen : ¬(len < 1 ∨ 16384 < len) := by omega
    refine ⟨fun htarget => issue_trap hi (sendEff_bad_target hbegin hlen htarget),
      fun htarget halign => issue_trap hi (sendEff_misaligned hbegin hlen htarget halign),
      fun htarget halign hfar => issue_trap hi (sendEff_not_local hbegin hlen htarget halign (by rwa [hsize])),
      fun htarget halign hlocal hscratch => ?_⟩
    rw [← hsize] at hscratch
    refine ⟨fun htenant => issue_trap hi (sendEff_other_tenant hbegin hlen htarget halign hlocal hscratch
      (by rwa [countIssue_tenantOf, countIssue_myTenant])), fun htenant hcopies hadmitted hreach => ?_⟩
    obtain ⟨t, q, heff, hjoins, hnet, hmsg, hrc⟩ := sendEff_delivers (ring := ring) hbegin hlen htarget halign hlocal hscratch
      (by rwa [countIssue_tenantOf, countIssue_myTenant]) (by rwa [countIssue_ops, countIssue_myHandle]) hadmitted
      (by rwa [countIssue_curCore])
    rw [countIssue_readLocal] at hmsg
    rw [countIssue_rc] at hrc
    have hjoins : Joins s t .delivery :=
      joins_congr (countIssue_ops s) (countIssue_myHandle s) (countIssue_batch s) (countIssue_myTenant s) hjoins
    exact ⟨t, q, issue_done hi heff, hjoins, hnet, hmsg, hrc⟩

end Sys2Proof.Machine
